-- ==== Sys2Proof/Word.lean ====
section
/-!
DEFINITION. The word types of the Maelmevi M4 and the sparse-map type its memories and register files are held in.
-/

/-- One byte of any memory (R4). -/
abbrev Byte := BitVec 8

/-- A 64-bit scalar, record field or bundle word (R15, R166). -/
abbrev Word := BitVec 64

/-- A 4,096-bit vector register (R42). -/
abbrev VReg := BitVec 4096

/-- A 128-bit lane mask (R11). -/
abbrev KMask := BitVec 128

/-- A 1,024-bit quire code (R62). -/
abbrev Quire := BitVec 1024

/-- A sparse map: pairs of key and value, keys strictly rising, and no value equal to the map's default. -/
abbrev SMap (α : Type) := List (Nat × α)
end

