-- ==== Sys2Proof/Machine/Maps.lean ====
section
/-!
DEFINITION. Sparse maps in canonical form, byte lists and bit fields: the small operations every engine uses.
-/

namespace Sys2Proof

/-- The value at key `k`, or the default `d` where the map lists none. DESIGN CHOICE: log entry 6. -/
def SMap.get {α : Type} (d : α) : SMap α → Nat → α
  | [], _ => d
  | (a, x) :: m, k => if k = a then x else if k < a then d else SMap.get d m k

/-- Writes `x` at key `k`, keeping the keys rising and listing no default. -/
def SMap.put {α : Type} [DecidableEq α] (d : α) : SMap α → Nat → α → SMap α
  | [], k, x => if x = d then [] else [(k, x)]
  | (a, y) :: m, k, x =>
    if k < a then (if x = d then (a, y) :: m else (k, x) :: (a, y) :: m)
    else if k = a then (if x = d then m else (k, x) :: m)
    else (a, y) :: SMap.put d m k x

/-- Every key of the map is above `lo`, the keys rise, and no value is the default. -/
def SMap.wfAbove {α : Type} [DecidableEq α] (d : α) : Nat → SMap α → Bool
  | _, [] => true
  | lo, (a, x) :: m => decide (lo < a) && decide (x ≠ d) && SMap.wfAbove d a m

/-- The canonical form: keys strictly rising, and no entry equal to the default. -/
def SMap.wf {α : Type} [DecidableEq α] (d : α) : SMap α → Bool
  | [] => true
  | (a, x) :: m => decide (x ≠ d) && SMap.wfAbove d a m

/-- A memory of bytes in its canonical form: an unlisted address reads 0, and no listed one does. -/
abbrev Memory.wf (m : SMap Byte) : Bool := SMap.wf 0 m

/-- Drops every entry whose key `p` holds of; the read there is the default again. -/
def SMap.erase {α : Type} (p : Nat → Bool) (m : SMap α) : SMap α := m.filter fun e => !p e.1

/-- The bytes of `n`, least significant first (R4). -/
def bytesOf (n : Nat) : Nat → List Byte
  | 0 => []
  | k + 1 => BitVec.ofNat 8 n :: bytesOf (n / 256) k

/-- The number that bytes give, least significant first (R4). -/
def ofBytes : List Byte → Nat
  | [] => 0
  | b :: bs => b.toNat + 256 * ofBytes bs

/-- Reads `n` bytes from `a` upward. -/
def SMap.read (m : SMap Byte) (a : Nat) : Nat → List Byte
  | 0 => []
  | n + 1 => SMap.get 0 m a :: SMap.read m (a + 1) n

/-- Writes bytes from `a` upward. -/
def SMap.write (m : SMap Byte) (a : Nat) : List Byte → SMap Byte
  | [] => m
  | b :: bs => SMap.write (SMap.put 0 m a b) (a + 1) bs

/-- Bits `hi:lo` of a number. -/
def bits (n hi lo : Nat) : Nat := (n >>> lo) % 2 ^ (hi + 1 - lo)

/-- Bit `i` of a number. -/
def bit (n i : Nat) : Bool := n.testBit i

/-- Bits `hi:lo` of a 64-bit word. -/
def fld (w : Word) (hi lo : Nat) : Nat := bits w.toNat hi lo

/-- Replaces bits `hi:lo` of a number by the low bits of `v`. -/
def setBits (n hi lo v : Nat) : Nat :=
  (n >>> (hi + 1)) <<< (hi + 1) + (v % 2 ^ (hi + 1 - lo)) <<< lo + n % 2 ^ lo

/-- One Boolean as a number. -/
def b2n (b : Bool) : Nat := if b then 1 else 0

/-- Sign extension of the low `w` bits of `n` to an integer. -/
def sext (w n : Nat) : Int :=
  let m := n % 2 ^ w
  if m.testBit (w - 1) then (m : Int) - (2 ^ w : Nat) else m

/-- An integer reduced modulo 2^`w`. -/
def modPow (w : Nat) (i : Int) : Nat := (i % ((2 ^ w : Nat) : Int)).toNat

/-- The numbers from `a` up to but not including `b`. -/
def range (a b : Nat) : List Nat := (List.range (b - a)).map (a + ·)

/-- The first index whose entry satisfies `p`. -/
def findIx {α : Type} (p : α → Bool) : List α → Nat → Option Nat
  | [], _ => none
  | x :: xs, i => if p x then some i else findIx p xs (i + 1)

/-- Inserts `x` after every entry that does not come after it. -/
def insertBy {α : Type} (before : α → α → Bool) (x : α) : List α → List α
  | [] => [x]
  | y :: ys => if before x y then x :: y :: ys else y :: insertBy before x ys

/-- `List.eraseIdx` under a short name. -/
def dropAt {α : Type} (l : List α) (i : Nat) : List α := l.eraseIdx i

end Sys2Proof
end

