-- ==== Sys2Proof/Syntax.lean ====
section
/-!
DEFINITION. The abstract syntax: the slots, the operand formats of Tables 1.3 to 1.5, the data that inputs from outside carry, and Instr with one constructor per row of the opcode table.
A slot syllable keeps its header (guard, sense, transient bit and the slot it stands in) and its operands in the format the opcode fixes.
An engine step or an input names what it acts on.
-/

namespace Sys2Proof

/-- The ten slots of a bundle, in slot order (Table 1.1). -/
inductive Slot where
  | s0 | s1 | v0 | v1 | q | x | t | m | d | b
  deriving DecidableEq, Repr

/-- The opcode spaces: S0 and S1 share one, and so do V0 and V1 (R23). -/
inductive Cls where
  | s | v | q | x | t | m | d | b
  deriving DecidableEq, Repr

/-- The common fields of a syllable (Table 1.3), with the slot it stands in. -/
structure Hdr where
  slot : Slot
  /-- Guard predicate. -/
  g : BitVec 7
  /-- Execute when the guard is false. -/
  n : Bool
  /-- Transient result. -/
  t : Bool
  deriving DecidableEq, Repr

/-- Bits 47:0 of an F3 or FX syllable (Tables 1.4 and 1.5). -/
structure F3 where
  a : BitVec 7
  b : BitVec 7
  c : BitVec 7
  d : BitVec 7
  fmt : BitVec 5
  rnd : BitVec 3
  s : Bool
  fi : Bool
  fo : Bool
  w : Bool
  ord : BitVec 2
  sub : BitVec 6
  deriving DecidableEq, Repr

/-- Bits 47:0 of an FI syllable (Table 1.4). -/
structure FI where
  a : BitVec 7
  b : BitVec 7
  imm : BitVec 34
  deriving DecidableEq, Repr

/-- Bits 47:0 of an FM syllable (Table 1.4). -/
structure FM where
  a : BitVec 7
  b : BitVec 7
  sz : BitVec 4
  off : BitVec 30
  deriving DecidableEq, Repr

/-- Bits 47:0 of an FB syllable (Table 1.4): control fields in 47:34, offset or control fields in 33:0. -/
structure FB where
  ctl : BitVec 14
  off : BitVec 34
  deriving DecidableEq, Repr

/-- Where an uncorrectable error was found (R387, R404, R365, R373, R443). -/
inductive ErrorSite where
  /-- A line of memory, met by an access of partition `p`. -/
  | line (pa p : Nat)
  /-- A core's scratchpad or accumulator store. -/
  | core (c : Nat)
  /-- A riser entry of home `h`, met during a replay of partition `p`'s group (R439). -/
  | riser (h p : Nat)
  /-- A line met by the converter of stack `s` (R373). -/
  | converter (s : Nat)
  deriving DecidableEq, Repr

/-- What a home writes: a write request in flight, or a host write through BAR2 or BAR4 (R453). -/
inductive HomeWrite where
  | fabric (k : Nat)
  | host (pa : Nat) (data : List Byte)
  deriving DecidableEq, Repr

/-- A member's answer in the seal exchange (Table 17.3). -/
structure SealReply where
  member : Nat
  ok : Bool
  cause : Nat
  deriving DecidableEq, Repr

/-- What a request that arrives through a berth asks for (R445). -/
inductive RemoteOp where
  /-- A put with its data, or a signal when there is no data and `sig` is true. The flag of an LPUTF comes as its physical address, which the sender's module has translated, and its value (R343). -/
  | put (x y addr ln : Nat) (ring sig : Bool) (data : List Byte) (flag : Option (Nat × Nat))
  | read (pa len : Nat)
  | write (pa : Nat) (data : List Byte)
  | atomic (pa op : Nat) (wide : Bool) (v : Word)
  /-- ACAS and ACASW with their operand blocks (R350). -/
  | swap (pa : Nat) (wide : Bool) (block : List Byte)
  | swapWords (pa n : Nat) (block : List Byte)
  | enqueue (pa : Nat) (v : Word)
  | chase (pa start limit off : Nat)
  /-- ARED `.add` and `.fin` (R353). -/
  | crucibleAdd (pa fmt cell : Nat) (v : Word)
  | crucibleFin (pa fmt mode cell : Nat)
  /-- A raise or a post of the JCB at `jcb` (R128). -/
  | raise (pa jcb : Nat) (n : Word)
  | post (pa jcb : Nat) (n : Word)
  /-- The release of a source to the home or target `at_`, numbered as the replay filters are (R377). -/
  | release (at_ : Nat)
  deriving DecidableEq, Repr

/-- A request that arrives through a berth, with what R445 says it carries. -/
structure RemoteRequest where
  berth : Nat
  module : Nat
  part : Nat
  core : Nat
  seq : Nat
  floor : Nat
  key : BitVec 32
  gid : Nat
  pour : Nat
  time : Nat
  op : RemoteOp
  deriving DecidableEq, Repr

/-- One constructor per row of the opcode table. -/
inductive Instr where
  /-- A bundle whose header has MASK = 0 issues as a one-cycle no-op (R16). -/
  | emptyBundle
  /-- A present NOP syllable does nothing (R22). -/
  | nop (h : Hdr)
  /-- A bundle held at issue by a stalling syllable issues whole once every stall condition in it is met (R32). -/
  | stallEnd (c : Nat)
  /-- A slot result reaches its destination register, predicate or mask at its latency, is written to the file unless transient, and raises its flags (R29). -/
  | resultLanding (c : Nat)
  /-- A cell result reaches its chain or full landing in the accumulator store and raises its flags at the full landing (R219). -/
  | cellLanding (c : Nat)
  /-- Branches to the bundle at a signed offset from its own bundle (R139). -/
  | br (h : Hdr) (f : FB)
  /-- Branches to the scratchpad address held in a scalar (R140). -/
  | bri (h : Hdr) (f : FB)
  /-- Pushes the address of the next bundle onto RETSTK and branches (R141). -/
  | call (h : Hdr) (f : FB)
  /-- Pops RETSTK and branches to the popped address (R141). -/
  | ret (h : Hdr) (f : FB)
  /-- Prepares a pipelined loop with the trip count taken from a scalar: sets RRB, LC and EC and writes the stage predicates (R144). -/
  | loopi (h : Hdr) (f : FB)
  /-- Prepares a pipelined loop with an immediate trip count (R144). -/
  | loopiImm (h : Hdr) (f : FB)
  /-- Ends a pass of a pipelined loop: rotates RRB, writes p32, and branches while iterations or drain passes remain (R145). -/
  | loopb (h : Hdr) (f : FB)
  /-- Closes a plain counted loop by decrementing LC and branching while LC > 0 (R146). -/
  | loopx (h : Hdr) (f : FB)
  /-- Starts a repeat of a contiguous body with the count taken from a scalar (R147). -/
  | rep (h : Hdr) (f : FB)
  /-- Starts a repeat of a contiguous body with an immediate count (R147). -/
  | repImm (h : Hdr) (f : FB)
  /-- Makes its bundle count as n issued bundles (R149). -/
  | nopn (h : Hdr) (f : FB)
  /-- Writes a constant to a predicate (R150). -/
  | pset (h : Hdr) (f : F3)
  /-- Writes the AND of two optionally negated predicates (R150). -/
  | pand (h : Hdr) (f : F3)
  /-- Writes the OR of two optionally negated predicates (R150). -/
  | por (h : Hdr) (f : F3)
  /-- Writes the XOR of two optionally negated predicates (R150). -/
  | pxor (h : Hdr) (f : F3)
  /-- Writes the inverse of a predicate (R150). -/
  | pnot (h : Hdr) (f : F3)
  /-- Copies a predicate (R150). -/
  | pmov (h : Hdr) (f : F3)
  /-- Sets, or holds for the next generation, the count that a rendezvous point expects (R154). -/
  | rvi (h : Hdr) (f : FB)
  /-- Arrives at a rendezvous point: sets OUTj and AGj and sends the arrival (R154). -/
  | rva (h : Hdr) (f : FB)
  /-- Stalls until the task's outstanding arrival has completed, then acquires at team scope (R154). -/
  | rvw (h : Hdr) (f : FB)
  /-- Arrives at a rendezvous point, then waits as RVW does (R154). -/
  | rvaw (h : Hdr) (f : FB)
  /-- An arrival is counted at a rendezvous point; when the count reaches EXP the generation completes and its waiting tasks are released (R154). -/
  | rendezvousArrival (p : Nat) (t : Nat) (k : Nat)
  /-- Marks a possible pre-emption point; if the point is taken and a request is pending, the context stops after this bundle (R158). -/
  | phint (h : Hdr) (f : FB)
  /-- Lets its bundle issue, then raises SW_TRAP at the next bundle boundary (R161). -/
  | trap (h : Hdr) (f : FB)
  /-- Ends the tile task after its bundle issues (R161). -/
  | tend (h : Hdr) (f : FB)
  /-- Ends the task, marks the nest failed and logs the code to the black box (R161). -/
  | tfail (h : Hdr) (f : FB)
  /-- Reads a context control register into a scalar (R162). -/
  | crr (h : Hdr) (f : F3)
  /-- Writes a context control register from a scalar (R162). -/
  | crw (h : Hdr) (f : F3)
  /-- Adds two scalars modulo 2^64 (R169). -/
  | add (h : Hdr) (f : F3)
  /-- Subtracts two scalars modulo 2^64 (R169). -/
  | sub (h : Hdr) (f : F3)
  /-- Adds a sign-extended immediate to a scalar (R169). -/
  | addi (h : Hdr) (f : FI)
  /-- Bitwise AND of two scalars (R169). -/
  | and (h : Hdr) (f : F3)
  /-- Bitwise OR of two scalars (R169). -/
  | or (h : Hdr) (f : F3)
  /-- Bitwise XOR of two scalars (R169). -/
  | xor (h : Hdr) (f : F3)
  /-- Bitwise AND with an immediate (R169). -/
  | andi (h : Hdr) (f : FI)
  /-- Bitwise OR with an immediate (R169). -/
  | ori (h : Hdr) (f : FI)
  /-- Bitwise XOR with an immediate (R169). -/
  | xori (h : Hdr) (f : FI)
  /-- Shifts left by b[5:0] (R169). -/
  | sll (h : Hdr) (f : F3)
  /-- Shifts right logically by b[5:0] (R169). -/
  | srl (h : Hdr) (f : F3)
  /-- Shifts right arithmetically by b[5:0] (R169). -/
  | sra (h : Hdr) (f : F3)
  /-- Shifts left by an immediate (R169). -/
  | slli (h : Hdr) (f : FI)
  /-- Shifts right logically by an immediate (R169). -/
  | srli (h : Hdr) (f : FI)
  /-- Shifts right arithmetically by an immediate (R169). -/
  | srai (h : Hdr) (f : FI)
  /-- Writes the low 64 bits of a product (R169). -/
  | mul (h : Hdr) (f : F3)
  /-- Writes the high 64 bits of the signed product (R169). -/
  | mulh (h : Hdr) (f : F3)
  /-- Writes the high 64 bits of the unsigned product (R169). -/
  | mulhu (h : Hdr) (f : F3)
  /-- Signed division truncated toward zero; never faults (R170). -/
  | div (h : Hdr) (f : F3)
  /-- Unsigned division; never faults (R170). -/
  | divu (h : Hdr) (f : F3)
  /-- Signed remainder whose sign follows the dividend (R170). -/
  | rem (h : Hdr) (f : F3)
  /-- Unsigned remainder (R170). -/
  | remu (h : Hdr) (f : F3)
  /-- Signed minimum (R169). -/
  | min (h : Hdr) (f : F3)
  /-- Signed maximum (R169). -/
  | max (h : Hdr) (f : F3)
  /-- Unsigned minimum (R169). -/
  | minu (h : Hdr) (f : F3)
  /-- Unsigned maximum (R169). -/
  | maxu (h : Hdr) (f : F3)
  /-- Counts leading zero bits (R169). -/
  | clz (h : Hdr) (f : F3)
  /-- Counts set bits (R169). -/
  | popc (h : Hdr) (f : F3)
  /-- Loads a sign-extended 34-bit immediate (R171). -/
  | li (h : Hdr) (f : FI)
  /-- Replaces bits 63:34 of a scalar with an immediate (R171). -/
  | lih (h : Hdr) (f : FI)
  /-- Adds a scalar shifted left by sh (R169). -/
  | addsc (h : Hdr) (f : F3)
  /-- Writes a predicate from an integer comparison of two scalars (R172). -/
  | cmp (h : Hdr) (f : F3)
  /-- Writes a predicate from an integer comparison with an immediate (R172). -/
  | cmpi (h : Hdr) (f : FI)
  /-- Selects one of two scalars by a predicate (R173). -/
  | sel (h : Hdr) (f : F3)
  /-- Copies a scalar to the other cluster (R174). -/
  | xmv (h : Hdr) (f : F3)
  /-- Loads 1 to 8 bytes from the scratchpad into a scalar (R177). -/
  | ld (h : Hdr) (f : FM)
  /-- Stores 1 to 8 bytes of a scalar to the scratchpad (R177). -/
  | st (h : Hdr) (f : FM)
  /-- FP32 addition, rounded once (R178). -/
  | fadd (h : Hdr) (f : F3)
  /-- FP32 subtraction, rounded once (R178). -/
  | fsub (h : Hdr) (f : F3)
  /-- FP32 multiplication, rounded once (R178). -/
  | fmul (h : Hdr) (f : F3)
  /-- FP32 fused multiply-add, rounded once (R178). -/
  | ffma (h : Hdr) (f : F3)
  /-- FP32 division, rounded once (R178). -/
  | fdiv (h : Hdr) (f : F3)
  /-- FP32 square root, rounded once (R178). -/
  | fsqrt (h : Hdr) (f : F3)
  /-- FP32 minimum, with -0 below +0 (R179). -/
  | fmin (h : Hdr) (f : F3)
  /-- FP32 maximum, with -0 below +0 (R179). -/
  | fmax (h : Hdr) (f : F3)
  /-- Writes a predicate from an FP32 comparison (R180). -/
  | fcmp (h : Hdr) (f : F3)
  /-- Converts a scalar element between formats with one rounding (R181). -/
  | fcvt (h : Hdr) (f : F3)
  /-- Writes one field of a shape register's shadow copy (R184). -/
  | shw (h : Hdr) (f : F3)
  /-- Reads a field of a shape register's shadow or active copy (R184). -/
  | shrd (h : Hdr) (f : F3)
  /-- Lane-wise integer addition (R190). -/
  | vadd (h : Hdr) (f : F3)
  /-- Lane-wise integer subtraction (R190). -/
  | vsub (h : Hdr) (f : F3)
  /-- Lane-wise low product (R190). -/
  | vmul (h : Hdr) (f : F3)
  /-- Lane-wise high product (R190). -/
  | vmulh (h : Hdr) (f : F3)
  /-- Lane-wise AND (R190). -/
  | vand (h : Hdr) (f : F3)
  /-- Lane-wise OR (R190). -/
  | vor (h : Hdr) (f : F3)
  /-- Lane-wise XOR (R190). -/
  | vxor (h : Hdr) (f : F3)
  /-- Lane-wise shift left (R190). -/
  | vsll (h : Hdr) (f : F3)
  /-- Lane-wise logical shift right (R190). -/
  | vsrl (h : Hdr) (f : F3)
  /-- Lane-wise arithmetic shift right (R190). -/
  | vsra (h : Hdr) (f : F3)
  /-- Lane-wise integer minimum (R190). -/
  | vmin (h : Hdr) (f : F3)
  /-- Lane-wise integer maximum (R190). -/
  | vmax (h : Hdr) (f : F3)
  /-- Lane-wise absolute value modulo 2^w (R190). -/
  | vabs (h : Hdr) (f : F3)
  /-- Lane-wise saturating addition (R191). -/
  | vadds (h : Hdr) (f : F3)
  /-- Lane-wise saturating subtraction (R191). -/
  | vsubs (h : Hdr) (f : F3)
  /-- Integer compare into a lane mask (R192). -/
  | vcmp (h : Hdr) (f : F3)
  /-- Element-wise IEEE addition (R193). -/
  | vfadd (h : Hdr) (f : F3)
  /-- Element-wise IEEE subtraction (R193). -/
  | vfsub (h : Hdr) (f : F3)
  /-- Element-wise IEEE multiplication (R193). -/
  | vfmul (h : Hdr) (f : F3)
  /-- Element-wise IEEE fused multiply-add (R193). -/
  | vffma (h : Hdr) (f : F3)
  /-- Element-wise IEEE division (R193). -/
  | vfdiv (h : Hdr) (f : F3)
  /-- Element-wise IEEE square root (R193). -/
  | vfsqrt (h : Hdr) (f : F3)
  /-- Element-wise IEEE minimum (R194). -/
  | vfmin (h : Hdr) (f : F3)
  /-- Element-wise IEEE maximum (R194). -/
  | vfmax (h : Hdr) (f : F3)
  /-- Clears each element's sign bit (R194). -/
  | vfabs (h : Hdr) (f : F3)
  /-- Inverts each element's sign bit (R194). -/
  | vfneg (h : Hdr) (f : F3)
  /-- IEEE compare into a lane mask (R195). -/
  | vfcmp (h : Hdr) (f : F3)
  /-- Element-wise taper addition (R196). -/
  | vtadd (h : Hdr) (f : F3)
  /-- Element-wise taper subtraction (R196). -/
  | vtsub (h : Hdr) (f : F3)
  /-- Element-wise taper multiplication (R196). -/
  | vtmul (h : Hdr) (f : F3)
  /-- Element-wise taper fused multiply-add (R196). -/
  | vtfma (h : Hdr) (f : F3)
  /-- Reduces the enabled elements along the fixed pairwise tree into element 0 (R197). -/
  | vred (h : Hdr) (f : F3)
  /-- Selects lanes of two registers by a mask (R198). -/
  | vsel (h : Hdr) (f : F3)
  /-- ANDs two lane masks (R199). -/
  | kand (h : Hdr) (f : F3)
  /-- ORs two lane masks (R199). -/
  | kor (h : Hdr) (f : F3)
  /-- XORs two lane masks (R199). -/
  | kxor (h : Hdr) (f : F3)
  /-- Inverts a lane mask (R199). -/
  | knot (h : Hdr) (f : F3)
  /-- Counts the set bits of a lane mask into a scalar (R199). -/
  | kpop (h : Hdr) (f : F3)
  /-- Broadcasts a scalar element to every enabled element (R200). -/
  | vbcast (h : Hdr) (f : F3)
  /-- Copies the enabled lanes of a register (R200). -/
  | vmov (h : Hdr) (f : F3)
  /-- Extracts one element into a scalar (R201). -/
  | vext (h : Hdr) (f : F3)
  /-- Inserts a scalar into one element (R201). -/
  | vins (h : Hdr) (f : F3)
  /-- Writes element e := sa + e (R200). -/
  | viota (h : Hdr) (f : F3)
  /-- Loads 512 bytes from the scratchpad into a vector register (R202). -/
  | vld (h : Hdr) (f : FM)
  /-- Stores the enabled lanes of a vector register to the scratchpad (R202). -/
  | vst (h : Hdr) (f : FM)
  /-- Strided vector load through a shape register (R207). -/
  | vlds (h : Hdr) (f : F3)
  /-- Strided vector store through a shape register (R207). -/
  | vsts (h : Hdr) (f : F3)
  /-- Indexed vector gather from the scratchpad (R208). -/
  | vgath (h : Hdr) (f : F3)
  /-- Indexed vector scatter to the scratchpad (R208). -/
  | vscat (h : Hdr) (f : F3)
  /-- Multiplies algebra elements under a structure table (R212). -/
  | vamul (h : Hdr) (f : F3)
  /-- Conjugates algebra elements under a structure table (R213). -/
  | vconj (h : Hdr) (f : F3)
  /-- Writes component 0 of x times conj(x) and zeroes the other components (R214). -/
  | vnorm (h : Hdr) (f : F3)
  /-- Loads a structure table from the scratchpad (R211). -/
  | aload (h : Hdr) (f : F3)
  /-- Loads a preset structure table (R211). -/
  | aloadPreset (h : Hdr) (f : F3)
  /-- Copies a vector register to the other cluster (R215). -/
  | vxmv (h : Hdr) (f : F3)
  /-- Zeroes the enabled cells of a window and keeps their tags (R223). -/
  | qclr (h : Hdr) (f : F3)
  /-- Accumulates the exact lane sums of products into cells (R224). -/
  | qmac (h : Hdr) (f : F3)
  /-- Subtracts the exact lane sums of products from cells (R224). -/
  | qmacn (h : Hdr) (f : F3)
  /-- Adds two windows cell by cell (R225). -/
  | qadd (h : Hdr) (f : F3)
  /-- Subtracts two windows cell by cell (R225). -/
  | qsub (h : Hdr) (f : F3)
  /-- Negates a window cell by cell (R225). -/
  | qneg (h : Hdr) (f : F3)
  /-- Writes the exact sum of the enabled cells into one cell (R228). -/
  | qred (h : Hdr) (f : F3)
  /-- Rounds cells once into vector elements (R229). -/
  | qround (h : Hdr) (f : F3)
  /-- Rounds one cell into one vector element (R230). -/
  | qrounds (h : Hdr) (f : F3)
  /-- Fills a window from a quire or F32 image in the scratchpad (R233). -/
  | qld (h : Hdr) (f : FM)
  /-- Spills a window as a quire or F32 image to the scratchpad (R233). -/
  | qst (h : Hdr) (f : FM)
  /-- Copies cells together with their tags (R226). -/
  | qmov (h : Hdr) (f : F3)
  /-- Tests cells into a lane mask (R231). -/
  | qtst (h : Hdr) (f : F3)
  /-- Sets cell tags, zeroing or converting the cell values (R227). -/
  | qmode (h : Hdr) (f : F3)
  /-- Converts a slice of elements between formats (R240). -/
  | xcvt (h : Hdr) (f : F3)
  /-- Packs source elements into B4 blocks with headers (R242). -/
  | xpack (h : Hdr) (f : F3)
  /-- Decodes B4 codes into elements of a destination format (R244). -/
  | xunp (h : Hdr) (f : F3)
  /-- Multiplies each element by the scale of its block (R241). -/
  | xscl (h : Hdr) (f : F3)
  /-- Permutes elements by an index vector (R245). -/
  | xshuf (h : Hdr) (f : F3)
  /-- Permutes elements by an affine shape register pattern (R246). -/
  | xshufShape (h : Hdr) (f : F3)
  /-- Reverses elements within groups (R245). -/
  | xrev (h : Hdr) (f : F3)
  /-- Rotates the elements of a register (R245). -/
  | xrot (h : Hdr) (f : F3)
  /-- Interleaves groups of two registers (R245). -/
  | xzip (h : Hdr) (f : F3)
  /-- Separates the even or odd groups of two registers (R245). -/
  | xunz (h : Hdr) (f : F3)
  /-- Broadcasts one group across the register (R245). -/
  | xbc (h : Hdr) (f : F3)
  /-- Compresses the enabled elements to the front (R245). -/
  | xcpr (h : Hdr) (f : F3)
  /-- Expands elements into the enabled positions (R245). -/
  | xexp (h : Hdr) (f : F3)
  /-- Swizzles and negates algebra components (R247). -/
  | xswz (h : Hdr) (f : F3)
  /-- Takes a window of the concatenation of two registers (R245). -/
  | xmrg (h : Hdr) (f : F3)
  /-- Keeps the two largest values of each group of four and writes their indices (R248). -/
  | xsps (h : Hdr) (f : F3)
  /-- Sets the context's dither phase (R249). -/
  | xdth (h : Hdr) (f : F3)
  /-- Exchanges a shape register and configures a transposer buffer from it (R252). -/
  | trcfg (h : Hdr) (f : F3)
  /-- Writes rows of a transposer buffer from a vector register (R252). -/
  | trw (h : Hdr) (f : F3)
  /-- Reads columns of a transposer buffer into a vector register (R252). -/
  | trc (h : Hdr) (f : F3)
  /-- Clears a transposer buffer (R252). -/
  | trclr (h : Hdr) (f : F3)
  /-- Reads a buffer's configuration and pending state into lane 0 (R252). -/
  | trst (h : Hdr) (f : F3)
  /-- A TRW or TRCLR changes its buffer eight bundles after it issues (R253). -/
  | transposerChangeLands (c : Nat)
  /-- Queues an MGO nest with copied shape fields and table (R305). -/
  | mgo (h : Hdr) (f : F3)
  /-- Performs one K-step on a tile group at a fixed latency (R295). -/
  | mstep (h : Hdr) (f : F3)
  /-- Stalls until a nest, or every nest, has completed (R313). -/
  | mwait (h : Hdr) (f : F3)
  /-- Writes a nest's status record to the scratchpad (R314). -/
  | mstat (h : Hdr) (f : F3)
  /-- Stops a queued or running nest (R315). -/
  | mabort (h : Hdr) (f : F3)
  /-- Zeroes a tile with a given tag (R300). -/
  | mzero (h : Hdr) (f : F3)
  /-- Loads a tile from the scratchpad (R301). -/
  | mldt (h : Hdr) (f : F3)
  /-- Rounds a tile and stores it to the scratchpad (R302). -/
  | mstt (h : Hdr) (f : F3)
  /-- A queued nest starts once earlier nests and pending cell results are done, and is checked (R307). -/
  | mgoNestStart (c : Nat)
  /-- A nest's next K-step begins after an occupancy once its ring slots are filled (R312). -/
  | kstepStart (c : Nat)
  /-- A nest K-step's results reach the cells; slots are freed and the last touch advances DPH (R310). -/
  | kstepRetire (c : Nat)
  /-- Binds a stream in port, ring or conditional mode from a shape register (R257). -/
  | sbind (h : Hdr) (f : F3)
  /-- Unbinds a stream (R257). -/
  | sunb (h : Hdr) (f : F3)
  /-- Stalls until a stream's earlier writes are performed, and optionally releases them (R276). -/
  | ssync (h : Hdr) (f : F3)
  /-- Initialises a ring from a base and a configuration word (R264). -/
  | ginit (h : Hdr) (f : F3)
  /-- Stalls until a ring's fill reaches n (R265). -/
  | gwf (h : Hdr) (f : F3)
  /-- Stalls until a ring's free count reaches n (R265). -/
  | gwe (h : Hdr) (f : F3)
  /-- Frees n slots of a ring (R265). -/
  | gadvh (h : Hdr) (f : F3)
  /-- Commits n slots of a ring (R265). -/
  | gadvt (h : Hdr) (f : F3)
  /-- Reads a ring's counts or pointers (R265). -/
  | gstat (h : Hdr) (f : F3)
  /-- Appends the enabled lanes as records to a conditional ring (R269). -/
  | spushc (h : Hdr) (f : F3)
  /-- Moves up to 128 records into a conditional port entry (R270). -/
  | spopc (h : Hdr) (f : F3)
  /-- Joins a team-wide rebalance of a conditional ring and sets the ring BUSY (R271). -/
  | sbal (h : Hdr) (f : F3)
  /-- Once every live task has issued SBAL, the routing switch redistributes the records (R271). -/
  | sbalRun (p : Nat) (t : Nat)
  /-- Shares land, each participant's lnM rises and BUSY clears (R271). -/
  | sbalComplete (p : Nat) (t : Nat)
  /-- An in stream's read data arrive and fill a port entry (R261). -/
  | portEntryArrival (c : Nat) (j : Nat)
  /-- An out or drain stream's element writes are performed (R276). -/
  | streamWritePerformed (c : Nat) (j : Nat)
  /-- A fill stream commits a packed ring slot (R268). -/
  | ringSlotCommit (c : Nat) (j : Nat)
  /-- A drain stream frees a ring slot once its writes are performed (R268). -/
  | ringSlotFree (c : Nat) (j : Nat)
  /-- Starts a copy between two tensor views (R321). -/
  | cpy (h : Hdr) (f : F3)
  /-- Stalls until a copy tag, or every tag, is free (R324). -/
  | cpyw (h : Hdr) (f : F3)
  /-- Reads a copy tag's state into a scalar (R325). -/
  | cpyq (h : Hdr) (f : F3)
  /-- A copy engine finishes a burst (R318). -/
  | copyBurstDone (k : Nat)
  /-- A refused remote-count increment of a copy is retried (R323). -/
  | copyRtIncrementRetry (k : Nat)
  /-- A stack's gather engine reads the listed elements and returns them packed (R364). -/
  | gatherPacket (k : Nat) (s : Nat)
  /-- Sends bytes to another core's scratchpad and increments its landing count (R342). -/
  | lput (h : Hdr) (f : F3)
  /-- Puts bytes, then writes a flag after the target's increment (R343). -/
  | lputf (h : Hdr) (f : F3)
  /-- Stalls until a landing count reaches an immediate threshold (R335). -/
  | lwait (h : Hdr) (f : F3)
  /-- Stalls until a landing count reaches a threshold held in a scalar (R335). -/
  | lwaitScalar (h : Hdr) (f : F3)
  /-- Sets a landing count (R335). -/
  | lset (h : Hdr) (f : F3)
  /-- Subtracts from a landing count (R335). -/
  | lsetSub (h : Hdr) (f : F3)
  /-- Increments a remote landing count with no data (R344). -/
  | lsig (h : Hdr) (f : F3)
  /-- Atomic read-modify-write at the home that returns the old value (R348). -/
  | aop (h : Hdr) (f : F3)
  /-- Atomic read-modify-write with no return (R348). -/
  | aopn (h : Hdr) (f : F3)
  /-- Atomic compare-and-swap of one word (R350). -/
  | acas (h : Hdr) (f : F3)
  /-- Atomic compare-and-swap over one to four words in one line (R350). -/
  | acasw (h : Hdr) (f : F3)
  /-- Appends a value to a list block atomically (R351). -/
  | aenq (h : Hdr) (f : F3)
  /-- Follows a chain of pointers at the homes (R352). -/
  | achase (h : Hdr) (f : F3)
  /-- Adds a value exactly into a crucible cell (R353). -/
  | ared (h : Hdr) (f : F3)
  /-- Rounds a crucible cell into a word and zeroes the cell (R353). -/
  | aredFin (h : Hdr) (f : F3)
  /-- Releases the core's earlier global writes at a scope (R89). -/
  | crossRel (h : Hdr) (f : F3)
  /-- Acquires at a scope and drops the snapshot window (R89). -/
  | crossAcq (h : Hdr) (f : F3)
  /-- A release followed by an acquire, as one command (R89). -/
  | crossAr (h : Hdr) (f : F3)
  /-- Orders writes and drops window lines for an alias group, or all groups (R357). -/
  | aliasf (h : Hdr) (f : F3)
  /-- Stalls until earlier crossings and landing commands complete, optionally writing a status record (R358). -/
  | fence (h : Hdr) (f : F3)
  /-- Enqueues a nest record from the scratchpad into a task queue (R130). -/
  | nlaunch (h : Hdr) (f : F3)
  /-- The append is attempted, RSLT is written and ln is incremented (R130). -/
  | nlaunchAppend (k : Nat)
  /-- Raises a JCB's expected total (R129). -/
  | jraise (h : Hdr) (f : F3)
  /-- Posts completions to a JCB (R129). -/
  | jpost (h : Hdr) (f : F3)
  /-- Requests a seal of the partition's group (R441). -/
  | sealreq (h : Hdr) (f : F3)
  /-- Invalidates the partition's translations over a range (R392). -/
  | vainv (h : Hdr) (f : F3)
  /-- Invalidates all of the partition's translations (R392). -/
  | vainvAll (h : Hdr) (f : F3)
  /-- Reads max(module time, TFLOOR) (R458). -/
  | tsr (h : Hdr) (f : F3)
  /-- Writes a trace record and can fire the trace trigger (R459). -/
  | trig (h : Hdr) (f : F3)
  /-- The issue of the bundle at TPC fires an armed trigger (R462). -/
  | tracePcMatch (c : Nat)
  /-- After POST further records the trace buffer freezes (R462). -/
  | traceFreeze (c : Nat)
  /-- A put's data packet reaches the target scratchpad; after the last byte the target count increments (R342). -/
  | putPacketArrival (k : Nat)
  /-- A signal increments the target's landing count (R344). -/
  | lsigArrival (k : Nat)
  /-- The target's acknowledgement increments the sender's lnA (R342). -/
  | putAck (k : Nat)
  /-- A home agent performs an atomic as one step of the location's order and replies (R96). -/
  | atomicApply (k : Nat)
  /-- An atomic's return lands in the issuer's scratchpad and ln is incremented (R347). -/
  | atomicReply (k : Nat)
  /-- The operation-packet engine performs an ACASW or AENQ as one step (R370). -/
  | operationPacket (k : Nat)
  /-- A home reads a chain pointer and ends the walk or forwards its state (R371). -/
  | achaseHop (k : Nat)
  /-- The crucible adds a value to a cell (R367). -/
  | crucibleAdd (k : Nat)
  /-- The crucible rounds a cell into a word and zeroes the cell (R367). -/
  | crucibleFinalise (k : Nat)
  /-- The JCB's home applies a raise (R128). -/
  | jcbRaiseApply (k : Nat)
  /-- The JCB's home applies a post, and sets COMPLETE when DONE reaches TOTAL (R128). -/
  | jcbPostApply (k : Nat)
  /-- A request with no reply after 2^16 cycles is sent again under its number (R354). -/
  | endToEndRetry (k : Nat)
  /-- A refused request is sent again after 256 cycles (R376). -/
  | refusalRetry (k : Nat)
  /-- A request still unanswered at the fabric timeout declares its module lost (R359). -/
  | fabricTimeout (k : Nat)
  /-- A source's release frees its entry in a home's source table (R377). -/
  | sourceRelease (k : Nat)
  /-- A page-table walk finishes and delivers its translation to the joined requests (R386). -/
  | translationWalkComplete (k : Nat)
  /-- A die receives an invalidation, removes translations, reloads its range copy and drops window lines (R393). -/
  | dieInvalidate (k : Nat) (d : Nat)
  /-- A die acknowledges once earlier walks have finished (R393). -/
  | invalidateAck (k : Nat) (d : Nat)
  /-- When every die has acknowledged, the status word is written and lnN increments (R393). -/
  | vainvComplete (k : Nat)
  /-- A host write starts a partition-wide invalidation (R393). -/
  | tinvGo (p : Nat)
  /-- The doorbell: a tail write is checked and makes records valid (R102). -/
  | qtailWrite (p : Nat) (q : Nat) (v : BitVec 64)
  /-- Configures a queue; enabling with a bad LOG2N sets QERR = 3 (R101). -/
  | qcfgWrite (p : Nat) (q : Nat) (v : BitVec 64)
  /-- A write of PCFG.EN = 1 checks the configuration and enables the partition (R99). -/
  | partitionEnable (p : Nat) (v : BitVec 64)
  /-- A write of PCFG.EN = 0 ends started work and leaves unstarted records queued (R410). -/
  | partitionDisable (p : Nat) (v : BitVec 64)
  /-- A waiting head gains one priority level per 2^20 cycles (R104). -/
  | queuePriorityAging (p : Nat) (q : Nat)
  /-- A nest record at a head starts when fewer than 8 nests are active (R105). -/
  | nestRecordStart (p : Nat) (q : Nat)
  /-- A graph-launch record starts and fires the nodes with NPRED = 0 (R120). -/
  | graphLaunch (p : Nat) (q : Nat)
  /-- A copy record starts when fewer than 16 record copies are incomplete (R329). -/
  | copyRecordStart (p : Nat) (q : Nat)
  /-- A queue fence starts when every earlier record has retired (R106). -/
  | queueFence (p : Nat) (q : Nat)
  /-- A level-switch packet stops the queues of the partition and waits for started records to retire (R106). -/
  | levelSwitch (p : Nat) (q : Nat)
  /-- With every record retired, PCFG.LEVEL is set and the queues resume (R106). -/
  | levelSwitchComplete (p : Nat)
  /-- Passes a seal request to the recovery engine (R106). -/
  | sealRequestPacket (p : Nat) (q : Nat)
  /-- A team is placed on a free rectangle, loaded and started on all its cores in one cycle (R115). -/
  | teamLaunch (p : Nat) (n : Nat)
  /-- A team retires when every task has ended and every command has completed (R117). -/
  | teamRetire (p : Nat) (t : Nat)
  /-- Held retirement logs are written in queue order with the next JSEQ (R107). -/
  | retireLogWrite (p : Nat) (q : Nat)
  /-- A SIGNAL node's write is accepted and the node finishes (R122). -/
  | signalWriteAccepted (p : Nat) (g : Nat) (n : Nat)
  /-- A waiting iteration gains one priority level per 2^20 cycles (R119). -/
  | iterationPriorityAging (p : Nat) (n : Nat)
  /-- A team that has used SLICE cycles becomes subject to pre-emption (R119). -/
  | sliceExpiry (p : Nat) (t : Nat)
  /-- A quiesce marker returns once the commands ahead of it have completed or stopped (R412). -/
  | quiesceMarkerReturn (c : Nat)
  /-- With every context stopped, the save engine releases and writes the images (R413). -/
  | preemptSave (p : Nat) (t : Nat)
  /-- The images are performed; the cores free and the team is recorded as pre-empted (R413). -/
  | preemptSaveComplete (p : Nat) (t : Nat)
  /-- A pre-empted team is restored and resumes in one cycle (R414). -/
  | preemptRestore (p : Nat) (t : Nat)
  /-- A team not wholly stopped PWAIT cycles after a member stopped abandons the pre-emption (R416). -/
  | pwaitExpiry (p : Nat) (t : Nat)
  /-- An uncorrectable memory error is reported and goes to recovery (R404). -/
  | uncorrectable (e : ErrorSite)
  /-- An engine serving a halting partition stops within its skid bound and writes its stop record (R400). -/
  | engineStop (p : Nat) (k : Nat)
  /-- When every stop record is written, the area header is written and HALTED is set (R401). -/
  | haltComplete (p : Nat)
  /-- HCTL.RESUME restarts stopped commands and lets every core issue from its resume address (R409). -/
  | haltResume (p : Nat)
  /-- HCTL.DUMP writes an image of every halted context (R422). -/
  | haltDump (p : Nat)
  /-- The last dump image is performed and DUMPING clears (R422). -/
  | haltDumpComplete (p : Nat)
  /-- A home agent performs a plain line read (R362). -/
  | homeLineRead (k : Nat)
  /-- A home performs a write, first logging the line's old bytes to the riser (R427). -/
  | homeLineWrite (w : HomeWrite)
  /-- A write waiting 1 s for riser room halts the group (R437). -/
  | riserWaitExpiry (k : Nat)
  /-- An irrevocable write enters a hold buffer and counts as completed (R429). -/
  | holdBufferEntry (k : Nat)
  /-- A held write waiting 1 s for room halts the group (R431). -/
  | holdWaitExpiry (k : Nat)
  /-- The background sweep resets stale line metadata to 0xFFFF (R427). -/
  | metaSweep (line : Nat)
  /-- SEALPER after the last commit, a seal is requested (R432). -/
  | sealTimerExpiry (p : Nat)
  /-- Every member has drained; the leader sends PREPARE (R434). -/
  | sealDrainComplete (p : Nat)
  /-- A member waits for its pour's writes and records its restart record, then replies (R434). -/
  | prepare (p : Nat)
  /-- The leader receives PREPARED or FAILED; after every PREPARED it sends COMMIT (R434). -/
  | prepareReply (p : Nat) (r : SealReply)
  /-- A member marks the pour committed, advances GPOUR and restarts dispatch (R434). -/
  | commit (p : Nat)
  /-- The leader receives COMMITTED; after every one the seal commits and FREE is sent (R434). -/
  | committed (p : Nat)
  /-- A member frees the pour's riser entries and releases its held writes (R434). -/
  | free (p : Nat)
  /-- A host write of RCTL.ROLLBACK rolls a group back (R438). -/
  | rctlRollback (v : BitVec 64)
  /-- A write of PERS starts a berth switch: the berth stops and drains (R449). -/
  | persWrite (b : Nat) (v : BitVec 64)
  /-- The drain ends and the lanes retrain (R449). -/
  | berthDrainComplete (b : Nat)
  /-- DRAINTO expires; outstanding requests fault with BERTH_GONE (R449). -/
  | drainTimeout (b : Nat)
  /-- Training ends; windows are rechecked and the berth resumes or fails (R449). -/
  | berthTrainingComplete (b : Nat) (lanes : Nat) (klimit : BitVec 64)
  /-- Installs a pending key at the next flit boundary (R452). -/
  | kgo (b : Nat)
  /-- The key counter reaches KLIMIT - 2^20, setting KLOW (R451). -/
  | keyLow (b : Nat)
  /-- The key counter reaches KLIMIT; outbound flits are held (R451). -/
  | keyExhausted (b : Nat)
  /-- A request arriving through a berth is admitted or refused by job key (R445). -/
  | remoteRequestAdmission (r : RemoteRequest)
  /-- Loss of the host link stops the release of host writes (R456). -/
  | hostLinkLoss
  /-- On the link's return, held writes of committed pours are released (R456). -/
  | hostLinkReturn
  /-- Starts an in-place format conversion after checks (R372). -/
  | cvctlGo (s : Nat) (v : BitVec 64)
  /-- The converter finishes and sets STATE = 2 (R373). -/
  | conversionComplete (s : Nat)
  /-- Writing a crucible allocation zeroes its cells (R366). -/
  | crallocWrite (s : Nat) (n : Nat) (v : BitVec 64)
  /-- TCMD.ARM arms the trace trigger (R462). -/
  | traceArm (c : Nat)
  /-- TCMD.CLR resets WIDX, WRAP and LOST (R463). -/
  | traceClr (c : Nat)
  /-- TCMD.DUMP copies the trace buffer to TDST (R463). -/
  | traceDump (c : Nat)
  /-- Every dump byte is performed and DUMPING clears (R463). -/
  | traceDumpComplete (c : Nat)
  /-- Raises module time to at least the written value (R457). -/
  | mtset (v : BitVec 64)
  /-- Empties black boxes of disabled partitions (R464). -/
  | bbclr (v : BitVec 64)
  /-- Restarts the module at boot phase 0 (R465). -/
  | moduleReset
  /-- A boot phase's work completes and the next phase begins, or the boot stops with ERR (R465). -/
  | bootPhaseComplete (err : Nat)
  /-- MBCMD CMD 1 signs a report of the nonce and measurements (R467). -/
  | attest
  /-- MBCMD CMD 2 moves the module from reduced to full service (R468). -/
  | enterFullService
  /-- MBCMD CMD 3 writes a route entry (R472). -/
  | writeRoute
  /-- MBCMD CMD 4 writes a partition's join key (R472). -/
  | writeJoinKey
  /-- A PRST bit resets a partition (R469). -/
  | partitionReset (p : Nat)
  /-- A fatal die error resets the die and its partitions (R469). -/
  | dieReset (d : Nat)
  /-- A write to a control register with no behaviour of its own sets its fields (R8). -/
  | registerWrite (a : Nat) (v : BitVec 64)
  /-- A crossing's release or acquire is performed, raising TFLOOR and releasing FENCE waits (R358). -/
  | crossPerformed (c : Nat)
  /-- A berth's link or its CXL device stops responding, and every access waiting on it faults with BERTH_GONE (R443). -/
  | berthLoss (b : Nat)
  /-- The management engine compares the measured draw with PCAP and changes a partition's gate value g, setting CAPMISS when gating cannot meet the cap (R470). -/
  | pgateUpdate (draw : Nat)
  /-- A released held write leaves its hold buffer and is performed at its target, freeing room for a stalled writer (R430). -/
  | heldWritePerformed (k : Nat)
  /-- Riser replay ends; CUR is set, HALTED clears, PSTAT.STATE becomes 1 and dispatch restarts from the restart record (R438). -/
  | rollbackComplete (p : Nat)
  deriving DecidableEq, Repr

end Sys2Proof
end

