-- ==== Sys2Proof/Machine/Legality.lean ====
section
/-!
DEFINITION. The encoding checks of R24: for every opcode and its fields, the cause codes of Table 1.7 that the syllable meets.
The checks follow the encoding tables of the chapters: 4.9, 5.1, 5.4, 5.5, 6.2, 7.2, 7.4, 7.5, 8.3, 8.5, 9.2, 9.5, 10.5, 11.4, 12.1, 13.1, 15.4, 17.5 and 19.1.
-/

namespace Sys2Proof.Legal

/-- The cause codes met by a syllable, in no order. -/
abbrev Causes := List Nat

/-- No cause where the check holds, else cause `c`. -/
def need (ok : Bool) (c : Nat) : Causes := if ok then [] else [c]

/-- A field the instruction does not use is zero (cause 0x05). -/
def zero {n : Nat} (x : BitVec n) : Causes := need (x == 0) 5

/-- A modifier bit the instruction does not use is zero (cause 0x05). -/
def off (x : Bool) : Causes := need (!x) 5

/-- A number below the size of its class (cause 0x08). -/
def below (x : BitVec 7) (n : Nat) : Causes := need (decide (x.toNat < n)) 8

/-- True where the slot is of cluster 0. -/
def cluster0 (h : Hdr) : Bool := h.slot == .s0 || h.slot == .v0

/-- A register of the slot's own cluster (cause 0x09, R165, R185). -/
def own (h : Hdr) (x : BitVec 7) : Causes := need (cluster0 h == decide (x.toNat < 64)) 9

/-- A register of the other cluster (cause 0x09, R174, R215). -/
def other (h : Hdr) (x : BitVec 7) : Causes := need (cluster0 h != decide (x.toNat < 64)) 9

/-- The format sets of R187, R221 and R41 as lists of codes. -/
def fInt : List Nat := [6, 7, 8, 9, 10, 11]
def fSigned : List Nat := [6, 7, 8]
def fIeee : List Nat := [0, 1, 2, 3, 4]
def fWide : List Nat := [0, 1, 2]
def fTaper : List Nat := [16, 17, 18, 19, 20, 21, 22, 23, 24, 25, 26, 27]
def fAny : List Nat := [0, 1, 2, 3, 4, 6, 7, 8, 9, 10, 11, 12, 13] ++ fTaper
def fRout : List Nat := [0, 1, 2, 3, 4, 6, 7, 8, 9, 10, 11, 13] ++ fTaper

/-- A format code in the instruction's set (cause 0x06). -/
def fmtIn (c : BitVec 5) (l : List Nat) : Causes := need (l.contains c.toNat) 6

/-- A rounding code 000 to 101 (cause 0x07, Table 1.5). -/
def rnd (r : BitVec 3) : Causes := need (decide (r.toNat ≤ 5)) 7

/-- A scope code 000 to 100 (cause 0x07, Table 1.5). -/
def scope (r : BitVec 3) : Causes := need (decide (r.toNat ≤ 4)) 7

/-- SUB holds no bit outside `m` (cause 0x05). -/
def sub (f : F3) (m : BitVec 6) : Causes := need (f.sub &&& ~~~m == 0) 5

/-- Every modifier but SUB is zero. -/
def noMods (f : F3) : Causes :=
  zero f.fmt ++ zero f.rnd ++ off f.s ++ off f.fi ++ off f.fo ++ off f.w ++ zero f.ord

/-- The whole of E is zero. -/
def noE (f : F3) : Causes := noMods f ++ zero f.sub

/-- W and ORD are zero. -/
def noWOrd (f : F3) : Causes := off f.w ++ zero f.ord

/-- FMT from a set, RND, S, FI and FO used; W and ORD zero. -/
def arith (f : F3) (l : List Nat) : Causes := fmtIn f.fmt l ++ rnd f.rnd ++ noWOrd f

/-- FMT from a set and FI used; RND, S, FO, W and ORD zero. -/
def fmtFi (f : F3) (l : List Nat) : Causes :=
  fmtIn f.fmt l ++ zero f.rnd ++ off f.s ++ off f.fo ++ noWOrd f

/-- FMT from a set alone. -/
def fmtOnly (f : F3) (l : List Nat) : Causes := fmtFi f l ++ off f.fi

/-- T = 1 is illegal on a syllable that writes no register (cause 0x0A). -/
def noT (h : Hdr) : Causes := need (!h.t) 10

/-- S-slot F3 syllables (Table 6.2). -/
def sF3 (o : Nat) (h : Hdr) (f : F3) : Causes :=
  let s3 := own h f.a ++ own h f.b ++ own h f.c ++ zero f.d
  let fp := fmtIn f.fmt [0] ++ rnd f.rnd ++ noWOrd f ++ zero f.sub
  match o with
  | 0x15 => s3 ++ noMods f ++ sub f 1
  | 0x1A | 0x1B => own h f.a ++ own h f.b ++ zero f.c ++ zero f.d ++ noE f
  | 0x1E => s3 ++ noMods f ++ need (decide (f.sub.toNat ≤ 12)) 7
  | 0x1F => below f.a 96 ++ own h f.b ++ own h f.c ++ zero f.d ++ noMods f ++ need (decide (f.sub.toNat ≤ 9)) 7
  | 0x21 => own h f.a ++ own h f.b ++ own h f.c ++ below f.d 96 ++ noMods f ++ sub f 1
  | 0x22 => other h f.a ++ own h f.b ++ zero f.c ++ zero f.d ++ noE f
  | 0x25 | 0x26 | 0x27 | 0x29 => s3 ++ fp
  | 0x28 => own h f.a ++ own h f.b ++ own h f.c ++ own h f.d ++ fp
  | 0x2A => own h f.a ++ own h f.b ++ zero f.c ++ zero f.d ++ fp
  | 0x2B | 0x2C => s3 ++ fmtFi f [0] ++ zero f.sub
  | 0x2D => below f.a 96 ++ own h f.b ++ own h f.c ++ zero f.d ++ fmtFi f [0] ++ need (decide (f.sub.toNat ≤ 7)) 7
  | 0x2E => own h f.a ++ own h f.b ++ zero f.c ++ need (decide (f.d.toNat < 32)) 5 ++ fmtIn (f.d.setWidth 5) fAny ++
      fmtIn f.fmt fRout ++ rnd f.rnd ++ noWOrd f ++ zero f.sub
  | 0x2F => below f.a 20 ++ own h f.b ++ zero f.c ++ zero f.d ++ noMods f ++ sub f 15 ++ noT h
  | 0x30 => own h f.a ++ zero f.b ++ below f.c 20 ++ zero f.d ++ noMods f ++ sub f 0x2F
  | _ => s3 ++ noE f

/-- S-slot FI syllables (R168 to R172). -/
def sFI (o : Nat) (h : Hdr) (f : FI) : Causes :=
  match o with
  | 0x0D | 0x0E | 0x0F => own h f.a ++ own h f.b ++ need (decide (f.imm.toNat < 64)) 7
  | 0x1C => own h f.a ++ zero f.b
  | 0x1D => own h f.a ++ own h f.b ++ need (decide (f.imm.toNat < 2 ^ 30)) 7
  | 0x20 => below f.a 96 ++ own h f.b ++ need (decide (f.imm.toNat >>> 30 ≤ 9)) 7
  | _ => own h f.a ++ own h f.b

/-- S-slot FM syllables (Table 6.4). -/
def sFM (o : Nat) (h : Hdr) (f : FM) : Causes :=
  own h f.a ++ own h f.b ++
    (if o = 0x23 then need (decide (f.sz.toNat ≤ 6)) 7 else need ([0, 2, 4, 6].contains f.sz.toNat) 7 ++ noT h)

/-- V-slot F3 and FX syllables (Tables 7.2 and 7.5). DESIGN CHOICE: log entry 124. -/
def vF3 (o : Nat) (h : Hdr) (f : F3) : Causes :=
  let ab := own h f.a ++ own h f.b
  let abc := ab ++ own h f.c
  let km := sub f 0x1F
  match o with
  | 0x0D => ab ++ zero f.c ++ zero f.d ++ fmtOnly f fSigned ++ km
  | 0x10 => below f.a 16 ++ own h f.b ++ own h f.c ++ need (decide (f.d.toNat < 32)) 5 ++
      need (decide (f.d.toNat % 16 ≤ 9)) 7 ++ fmtOnly f fInt ++ km
  | 0x11 | 0x12 | 0x13 => abc ++ zero f.d ++ arith f fIeee ++ km
  | 0x14 => abc ++ own h f.d ++ arith f fIeee ++ km
  | 0x15 => abc ++ zero f.d ++ arith f fWide ++ km
  | 0x16 => ab ++ zero f.c ++ zero f.d ++ arith f fWide ++ km
  | 0x17 | 0x18 => abc ++ zero f.d ++ fmtFi f fIeee ++ km
  | 0x19 | 0x1A => ab ++ zero f.c ++ zero f.d ++ fmtFi f fIeee ++ km
  | 0x1B => below f.a 16 ++ own h f.b ++ own h f.c ++ need (f.d &&& 0x68 == 0) 5 ++ fmtFi f fIeee ++ km
  | 0x1C | 0x1D | 0x1E => abc ++ zero f.d ++ arith f fTaper ++ km
  | 0x1F => abc ++ own h f.d ++ arith f fTaper ++ km
  | 0x20 =>
    let op := f.d.toNat % 8
    let i := fInt.contains f.fmt.toNat
    let e := fIeee.contains f.fmt.toNat
    let t := fTaper.contains f.fmt.toNat
    ab ++ zero f.c ++ need (decide (f.d.toNat < 8)) 5 ++ fmtIn f.fmt (fInt ++ fIeee ++ fTaper) ++
      need (op == 0 || (decide (op ≤ 2) && !t) || (decide (op ≤ 5) && i)) 7 ++
      (if op == 0 && (e || t) then rnd f.rnd else zero f.rnd ++ off f.s ++ off f.fo) ++
      (if e || t then [] else off f.fi) ++ noWOrd f ++ sub f 0x0F
  | 0x21 => abc ++ zero f.d ++ noMods f ++ sub f 0x0F
  | 0x22 | 0x23 | 0x24 => below f.a 16 ++ below f.b 16 ++ below f.c 16 ++ zero f.d ++ noE f
  | 0x25 => below f.a 16 ++ below f.b 16 ++ zero f.c ++ zero f.d ++ noE f
  | 0x26 => own h f.a ++ below f.b 16 ++ zero f.c ++ zero f.d ++ noE f
  | 0x27 => ab ++ zero f.c ++ zero f.d ++ fmtOnly f fAny ++ km
  | 0x28 => ab ++ zero f.c ++ zero f.d ++ noMods f ++ km
  | 0x29 | 0x2A => abc ++ zero f.d ++ fmtOnly f fAny ++ zero f.sub
  | 0x2B => ab ++ zero f.c ++ zero f.d ++ fmtOnly f fInt ++ km
  | 0x2E | 0x30 => below f.a 4 ++ own h f.b ++ own h f.c ++ zero f.d ++ zero f.fmt ++ zero f.rnd ++ off f.s ++
      off f.fi ++ off f.fo ++ zero f.ord ++ km
  | 0x2F | 0x31 => below f.a 4 ++ own h f.b ++ own h f.c ++ zero f.d ++ zero f.fmt ++ zero f.rnd ++ off f.s ++
      off f.fi ++ off f.fo ++ zero f.ord ++ sub f 0x0F ++ noT h
  | 0x32 => abc ++ need (decide (f.d.toNat < 8)) 5 ++ arith f (fIeee ++ fTaper) ++ km
  | 0x33 => ab ++ zero f.c ++ need (decide (f.d.toNat < 4)) 5 ++ fmtFi f (fIeee ++ fTaper) ++ km
  | 0x34 => ab ++ zero f.c ++ need (decide (f.d.toNat < 4)) 5 ++ arith f (fIeee ++ fTaper) ++ km
  | 0x35 => below f.a 4 ++ (if f.sub.getLsbD 5 then zero f.b ++ need (decide (f.sub.toNat % 8 ≤ 5)) 7
      else own h f.b ++ need (f.sub.toNat % 8 == 0) 5) ++ sub f 0x27 ++ zero f.c ++ zero f.d ++ noMods f ++ noT h
  | 0x36 => other h f.a ++ own h f.b ++ zero f.c ++ zero f.d ++ noE f
  | _ => abc ++ zero f.d ++ fmtOnly f fInt ++ km

/-- V-slot FM syllables (Table 7.4); SZ carries the mask. -/
def vFM (o : Nat) (h : Hdr) (f : FM) : Causes :=
  own h f.a ++ own h f.b ++ (if o = 0x2D then noT h else [])

/-- The number of elements of a format in one register (R186); 0 where the format has no whole width. -/
def elems (c : BitVec 5) : Nat :=
  if [3, 4, 6, 9, 12, 13, 16, 17, 18, 19].contains c.toNat then 512
  else if [1, 2, 7, 10, 20, 21, 22, 23].contains c.toNat then 256
  else if [0, 8, 11, 24, 25, 26, 27].contains c.toNat then 128
  else if c.toNat = 5 then 1024 else 0

/-- Q-slot F3 syllables (Table 8.3). -/
def qF3 (o : Nat) (h : Hdr) (f : F3) : Causes :=
  let rsf := zero f.fmt ++ rnd f.rnd ++ off f.fi ++ noWOrd f
  match o with
  | 0x01 => below f.a 32 ++ zero f.b ++ zero f.c ++ zero f.d ++ noMods f ++ sub f 0x0F ++ noT h
  | 0x02 | 0x03 => below f.a 32 ++ zero f.d ++ arith f (fIeee ++ fTaper ++ fInt) ++ sub f 0x0F ++ noT h
  | 0x04 | 0x05 => below f.a 32 ++ below f.b 32 ++ below f.c 32 ++ zero f.d ++ rsf ++ sub f 0x0F ++ noT h
  | 0x06 => below f.a 32 ++ below f.b 32 ++ zero f.c ++ zero f.d ++ rsf ++ sub f 0x0F ++ noT h
  | 0x07 => below f.a 32 ++ below f.b 32 ++ zero f.d ++ rsf ++ sub f 0x0F ++ noT h
  | 0x08 => below f.b 32 ++ zero f.c ++ need (decide (f.d.toNat < 4)) 5 ++
      need (decide (f.d.toNat % 4 < elems f.fmt / 128 || elems f.fmt = 0)) 7 ++
      fmtIn f.fmt fRout ++ rnd f.rnd ++ off f.fi ++ noWOrd f ++ sub f 0x1F
  | 0x09 => below f.b 32 ++ fmtIn f.fmt fRout ++ rnd f.rnd ++ off f.fi ++ noWOrd f ++ zero f.sub
  | 0x0C => below f.a 32 ++ below f.b 32 ++ zero f.c ++ zero f.d ++ noMods f ++ sub f 0x0F ++ noT h
  | 0x0D => below f.a 16 ++ below f.b 32 ++ zero f.c ++ need (decide (f.d.toNat < 8)) 5 ++
      need (decide (f.d.toNat % 8 ≤ 4)) 7 ++ noMods f ++ sub f 0x1F
  | _ => below f.a 32 ++ zero f.b ++ zero f.c ++ zero f.d ++ rsf ++ noT h

/-- Q-slot FM syllables (Table 8.5). -/
def qFM (h : Hdr) (f : FM) : Causes := below f.a 32 ++ need (decide (f.sz.toNat ≤ 1)) 7 ++ noT h

/-- log2 of a format's element count. -/
def logElems (c : BitVec 5) : Nat := Nat.log2 (elems c)

/-- K of Table 9.2. -/
def kField (f : F3) : Nat := (f.sub.toNat / 16) * 128 + f.d.toNat

/-- X-slot F3 syllables (Table 9.2). -/
def xF3 (o : Nat) (h : Hdr) (f : F3) : Causes :=
  let n := elems f.fmt
  let s5 := fIeee ++ fTaper ++ fSigned
  match o with
  | 0x01 =>
    let ns := elems (f.d.setWidth 5)
    let r := if ns ≤ n then n / ns else ns / n
    zero f.c ++ need (decide (f.d.toNat < 32)) 5 ++ fmtIn (f.d.setWidth 5) fAny ++ arith f fRout ++
      need (decide (f.sub.toNat / 16 < r || ns = 0 || n = 0)) 7
  | 0x02 => zero f.c ++ fmtIn f.fmt fWide ++ need (f.rnd == 0) 7 ++ off f.s ++ off f.fo ++ noWOrd f ++
      need (decide (f.sub.toNat % 8 ≤ 4)) 7 ++ need (decide (f.sub.toNat / 8 < 1024 / n || n = 0)) 7 ++
      need (f.a != f.d) 7
  | 0x03 => zero f.d ++ fmtIn f.fmt (fIeee ++ fTaper) ++ rnd f.rnd ++ off f.fi ++ noWOrd f ++ sub f 7 ++
      need (decide (f.sub.toNat % 8 < 1024 / n || n = 0)) 7
  | 0x04 => need (decide (f.d.toNat < 32)) 5 ++ fmtIn (f.d.setWidth 5) [12, 13] ++ arith f (fIeee ++ fTaper) ++ sub f 0x1F
  | 0x05 => need (f.d &&& 0x78 == 0) 5 ++
      (if f.d.getLsbD 2 then zero f.c else need (f.d.toNat % 4 == 0) 5) ++ fmtOnly f fAny ++
      sub f 0x10
  | 0x06 => zero f.c ++ zero f.d ++ fmtOnly f fAny ++ sub f 0x0F ++
      need (decide (1 ≤ f.sub.toNat % 16 ∧ f.sub.toNat % 16 ≤ logElems f.fmt) || n == 0) 7
  | 0x07 => zero f.c ++ fmtOnly f fAny ++ sub f 0x30 ++ need (decide (kField f < n) || n == 0) 7
  | 0x08 | 0x09 => zero f.d ++ fmtOnly f fAny ++ sub f 0x1F ++
      need (decide (f.sub.toNat % 16 + 1 ≤ logElems f.fmt) || n == 0) 7
  | 0x0A => zero f.c ++ fmtOnly f fAny ++
      need (decide (f.sub.toNat % 16 ≤ logElems f.fmt ∧ (kField f + 1) * 2 ^ (f.sub.toNat % 16) ≤ n) || n == 0) 7
  | 0x0B | 0x0C => zero f.c ++ zero f.d ++ fmtOnly f fAny ++ sub f 0x0F
  | 0x0D => need (decide (f.d.toNat < 4)) 5 ++ fmtOnly f s5 ++ zero f.sub
  | 0x0E => fmtOnly f fAny ++ sub f 0x30 ++ need (decide (kField f < n) || n == 0) 7
  | 0x0F => zero f.c ++ fmtOnly f s5 ++ sub f 0x10 ++ need (f.a != f.d) 7
  | _ => zero f.a ++ zero f.b ++ zero f.c ++ zero f.d ++ noMods f ++ sub f 0x1F ++ noT h

/-- T-slot syllables (Table 9.5). -/
def tF3 (o : Nat) (h : Hdr) (f : F3) : Causes :=
  let e := zero f.c ++ zero f.fmt ++ zero f.rnd ++ off f.s ++ off f.fi ++ off f.fo ++ zero f.ord
  match o with
  | 0x01 => below f.a 8 ++ zero f.b ++ (if f.a.toNat < 4 then need (decide (f.d.toNat < 2)) 5 else zero f.d) ++
      e ++ zero f.sub ++ noT h
  | 0x02 => below f.a 2 ++ need (decide (f.d.toNat < 32)) 5 ++ e ++ off f.w ++ sub f 0x0F ++ noT h
  | 0x03 => below f.a 2 ++ need (decide (f.d.toNat < 32)) 5 ++ e ++ off f.w ++ zero f.sub
  | 0x04 => below f.a 2 ++ zero f.b ++ zero f.d ++ e ++ off f.w ++ zero f.sub ++ noT h
  | _ => below f.a 2 ++ zero f.d ++ e ++ off f.w ++ zero f.sub

/-- M-slot syllables (Table 11.4). -/
def mF3 (o : Nat) (h : Hdr) (f : F3) : Causes :=
  noT h ++
  match o with
  | 0x01 => below f.a 8 ++ zero f.b ++ zero f.c ++ zero f.d ++ zero f.fmt ++ zero f.rnd ++ off f.s ++ off f.fo ++ zero f.ord
  | 0x02 =>
    let q := f.sub.getLsbD 5
    let sp := f.sub.getLsbD 3
    below f.a 16 ++ fmtIn f.fmt (if q then fIeee ++ fTaper ++ fInt ++ [5] else fIeee ++ [5]) ++
      need (!(sp && f.fmt == 5)) 7 ++ need (!(sp && f.c == 127)) 8 ++
      (if sp || f.fmt == 5 then [] else zero f.d) ++ zero f.rnd ++ off f.s ++ off f.fo ++ noWOrd f ++ sub f 0x3B
  | 0x03 => below f.a 8 ++ (if f.sub.getLsbD 0 then zero f.a else []) ++ zero f.b ++ zero f.c ++ zero f.d ++ noMods f ++ sub f 1
  | 0x04 => below f.a 8 ++ zero f.c ++ noE f
  | 0x05 => below f.a 8 ++ zero f.b ++ zero f.c ++ zero f.d ++ noE f
  | 0x06 => below f.a 16 ++ zero f.b ++ zero f.c ++ zero f.d ++ noMods f ++ sub f 0x20
  | 0x07 => below f.a 16 ++ zero f.c ++ fmtIn f.fmt fRout ++ rnd f.rnd ++ off f.fi ++ noWOrd f ++ sub f 0x20
  | _ => below f.a 16 ++ zero f.c ++ fmtIn f.fmt fRout ++ rnd f.rnd ++ off f.fi ++ noWOrd f ++ zero f.sub

/-- The 21-bit immediate that bits 40:20 hold (Tables 10.5 and 13.1). -/
def imm21 (f : F3) : Nat := f.b.toNat * 2 ^ 14 + f.c.toNat * 2 ^ 7 + f.d.toNat

/-- Scope, and ORD 00 or 10, of the landing commands (R338). -/
def landOrd (f : F3) : Causes :=
  scope f.rnd ++ need (f.ord == 0 || f.ord == 2) 7 ++ need (!(f.ord == 0 && f.rnd != 0)) 7

/-- S, FI, FO and W are zero. -/
def noSFW (f : F3) : Causes := off f.s ++ off f.fi ++ off f.fo ++ off f.w

/-- D-slot syllables (Tables 4.9, 10.5, 12.1, 13.1, 15.4, 17.5 and 19.1). -/
def dF3 (o : Nat) (h : Hdr) (f : F3) : Causes :=
  (if [0x09, 0x0B, 0x0F, 0x24].contains o then [] else noT h) ++
  match o with
  | 0x01 =>
    let cond := f.sub.getLsbD 2
    (if cond then zero f.a ++ zero f.c else below f.a 4) ++ below f.b 8 ++ zero f.d ++ zero f.fmt ++ scope f.rnd ++
      off f.s ++ off f.fi ++ off f.fo ++ need (!(cond && f.sub.toNat % 4 != 0)) 7 ++ sub f 7
  | 0x02 => zero f.a ++ below f.b 8 ++ zero f.c ++ zero f.d ++ noE f
  | 0x03 => zero f.a ++ (if f.sub.getLsbD 0 then zero f.b else below f.b 8) ++ zero f.c ++ zero f.d ++ zero f.fmt ++
      scope f.rnd ++ noSFW f ++ need (f.ord == 0 || f.ord == 2) 7 ++ sub f 1
  | 0x04 => below f.a 32 ++ zero f.d ++ noE f
  | 0x05 | 0x06 | 0x07 | 0x08 => below f.a 32 ++
      (if f.sub.getLsbD 0 then need (decide (imm21 f ≤ 65536)) 7 else zero f.c ++ zero f.d) ++ noMods f ++ sub f 1
  | 0x09 => below f.a 32 ++ zero f.c ++ zero f.d ++ noMods f ++ sub f 1
  | 0x0A => below f.a 32 ++ zero f.c ++ zero f.d ++ noMods f ++ sub f 0x0F
  | 0x0B => below f.a 32 ++ below f.c 8 ++ zero f.d ++ noE f
  | 0x0C => below f.a 32 ++ zero f.b ++ zero f.c ++ below f.d 64 ++ noE f
  | 0x0D =>
    let l := f.d.getLsbD 6
    below f.a 16 ++ need (!f.d.getLsbD 4) 5 ++ need (!(f.d.getLsbD 5 && !l)) 7 ++ zero f.fmt ++ scope f.rnd ++
      need (!(f.ord == 0 && f.rnd != 0)) 7 ++ off f.s ++ off f.fi ++ off f.fo ++ (if l then [] else zero f.sub)
  | 0x0E => below f.a 16 ++ (if f.sub.getLsbD 0 then zero f.a else []) ++ zero f.b ++ zero f.c ++ zero f.d ++ noMods f ++ sub f 1
  | 0x0F => below f.a 16 ++ zero f.c ++ zero f.d ++ noE f
  | 0x10 => below f.a 64 ++ (if f.d.getLsbD 6 then [] else zero f.d) ++ zero f.fmt ++ landOrd f ++ noSFW f ++ zero f.sub
  | 0x11 => below f.a 64 ++ zero f.fmt ++ landOrd f ++ noSFW f ++ zero f.sub
  | 0x12 => below f.a 64 ++ (if f.sub.getLsbD 0 then [] else zero f.c ++ zero f.d) ++ noMods f ++ sub f 1
  | 0x13 => below f.a 64 ++ (if f.sub.getLsbD 0 then [] else zero f.c ++ zero f.d) ++ noMods f ++ sub f 3
  | 0x14 => below f.a 64 ++ zero f.c ++ zero f.d ++ zero f.fmt ++ landOrd f ++ noSFW f ++ zero f.sub
  | 0x15 | 0x16 => below f.a 64 ++ (if o = 0x16 then zero f.d else []) ++ zero f.fmt ++ landOrd f ++ noSFW f ++
      need (decide (f.sub.toNat % 16 ≤ 13)) 7 ++ need (!(f.sub.getLsbD 4 && decide (11 ≤ f.sub.toNat % 16))) 7 ++ sub f 0x1F
  | 0x17 => below f.a 64 ++ zero f.d ++ zero f.fmt ++ landOrd f ++ noSFW f ++ sub f 0x10
  | 0x18 => below f.a 64 ++ zero f.d ++ zero f.fmt ++ landOrd f ++ noSFW f ++ sub f 3
  | 0x19 | 0x1A => below f.a 64 ++ zero f.fmt ++ landOrd f ++ noSFW f ++ zero f.sub
  | 0x1B =>
    let fin := f.sub.getLsbD 5
    below f.a 64 ++ (if fin then zero f.c else []) ++ fmtIn f.fmt (if fin then fRout else fIeee ++ fTaper ++ fInt) ++
      landOrd f ++ noSFW f ++ (if fin then need (decide (f.sub.toNat % 8 ≤ 5)) 7 ++ sub f 0x27 else zero f.sub)
  | 0x1C => zero f.a ++ zero f.b ++ zero f.c ++ zero f.d ++ zero f.fmt ++ scope f.rnd ++ noSFW f ++
      need (f.ord != 0) 7 ++ zero f.sub
  | 0x1D => zero f.a ++ zero f.b ++ zero f.c ++ zero f.d ++ noMods f ++ sub f 0x1F ++
      need (!(f.sub.getLsbD 4 && f.sub.toNat % 16 != 0)) 7
  | 0x1E => zero f.a ++ (if f.sub.getLsbD 0 then [] else zero f.b) ++ zero f.c ++ zero f.d ++ zero f.fmt ++
      scope f.rnd ++ noSFW f ++ zero f.ord ++ sub f 1
  | 0x1F => below f.a 64 ++ zero f.d ++ noE f
  | 0x20 | 0x21 => below f.a 64 ++ zero f.d ++ zero f.fmt ++ landOrd f ++ noSFW f ++ zero f.sub
  | 0x22 => below f.a 64 ++ zero f.b ++ zero f.c ++ zero f.d ++ noE f
  | 0x23 => below f.a 64 ++ (if f.sub.getLsbD 0 then zero f.b ++ zero f.c else []) ++
      (if f.sub.getLsbD 1 then [] else zero f.d) ++ noMods f ++ sub f 3
  | 0x24 => zero f.b ++ zero f.c ++ zero f.d ++ noE f
  | _ => zero f.a ++ zero f.c ++ noMods f ++ sub f 1

/-- The control-register numbers that exist, and those a CRW may name (Table 5.7). -/
def crrOk (n : Nat) : Bool := decide (n ≤ 0x0D) || decide (0x10 ≤ n ∧ n ≤ 0x1F)
def crwOk (n : Nat) : Bool := decide (n ≤ 0x0B) || decide (0x10 ≤ n ∧ n ≤ 0x1F)

/-- B-slot F3 syllables (Table 5.4, R162). -/
def bF3 (o : Nat) (h : Hdr) (f : F3) : Causes :=
  let p (m : BitVec 6) := below f.a 96 ++ zero f.d ++ noMods f ++ need (f.sub &&& ~~~m == 0) 7
  match o with
  | 0x0A => p 1 ++ zero f.b ++ zero f.c
  | 0x0B | 0x0C | 0x0D => p 3 ++ below f.b 96 ++ below f.c 96
  | 0x0E | 0x0F => p 0 ++ below f.b 96 ++ zero f.c
  | 0x18 => zero f.b ++ zero f.c ++ zero f.d ++ noMods f ++ need (crrOk f.sub.toNat) 7
  | _ => zero f.a ++ zero f.c ++ zero f.d ++ noMods f ++ need (crwOk f.sub.toNat) 7 ++ noT h

/-- B-slot FB syllables (Tables 5.1 and 5.5, R144, R147, R149, R157, R161). -/
def bFB (o : Nat) (h : Hdr) (f : FB) : Causes :=
  (if o = 0x05 ∨ o = 0x06 then [] else noT h) ++
  match o with
  | 0x01 | 0x03 | 0x06 | 0x07 | 0x14 => zero f.ctl
  | 0x02 => need (f.ctl.toNat % 128 == 0) 5 ++ zero f.off
  | 0x04 | 0x16 => zero f.ctl ++ zero f.off
  | 0x05 => if f.ctl.getLsbD 13 then need (f.ctl.toNat / 64 % 128 == 0) 5 else zero f.off
  | 0x08 => if f.ctl.getLsbD 13 then [] else need (f.ctl.toNat % 64 == 0) 5
  | 0x09 => zero f.ctl ++ need (decide (1 ≤ f.off.toNat ∧ f.off.toNat ≤ 65536)) 7
  | 0x10 => need (decide (f.ctl.toNat / 512 < 24)) 8 ++ need (f.ctl.toNat % 4 == 0 && f.off == 0) 5
  | 0x11 | 0x12 | 0x13 => need (decide (f.ctl.toNat / 512 < 24)) 8 ++ need (f.ctl.toNat % 512 == 0 && f.off == 0) 5
  | _ => zero f.ctl ++ need (decide (f.off.toNat < 65536)) 5

/-- The operands of a syllable in the format that its opcode fixes (Table 1.4). -/
inductive Form where
  | f3 (f : F3)
  | fi (f : FI)
  | fm (f : FM)
  | fb (f : FB)
  deriving DecidableEq, Repr

/-- The formats. -/
inductive Kind where
  | f3 | fi | fm | fb
  deriving DecidableEq, Repr

/-- Table 1.6: the format of an opcode in a slot's space; none where it is unassigned, and for NOP. -/
def kindOf (c : Cls) (o : Nat) : Option Kind :=
  if o = 0 then none
  else match c with
    | .b => if (0x0A ≤ o ∧ o ≤ 0x0F) ∨ o = 0x18 ∨ o = 0x19 then some .f3 else if o ≤ 0x17 then some .fb else none
    | .s =>
      if [0x03, 0x07, 0x08, 0x09, 0x0D, 0x0E, 0x0F, 0x1C, 0x1D, 0x20].contains o then some .fi
      else if o = 0x23 ∨ o = 0x24 then some .fm else if o ≤ 0x30 then some .f3 else none
    | .v => if o = 0x2C ∨ o = 0x2D then some .fm else if o ≤ 0x36 then some .f3 else none
    | .q => if o = 0x0A ∨ o = 0x0B then some .fm else if o ≤ 0x0E then some .f3 else none
    | .x => if o ≤ 0x10 then some .f3 else none
    | .t => if o ≤ 0x05 then some .f3 else none
    | .m => if o ≤ 0x08 then some .f3 else none
    | .d => if o ≤ 0x25 then some .f3 else none

/-- The opcode space of a slot (R23). -/
def clsOf : Slot → Cls
  | .s0 => .s | .s1 => .s | .v0 => .v | .v1 => .v | .q => .q | .x => .x | .t => .t | .m => .m | .d => .d | .b => .b

/-- The causes of a syllable's own fields. -/
def fields (c : Cls) (o : Nat) (h : Hdr) : Form → Causes
  | .f3 f => match c with
    | .s => sF3 o h f
    | .v => vF3 o h f
    | .q => qF3 o h f
    | .x => xF3 o h f
    | .t => tF3 o h f
    | .m => mF3 o h f
    | .d => dF3 o h f
    | .b => bF3 o h f
  | .fi f => sFI o h f
  | .fm f => match c with
    | .s => sFM o h f
    | .v => vFM o h f
    | _ => qFM h f
  | .fb f => bFB o h f

/-- The causes of a syllable that is no NOP: its guard's number, and its own fields. DEDUCED: log entry 33. DEDUCED: log entry 34. -/
def syllable (c : Cls) (o : Nat) (h : Hdr) (f : Form) : Causes := below h.g 96 ++ fields c o h f

/-- R147: the end of a REP's body lies past its start and inside the scratchpad. -/
def repEnd (pc len : Nat) (f : FB) : Causes :=
  let e := (pc : Int) + 8 * f.off.toInt
  need (decide ((pc + len : Nat) < e ∧ e ≤ 0x800000)) 7

/-- The lowest of a list of causes. -/
def lowest : Causes → Option Nat
  | [] => none
  | c :: cs => match lowest cs with
    | none => some c
    | some d => some (min c d)

end Sys2Proof.Legal
end

