-- ==== Sys2Proof/WellFormed.lean ====
section
/-!
DEFINITION. Well-formed instructions: the syllable of a slot that has its opcode, with the fields that the encoding tables allow (R18 to R24), and the form that the constructor names.
-/

namespace Sys2Proof

/-- The opcode space, opcode, common fields and operands of a slot syllable; none for NOP and for the steps that no syllable names. -/
def Instr.parts : Instr → Option (Cls × Nat × Hdr × Legal.Form)
  | .nop _ => none
  | .emptyBundle => none
  | .stallEnd _ => none
  | .resultLanding _ => none
  | .cellLanding _ => none
  | .br h f => some (.b, 0x01, h, .fb f)
  | .bri h f => some (.b, 0x02, h, .fb f)
  | .call h f => some (.b, 0x03, h, .fb f)
  | .ret h f => some (.b, 0x04, h, .fb f)
  | .loopi h f => some (.b, 0x05, h, .fb f)
  | .loopiImm h f => some (.b, 0x05, h, .fb f)
  | .loopb h f => some (.b, 0x06, h, .fb f)
  | .loopx h f => some (.b, 0x07, h, .fb f)
  | .rep h f => some (.b, 0x08, h, .fb f)
  | .repImm h f => some (.b, 0x08, h, .fb f)
  | .nopn h f => some (.b, 0x09, h, .fb f)
  | .pset h f => some (.b, 0x0A, h, .f3 f)
  | .pand h f => some (.b, 0x0B, h, .f3 f)
  | .por h f => some (.b, 0x0C, h, .f3 f)
  | .pxor h f => some (.b, 0x0D, h, .f3 f)
  | .pnot h f => some (.b, 0x0E, h, .f3 f)
  | .pmov h f => some (.b, 0x0F, h, .f3 f)
  | .rvi h f => some (.b, 0x10, h, .fb f)
  | .rva h f => some (.b, 0x11, h, .fb f)
  | .rvw h f => some (.b, 0x12, h, .fb f)
  | .rvaw h f => some (.b, 0x13, h, .fb f)
  | .rendezvousArrival _ _ _ => none
  | .phint h f => some (.b, 0x14, h, .fb f)
  | .trap h f => some (.b, 0x15, h, .fb f)
  | .tend h f => some (.b, 0x16, h, .fb f)
  | .tfail h f => some (.b, 0x17, h, .fb f)
  | .crr h f => some (.b, 0x18, h, .f3 f)
  | .crw h f => some (.b, 0x19, h, .f3 f)
  | .add h f => some (.s, 0x01, h, .f3 f)
  | .sub h f => some (.s, 0x02, h, .f3 f)
  | .addi h f => some (.s, 0x03, h, .fi f)
  | .and h f => some (.s, 0x04, h, .f3 f)
  | .or h f => some (.s, 0x05, h, .f3 f)
  | .xor h f => some (.s, 0x06, h, .f3 f)
  | .andi h f => some (.s, 0x07, h, .fi f)
  | .ori h f => some (.s, 0x08, h, .fi f)
  | .xori h f => some (.s, 0x09, h, .fi f)
  | .sll h f => some (.s, 0x0A, h, .f3 f)
  | .srl h f => some (.s, 0x0B, h, .f3 f)
  | .sra h f => some (.s, 0x0C, h, .f3 f)
  | .slli h f => some (.s, 0x0D, h, .fi f)
  | .srli h f => some (.s, 0x0E, h, .fi f)
  | .srai h f => some (.s, 0x0F, h, .fi f)
  | .mul h f => some (.s, 0x10, h, .f3 f)
  | .mulh h f => some (.s, 0x11, h, .f3 f)
  | .mulhu h f => some (.s, 0x12, h, .f3 f)
  | .div h f => some (.s, 0x13, h, .f3 f)
  | .divu h f => some (.s, 0x14, h, .f3 f)
  | .rem h f => some (.s, 0x15, h, .f3 f)
  | .remu h f => some (.s, 0x15, h, .f3 f)
  | .min h f => some (.s, 0x16, h, .f3 f)
  | .max h f => some (.s, 0x17, h, .f3 f)
  | .minu h f => some (.s, 0x18, h, .f3 f)
  | .maxu h f => some (.s, 0x19, h, .f3 f)
  | .clz h f => some (.s, 0x1A, h, .f3 f)
  | .popc h f => some (.s, 0x1B, h, .f3 f)
  | .li h f => some (.s, 0x1C, h, .fi f)
  | .lih h f => some (.s, 0x1D, h, .fi f)
  | .addsc h f => some (.s, 0x1E, h, .f3 f)
  | .cmp h f => some (.s, 0x1F, h, .f3 f)
  | .cmpi h f => some (.s, 0x20, h, .fi f)
  | .sel h f => some (.s, 0x21, h, .f3 f)
  | .xmv h f => some (.s, 0x22, h, .f3 f)
  | .ld h f => some (.s, 0x23, h, .fm f)
  | .st h f => some (.s, 0x24, h, .fm f)
  | .fadd h f => some (.s, 0x25, h, .f3 f)
  | .fsub h f => some (.s, 0x26, h, .f3 f)
  | .fmul h f => some (.s, 0x27, h, .f3 f)
  | .ffma h f => some (.s, 0x28, h, .f3 f)
  | .fdiv h f => some (.s, 0x29, h, .f3 f)
  | .fsqrt h f => some (.s, 0x2A, h, .f3 f)
  | .fmin h f => some (.s, 0x2B, h, .f3 f)
  | .fmax h f => some (.s, 0x2C, h, .f3 f)
  | .fcmp h f => some (.s, 0x2D, h, .f3 f)
  | .fcvt h f => some (.s, 0x2E, h, .f3 f)
  | .shw h f => some (.s, 0x2F, h, .f3 f)
  | .shrd h f => some (.s, 0x30, h, .f3 f)
  | .vadd h f => some (.v, 0x01, h, .f3 f)
  | .vsub h f => some (.v, 0x02, h, .f3 f)
  | .vmul h f => some (.v, 0x03, h, .f3 f)
  | .vmulh h f => some (.v, 0x04, h, .f3 f)
  | .vand h f => some (.v, 0x05, h, .f3 f)
  | .vor h f => some (.v, 0x06, h, .f3 f)
  | .vxor h f => some (.v, 0x07, h, .f3 f)
  | .vsll h f => some (.v, 0x08, h, .f3 f)
  | .vsrl h f => some (.v, 0x09, h, .f3 f)
  | .vsra h f => some (.v, 0x0A, h, .f3 f)
  | .vmin h f => some (.v, 0x0B, h, .f3 f)
  | .vmax h f => some (.v, 0x0C, h, .f3 f)
  | .vabs h f => some (.v, 0x0D, h, .f3 f)
  | .vadds h f => some (.v, 0x0E, h, .f3 f)
  | .vsubs h f => some (.v, 0x0F, h, .f3 f)
  | .vcmp h f => some (.v, 0x10, h, .f3 f)
  | .vfadd h f => some (.v, 0x11, h, .f3 f)
  | .vfsub h f => some (.v, 0x12, h, .f3 f)
  | .vfmul h f => some (.v, 0x13, h, .f3 f)
  | .vffma h f => some (.v, 0x14, h, .f3 f)
  | .vfdiv h f => some (.v, 0x15, h, .f3 f)
  | .vfsqrt h f => some (.v, 0x16, h, .f3 f)
  | .vfmin h f => some (.v, 0x17, h, .f3 f)
  | .vfmax h f => some (.v, 0x18, h, .f3 f)
  | .vfabs h f => some (.v, 0x19, h, .f3 f)
  | .vfneg h f => some (.v, 0x1A, h, .f3 f)
  | .vfcmp h f => some (.v, 0x1B, h, .f3 f)
  | .vtadd h f => some (.v, 0x1C, h, .f3 f)
  | .vtsub h f => some (.v, 0x1D, h, .f3 f)
  | .vtmul h f => some (.v, 0x1E, h, .f3 f)
  | .vtfma h f => some (.v, 0x1F, h, .f3 f)
  | .vred h f => some (.v, 0x20, h, .f3 f)
  | .vsel h f => some (.v, 0x21, h, .f3 f)
  | .kand h f => some (.v, 0x22, h, .f3 f)
  | .kor h f => some (.v, 0x23, h, .f3 f)
  | .kxor h f => some (.v, 0x24, h, .f3 f)
  | .knot h f => some (.v, 0x25, h, .f3 f)
  | .kpop h f => some (.v, 0x26, h, .f3 f)
  | .vbcast h f => some (.v, 0x27, h, .f3 f)
  | .vmov h f => some (.v, 0x28, h, .f3 f)
  | .vext h f => some (.v, 0x29, h, .f3 f)
  | .vins h f => some (.v, 0x2A, h, .f3 f)
  | .viota h f => some (.v, 0x2B, h, .f3 f)
  | .vld h f => some (.v, 0x2C, h, .fm f)
  | .vst h f => some (.v, 0x2D, h, .fm f)
  | .vlds h f => some (.v, 0x2E, h, .f3 f)
  | .vsts h f => some (.v, 0x2F, h, .f3 f)
  | .vgath h f => some (.v, 0x30, h, .f3 f)
  | .vscat h f => some (.v, 0x31, h, .f3 f)
  | .vamul h f => some (.v, 0x32, h, .f3 f)
  | .vconj h f => some (.v, 0x33, h, .f3 f)
  | .vnorm h f => some (.v, 0x34, h, .f3 f)
  | .aload h f => some (.v, 0x35, h, .f3 f)
  | .aloadPreset h f => some (.v, 0x35, h, .f3 f)
  | .vxmv h f => some (.v, 0x36, h, .f3 f)
  | .qclr h f => some (.q, 0x01, h, .f3 f)
  | .qmac h f => some (.q, 0x02, h, .f3 f)
  | .qmacn h f => some (.q, 0x03, h, .f3 f)
  | .qadd h f => some (.q, 0x04, h, .f3 f)
  | .qsub h f => some (.q, 0x05, h, .f3 f)
  | .qneg h f => some (.q, 0x06, h, .f3 f)
  | .qred h f => some (.q, 0x07, h, .f3 f)
  | .qround h f => some (.q, 0x08, h, .f3 f)
  | .qrounds h f => some (.q, 0x09, h, .f3 f)
  | .qld h f => some (.q, 0x0A, h, .fm f)
  | .qst h f => some (.q, 0x0B, h, .fm f)
  | .qmov h f => some (.q, 0x0C, h, .f3 f)
  | .qtst h f => some (.q, 0x0D, h, .f3 f)
  | .qmode h f => some (.q, 0x0E, h, .f3 f)
  | .xcvt h f => some (.x, 0x01, h, .f3 f)
  | .xpack h f => some (.x, 0x02, h, .f3 f)
  | .xunp h f => some (.x, 0x03, h, .f3 f)
  | .xscl h f => some (.x, 0x04, h, .f3 f)
  | .xshuf h f => some (.x, 0x05, h, .f3 f)
  | .xshufShape h f => some (.x, 0x05, h, .f3 f)
  | .xrev h f => some (.x, 0x06, h, .f3 f)
  | .xrot h f => some (.x, 0x07, h, .f3 f)
  | .xzip h f => some (.x, 0x08, h, .f3 f)
  | .xunz h f => some (.x, 0x09, h, .f3 f)
  | .xbc h f => some (.x, 0x0A, h, .f3 f)
  | .xcpr h f => some (.x, 0x0B, h, .f3 f)
  | .xexp h f => some (.x, 0x0C, h, .f3 f)
  | .xswz h f => some (.x, 0x0D, h, .f3 f)
  | .xmrg h f => some (.x, 0x0E, h, .f3 f)
  | .xsps h f => some (.x, 0x0F, h, .f3 f)
  | .xdth h f => some (.x, 0x10, h, .f3 f)
  | .trcfg h f => some (.t, 0x01, h, .f3 f)
  | .trw h f => some (.t, 0x02, h, .f3 f)
  | .trc h f => some (.t, 0x03, h, .f3 f)
  | .trclr h f => some (.t, 0x04, h, .f3 f)
  | .trst h f => some (.t, 0x05, h, .f3 f)
  | .transposerChangeLands _ => none
  | .mgo h f => some (.m, 0x01, h, .f3 f)
  | .mstep h f => some (.m, 0x02, h, .f3 f)
  | .mwait h f => some (.m, 0x03, h, .f3 f)
  | .mstat h f => some (.m, 0x04, h, .f3 f)
  | .mabort h f => some (.m, 0x05, h, .f3 f)
  | .mzero h f => some (.m, 0x06, h, .f3 f)
  | .mldt h f => some (.m, 0x07, h, .f3 f)
  | .mstt h f => some (.m, 0x08, h, .f3 f)
  | .mgoNestStart _ => none
  | .kstepStart _ => none
  | .kstepRetire _ => none
  | .sbind h f => some (.d, 0x01, h, .f3 f)
  | .sunb h f => some (.d, 0x02, h, .f3 f)
  | .ssync h f => some (.d, 0x03, h, .f3 f)
  | .ginit h f => some (.d, 0x04, h, .f3 f)
  | .gwf h f => some (.d, 0x05, h, .f3 f)
  | .gwe h f => some (.d, 0x06, h, .f3 f)
  | .gadvh h f => some (.d, 0x07, h, .f3 f)
  | .gadvt h f => some (.d, 0x08, h, .f3 f)
  | .gstat h f => some (.d, 0x09, h, .f3 f)
  | .spushc h f => some (.d, 0x0A, h, .f3 f)
  | .spopc h f => some (.d, 0x0B, h, .f3 f)
  | .sbal h f => some (.d, 0x0C, h, .f3 f)
  | .sbalRun _ _ => none
  | .sbalComplete _ _ => none
  | .portEntryArrival _ _ => none
  | .streamWritePerformed _ _ => none
  | .ringSlotCommit _ _ => none
  | .ringSlotFree _ _ => none
  | .cpy h f => some (.d, 0x0D, h, .f3 f)
  | .cpyw h f => some (.d, 0x0E, h, .f3 f)
  | .cpyq h f => some (.d, 0x0F, h, .f3 f)
  | .copyBurstDone _ => none
  | .copyRtIncrementRetry _ => none
  | .gatherPacket _ _ => none
  | .lput h f => some (.d, 0x10, h, .f3 f)
  | .lputf h f => some (.d, 0x11, h, .f3 f)
  | .lwait h f => some (.d, 0x12, h, .f3 f)
  | .lwaitScalar h f => some (.d, 0x12, h, .f3 f)
  | .lset h f => some (.d, 0x13, h, .f3 f)
  | .lsetSub h f => some (.d, 0x13, h, .f3 f)
  | .lsig h f => some (.d, 0x14, h, .f3 f)
  | .aop h f => some (.d, 0x15, h, .f3 f)
  | .aopn h f => some (.d, 0x16, h, .f3 f)
  | .acas h f => some (.d, 0x17, h, .f3 f)
  | .acasw h f => some (.d, 0x18, h, .f3 f)
  | .aenq h f => some (.d, 0x19, h, .f3 f)
  | .achase h f => some (.d, 0x1A, h, .f3 f)
  | .ared h f => some (.d, 0x1B, h, .f3 f)
  | .aredFin h f => some (.d, 0x1B, h, .f3 f)
  | .crossRel h f => some (.d, 0x1C, h, .f3 f)
  | .crossAcq h f => some (.d, 0x1C, h, .f3 f)
  | .crossAr h f => some (.d, 0x1C, h, .f3 f)
  | .aliasf h f => some (.d, 0x1D, h, .f3 f)
  | .fence h f => some (.d, 0x1E, h, .f3 f)
  | .nlaunch h f => some (.d, 0x1F, h, .f3 f)
  | .nlaunchAppend _ => none
  | .jraise h f => some (.d, 0x20, h, .f3 f)
  | .jpost h f => some (.d, 0x21, h, .f3 f)
  | .sealreq h f => some (.d, 0x22, h, .f3 f)
  | .vainv h f => some (.d, 0x23, h, .f3 f)
  | .vainvAll h f => some (.d, 0x23, h, .f3 f)
  | .tsr h f => some (.d, 0x24, h, .f3 f)
  | .trig h f => some (.d, 0x25, h, .f3 f)
  | .tracePcMatch _ => none
  | .traceFreeze _ => none
  | .putPacketArrival _ => none
  | .lsigArrival _ => none
  | .putAck _ => none
  | .atomicApply _ => none
  | .atomicReply _ => none
  | .operationPacket _ => none
  | .achaseHop _ => none
  | .crucibleAdd _ => none
  | .crucibleFinalise _ => none
  | .jcbRaiseApply _ => none
  | .jcbPostApply _ => none
  | .endToEndRetry _ => none
  | .refusalRetry _ => none
  | .fabricTimeout _ => none
  | .sourceRelease _ => none
  | .translationWalkComplete _ => none
  | .dieInvalidate _ _ => none
  | .invalidateAck _ _ => none
  | .vainvComplete _ => none
  | .tinvGo _ => none
  | .qtailWrite _ _ _ => none
  | .qcfgWrite _ _ _ => none
  | .partitionEnable _ _ => none
  | .partitionDisable _ _ => none
  | .queuePriorityAging _ _ => none
  | .nestRecordStart _ _ => none
  | .graphLaunch _ _ => none
  | .copyRecordStart _ _ => none
  | .queueFence _ _ => none
  | .levelSwitch _ _ => none
  | .levelSwitchComplete _ => none
  | .sealRequestPacket _ _ => none
  | .teamLaunch _ _ => none
  | .teamRetire _ _ => none
  | .retireLogWrite _ _ => none
  | .signalWriteAccepted _ _ _ => none
  | .iterationPriorityAging _ _ => none
  | .sliceExpiry _ _ => none
  | .quiesceMarkerReturn _ => none
  | .preemptSave _ _ => none
  | .preemptSaveComplete _ _ => none
  | .preemptRestore _ _ => none
  | .pwaitExpiry _ _ => none
  | .uncorrectable _ => none
  | .engineStop _ _ => none
  | .haltComplete _ => none
  | .haltResume _ => none
  | .haltDump _ => none
  | .haltDumpComplete _ => none
  | .homeLineRead _ => none
  | .homeLineWrite _ => none
  | .riserWaitExpiry _ => none
  | .holdBufferEntry _ => none
  | .holdWaitExpiry _ => none
  | .metaSweep _ => none
  | .sealTimerExpiry _ => none
  | .sealDrainComplete _ => none
  | .prepare _ => none
  | .prepareReply _ _ => none
  | .commit _ => none
  | .committed _ => none
  | .free _ => none
  | .rctlRollback _ => none
  | .persWrite _ _ => none
  | .berthDrainComplete _ => none
  | .drainTimeout _ => none
  | .berthTrainingComplete _ _ _ => none
  | .kgo _ => none
  | .keyLow _ => none
  | .keyExhausted _ => none
  | .remoteRequestAdmission _ => none
  | .hostLinkLoss => none
  | .hostLinkReturn => none
  | .cvctlGo _ _ => none
  | .conversionComplete _ => none
  | .crallocWrite _ _ _ => none
  | .traceArm _ => none
  | .traceClr _ => none
  | .traceDump _ => none
  | .traceDumpComplete _ => none
  | .mtset _ => none
  | .bbclr _ => none
  | .moduleReset => none
  | .bootPhaseComplete _ => none
  | .attest => none
  | .enterFullService => none
  | .writeRoute => none
  | .writeJoinKey => none
  | .partitionReset _ => none
  | .dieReset _ => none
  | .registerWrite _ _ => none
  | .crossPerformed _ => none
  | .berthLoss _ => none
  | .pgateUpdate _ => none
  | .heldWritePerformed _ => none
  | .rollbackComplete _ => none

/-- The operands are those of the form that the constructor names; a NOP has no other bit set (R22). -/
def Instr.formOk : Instr → Bool
  | .emptyBundle => true
  | .nop h => h == ⟨h.slot, 0, false, false⟩
  | .stallEnd _ => true
  | .resultLanding _ => true
  | .cellLanding _ => true
  | .br _ _ => true
  | .bri _ _ => true
  | .call _ _ => true
  | .ret _ _ => true
  | .loopi _ f => !f.ctl.getLsbD 13
  | .loopiImm _ f => f.ctl.getLsbD 13
  | .loopb _ _ => true
  | .loopx _ _ => true
  | .rep _ f => !f.ctl.getLsbD 13
  | .repImm _ f => f.ctl.getLsbD 13
  | .nopn _ _ => true
  | .pset _ _ => true
  | .pand _ _ => true
  | .por _ _ => true
  | .pxor _ _ => true
  | .pnot _ _ => true
  | .pmov _ _ => true
  | .rvi _ _ => true
  | .rva _ _ => true
  | .rvw _ _ => true
  | .rvaw _ _ => true
  | .rendezvousArrival _ _ _ => true
  | .phint _ _ => true
  | .trap _ _ => true
  | .tend _ _ => true
  | .tfail _ _ => true
  | .crr _ _ => true
  | .crw _ _ => true
  | .add _ _ => true
  | .sub _ _ => true
  | .addi _ _ => true
  | .and _ _ => true
  | .or _ _ => true
  | .xor _ _ => true
  | .andi _ _ => true
  | .ori _ _ => true
  | .xori _ _ => true
  | .sll _ _ => true
  | .srl _ _ => true
  | .sra _ _ => true
  | .slli _ _ => true
  | .srli _ _ => true
  | .srai _ _ => true
  | .mul _ _ => true
  | .mulh _ _ => true
  | .mulhu _ _ => true
  | .div _ _ => true
  | .divu _ _ => true
  | .rem _ f => !f.sub.getLsbD 0
  | .remu _ f => f.sub.getLsbD 0
  | .min _ _ => true
  | .max _ _ => true
  | .minu _ _ => true
  | .maxu _ _ => true
  | .clz _ _ => true
  | .popc _ _ => true
  | .li _ _ => true
  | .lih _ _ => true
  | .addsc _ _ => true
  | .cmp _ _ => true
  | .cmpi _ _ => true
  | .sel _ _ => true
  | .xmv _ _ => true
  | .ld _ _ => true
  | .st _ _ => true
  | .fadd _ _ => true
  | .fsub _ _ => true
  | .fmul _ _ => true
  | .ffma _ _ => true
  | .fdiv _ _ => true
  | .fsqrt _ _ => true
  | .fmin _ _ => true
  | .fmax _ _ => true
  | .fcmp _ _ => true
  | .fcvt _ _ => true
  | .shw _ _ => true
  | .shrd _ _ => true
  | .vadd _ _ => true
  | .vsub _ _ => true
  | .vmul _ _ => true
  | .vmulh _ _ => true
  | .vand _ _ => true
  | .vor _ _ => true
  | .vxor _ _ => true
  | .vsll _ _ => true
  | .vsrl _ _ => true
  | .vsra _ _ => true
  | .vmin _ _ => true
  | .vmax _ _ => true
  | .vabs _ _ => true
  | .vadds _ _ => true
  | .vsubs _ _ => true
  | .vcmp _ _ => true
  | .vfadd _ _ => true
  | .vfsub _ _ => true
  | .vfmul _ _ => true
  | .vffma _ _ => true
  | .vfdiv _ _ => true
  | .vfsqrt _ _ => true
  | .vfmin _ _ => true
  | .vfmax _ _ => true
  | .vfabs _ _ => true
  | .vfneg _ _ => true
  | .vfcmp _ _ => true
  | .vtadd _ _ => true
  | .vtsub _ _ => true
  | .vtmul _ _ => true
  | .vtfma _ _ => true
  | .vred _ _ => true
  | .vsel _ _ => true
  | .kand _ _ => true
  | .kor _ _ => true
  | .kxor _ _ => true
  | .knot _ _ => true
  | .kpop _ _ => true
  | .vbcast _ _ => true
  | .vmov _ _ => true
  | .vext _ _ => true
  | .vins _ _ => true
  | .viota _ _ => true
  | .vld _ _ => true
  | .vst _ _ => true
  | .vlds _ _ => true
  | .vsts _ _ => true
  | .vgath _ _ => true
  | .vscat _ _ => true
  | .vamul _ _ => true
  | .vconj _ _ => true
  | .vnorm _ _ => true
  | .aload _ f => !f.sub.getLsbD 5
  | .aloadPreset _ f => f.sub.getLsbD 5
  | .vxmv _ _ => true
  | .qclr _ _ => true
  | .qmac _ _ => true
  | .qmacn _ _ => true
  | .qadd _ _ => true
  | .qsub _ _ => true
  | .qneg _ _ => true
  | .qred _ _ => true
  | .qround _ _ => true
  | .qrounds _ _ => true
  | .qld _ _ => true
  | .qst _ _ => true
  | .qmov _ _ => true
  | .qtst _ _ => true
  | .qmode _ _ => true
  | .xcvt _ _ => true
  | .xpack _ _ => true
  | .xunp _ _ => true
  | .xscl _ _ => true
  | .xshuf _ f => !f.d.getLsbD 2
  | .xshufShape _ f => f.d.getLsbD 2
  | .xrev _ _ => true
  | .xrot _ _ => true
  | .xzip _ _ => true
  | .xunz _ _ => true
  | .xbc _ _ => true
  | .xcpr _ _ => true
  | .xexp _ _ => true
  | .xswz _ _ => true
  | .xmrg _ _ => true
  | .xsps _ _ => true
  | .xdth _ _ => true
  | .trcfg _ _ => true
  | .trw _ _ => true
  | .trc _ _ => true
  | .trclr _ _ => true
  | .trst _ _ => true
  | .transposerChangeLands _ => true
  | .mgo _ _ => true
  | .mstep _ _ => true
  | .mwait _ _ => true
  | .mstat _ _ => true
  | .mabort _ _ => true
  | .mzero _ _ => true
  | .mldt _ _ => true
  | .mstt _ _ => true
  | .mgoNestStart _ => true
  | .kstepStart _ => true
  | .kstepRetire _ => true
  | .sbind _ _ => true
  | .sunb _ _ => true
  | .ssync _ _ => true
  | .ginit _ _ => true
  | .gwf _ _ => true
  | .gwe _ _ => true
  | .gadvh _ _ => true
  | .gadvt _ _ => true
  | .gstat _ _ => true
  | .spushc _ _ => true
  | .spopc _ _ => true
  | .sbal _ _ => true
  | .sbalRun _ _ => true
  | .sbalComplete _ _ => true
  | .portEntryArrival _ _ => true
  | .streamWritePerformed _ _ => true
  | .ringSlotCommit _ _ => true
  | .ringSlotFree _ _ => true
  | .cpy _ _ => true
  | .cpyw _ _ => true
  | .cpyq _ _ => true
  | .copyBurstDone _ => true
  | .copyRtIncrementRetry _ => true
  | .gatherPacket _ _ => true
  | .lput _ _ => true
  | .lputf _ _ => true
  | .lwait _ f => f.sub.getLsbD 0
  | .lwaitScalar _ f => !f.sub.getLsbD 0
  | .lset _ f => !f.sub.getLsbD 1
  | .lsetSub _ f => f.sub.getLsbD 1
  | .lsig _ _ => true
  | .aop _ _ => true
  | .aopn _ _ => true
  | .acas _ _ => true
  | .acasw _ _ => true
  | .aenq _ _ => true
  | .achase _ _ => true
  | .ared _ f => !f.sub.getLsbD 5
  | .aredFin _ f => f.sub.getLsbD 5
  | .crossRel _ f => f.ord == 2
  | .crossAcq _ f => f.ord == 1
  | .crossAr _ f => f.ord == 3
  | .aliasf _ _ => true
  | .fence _ _ => true
  | .nlaunch _ _ => true
  | .nlaunchAppend _ => true
  | .jraise _ _ => true
  | .jpost _ _ => true
  | .sealreq _ _ => true
  | .vainv _ f => !f.sub.getLsbD 0
  | .vainvAll _ f => f.sub.getLsbD 0
  | .tsr _ _ => true
  | .trig _ _ => true
  | .tracePcMatch _ => true
  | .traceFreeze _ => true
  | .putPacketArrival _ => true
  | .lsigArrival _ => true
  | .putAck _ => true
  | .atomicApply _ => true
  | .atomicReply _ => true
  | .operationPacket _ => true
  | .achaseHop _ => true
  | .crucibleAdd _ => true
  | .crucibleFinalise _ => true
  | .jcbRaiseApply _ => true
  | .jcbPostApply _ => true
  | .endToEndRetry _ => true
  | .refusalRetry _ => true
  | .fabricTimeout _ => true
  | .sourceRelease _ => true
  | .translationWalkComplete _ => true
  | .dieInvalidate _ _ => true
  | .invalidateAck _ _ => true
  | .vainvComplete _ => true
  | .tinvGo _ => true
  | .qtailWrite _ _ _ => true
  | .qcfgWrite _ _ _ => true
  | .partitionEnable _ _ => true
  | .partitionDisable _ _ => true
  | .queuePriorityAging _ _ => true
  | .nestRecordStart _ _ => true
  | .graphLaunch _ _ => true
  | .copyRecordStart _ _ => true
  | .queueFence _ _ => true
  | .levelSwitch _ _ => true
  | .levelSwitchComplete _ => true
  | .sealRequestPacket _ _ => true
  | .teamLaunch _ _ => true
  | .teamRetire _ _ => true
  | .retireLogWrite _ _ => true
  | .signalWriteAccepted _ _ _ => true
  | .iterationPriorityAging _ _ => true
  | .sliceExpiry _ _ => true
  | .quiesceMarkerReturn _ => true
  | .preemptSave _ _ => true
  | .preemptSaveComplete _ _ => true
  | .preemptRestore _ _ => true
  | .pwaitExpiry _ _ => true
  | .uncorrectable _ => true
  | .engineStop _ _ => true
  | .haltComplete _ => true
  | .haltResume _ => true
  | .haltDump _ => true
  | .haltDumpComplete _ => true
  | .homeLineRead _ => true
  | .homeLineWrite _ => true
  | .riserWaitExpiry _ => true
  | .holdBufferEntry _ => true
  | .holdWaitExpiry _ => true
  | .metaSweep _ => true
  | .sealTimerExpiry _ => true
  | .sealDrainComplete _ => true
  | .prepare _ => true
  | .prepareReply _ _ => true
  | .commit _ => true
  | .committed _ => true
  | .free _ => true
  | .rctlRollback _ => true
  | .persWrite _ _ => true
  | .berthDrainComplete _ => true
  | .drainTimeout _ => true
  | .berthTrainingComplete _ _ _ => true
  | .kgo _ => true
  | .keyLow _ => true
  | .keyExhausted _ => true
  | .remoteRequestAdmission _ => true
  | .hostLinkLoss => true
  | .hostLinkReturn => true
  | .cvctlGo _ _ => true
  | .conversionComplete _ => true
  | .crallocWrite _ _ _ => true
  | .traceArm _ => true
  | .traceClr _ => true
  | .traceDump _ => true
  | .traceDumpComplete _ => true
  | .mtset _ => true
  | .bbclr _ => true
  | .moduleReset => true
  | .bootPhaseComplete _ => true
  | .attest => true
  | .enterFullService => true
  | .writeRoute => true
  | .writeJoinKey => true
  | .partitionReset _ => true
  | .dieReset _ => true
  | .registerWrite _ _ => true
  | .crossPerformed _ => true
  | .berthLoss _ => true
  | .pgateUpdate _ => true
  | .heldWritePerformed _ => true
  | .rollbackComplete _ => true

/-- Well-formed. -/
def Instr.wf (i : Instr) : Bool :=
  i.formOk && match i.parts with
    | some (c, o, h, f) => Legal.clsOf h.slot == c && (Legal.syllable c o h f).isEmpty
    | none => true

end Sys2Proof
end

