-- ==== Sys2Proof/Decode.lean ====
section
/-!
DEFINITION. Decoding of bundle headers and syllables (R15 to R24), total on any bytes and rejecting by the cause codes of Table 1.7, and the encoder.
-/

namespace Sys2Proof

/-! ### Fields (Tables 1.3 to 1.5) -/

def unpackF3 (w : Nat) : F3 :=
  { a := BitVec.ofNat 7 (w >>> 41), b := BitVec.ofNat 7 (w >>> 34), c := BitVec.ofNat 7 (w >>> 27), d := BitVec.ofNat 7 (w >>> 20)
    fmt := BitVec.ofNat 5 (w >>> 15), rnd := BitVec.ofNat 3 (w >>> 12), s := w.testBit 11, fi := w.testBit 10, fo := w.testBit 9
    w := w.testBit 8, ord := BitVec.ofNat 2 (w >>> 6), sub := BitVec.ofNat 6 w }

def unpackFI (w : Nat) : FI := { a := BitVec.ofNat 7 (w >>> 41), b := BitVec.ofNat 7 (w >>> 34), imm := BitVec.ofNat 34 w }

def unpackFM (w : Nat) : FM :=
  { a := BitVec.ofNat 7 (w >>> 41), b := BitVec.ofNat 7 (w >>> 34), sz := BitVec.ofNat 4 (w >>> 30), off := BitVec.ofNat 30 w }

def unpackFB (w : Nat) : FB := { ctl := BitVec.ofNat 14 (w >>> 34), off := BitVec.ofNat 34 w }

/-- Bits 56:48. -/
def unpackHdr (slot : Slot) (w : Nat) : Hdr := { slot, g := BitVec.ofNat 7 (w >>> 50), n := w.testBit 49, t := w.testBit 48 }

/-- Bits 47:0, from the top field down. -/
def packF3 (f : F3) : Nat :=
  (((((((((((f.a.toNat * 2 ^ 7 + f.b.toNat) * 2 ^ 7 + f.c.toNat) * 2 ^ 7 + f.d.toNat) * 2 ^ 5 + f.fmt.toNat) * 2 ^ 3 + f.rnd.toNat) * 2 +
    f.s.toNat) * 2 + f.fi.toNat) * 2 + f.fo.toNat) * 2 + f.w.toNat) * 2 ^ 2 + f.ord.toNat) * 2 ^ 6 + f.sub.toNat)

def packFI (f : FI) : Nat := (f.a.toNat * 2 ^ 7 + f.b.toNat) * 2 ^ 34 + f.imm.toNat

def packFM (f : FM) : Nat := ((f.a.toNat * 2 ^ 7 + f.b.toNat) * 2 ^ 4 + f.sz.toNat) * 2 ^ 30 + f.off.toNat

def packFB (f : FB) : Nat := f.ctl.toNat * 2 ^ 34 + f.off.toNat

/-- Bits 63:48. -/
def packHdr (o : Nat) (h : Hdr) : Nat := ((o * 2 ^ 7 + h.g.toNat) * 2 + h.n.toNat) * 2 + h.t.toNat

/-- The operands in a format. -/
def unpack (k : Legal.Kind) (w : Nat) : Legal.Form :=
  match k with
  | .f3 => .f3 (unpackF3 w)
  | .fi => .fi (unpackFI w)
  | .fm => .fm (unpackFM w)
  | .fb => .fb (unpackFB w)

/-- Bits 47:0 of a syllable. -/
def pack : Legal.Form → Nat
  | .f3 f => packF3 f
  | .fi f => packFI f
  | .fm f => packFM f
  | .fb f => packFB f

/-! ### Opcodes (Table 1.6) -/

/-- The instruction of an opcode of the B space in format FB. -/
def buildBFB (o : Nat) (h : Hdr) (f : FB) : Option Instr :=
  match o with
  | 0x01 => some (.br h f)
  | 0x02 => some (.bri h f)
  | 0x03 => some (.call h f)
  | 0x04 => some (.ret h f)
  | 0x05 => some (if f.ctl.getLsbD 13 then .loopiImm h f else .loopi h f)
  | 0x06 => some (.loopb h f)
  | 0x07 => some (.loopx h f)
  | 0x08 => some (if f.ctl.getLsbD 13 then .repImm h f else .rep h f)
  | 0x09 => some (.nopn h f)
  | 0x10 => some (.rvi h f)
  | 0x11 => some (.rva h f)
  | 0x12 => some (.rvw h f)
  | 0x13 => some (.rvaw h f)
  | 0x14 => some (.phint h f)
  | 0x15 => some (.trap h f)
  | 0x16 => some (.tend h f)
  | 0x17 => some (.tfail h f)
  | _ => none

/-- The instruction of an opcode of the B space in format F3. -/
def buildBF3 (o : Nat) (h : Hdr) (f : F3) : Option Instr :=
  match o with
  | 0x0A => some (.pset h f)
  | 0x0B => some (.pand h f)
  | 0x0C => some (.por h f)
  | 0x0D => some (.pxor h f)
  | 0x0E => some (.pnot h f)
  | 0x0F => some (.pmov h f)
  | 0x18 => some (.crr h f)
  | 0x19 => some (.crw h f)
  | _ => none

/-- The instruction of an opcode of the S space in format F3. -/
def buildSF3 (o : Nat) (h : Hdr) (f : F3) : Option Instr :=
  match o with
  | 0x01 => some (.add h f)
  | 0x02 => some (.sub h f)
  | 0x04 => some (.and h f)
  | 0x05 => some (.or h f)
  | 0x06 => some (.xor h f)
  | 0x0A => some (.sll h f)
  | 0x0B => some (.srl h f)
  | 0x0C => some (.sra h f)
  | 0x10 => some (.mul h f)
  | 0x11 => some (.mulh h f)
  | 0x12 => some (.mulhu h f)
  | 0x13 => some (.div h f)
  | 0x14 => some (.divu h f)
  | 0x15 => some (if f.sub.getLsbD 0 then .remu h f else .rem h f)
  | 0x16 => some (.min h f)
  | 0x17 => some (.max h f)
  | 0x18 => some (.minu h f)
  | 0x19 => some (.maxu h f)
  | 0x1A => some (.clz h f)
  | 0x1B => some (.popc h f)
  | 0x1E => some (.addsc h f)
  | 0x1F => some (.cmp h f)
  | 0x21 => some (.sel h f)
  | 0x22 => some (.xmv h f)
  | 0x25 => some (.fadd h f)
  | 0x26 => some (.fsub h f)
  | 0x27 => some (.fmul h f)
  | 0x28 => some (.ffma h f)
  | 0x29 => some (.fdiv h f)
  | 0x2A => some (.fsqrt h f)
  | 0x2B => some (.fmin h f)
  | 0x2C => some (.fmax h f)
  | 0x2D => some (.fcmp h f)
  | 0x2E => some (.fcvt h f)
  | 0x2F => some (.shw h f)
  | 0x30 => some (.shrd h f)
  | _ => none

/-- The instruction of an opcode of the S space in format FI. -/
def buildSFI (o : Nat) (h : Hdr) (f : FI) : Option Instr :=
  match o with
  | 0x03 => some (.addi h f)
  | 0x07 => some (.andi h f)
  | 0x08 => some (.ori h f)
  | 0x09 => some (.xori h f)
  | 0x0D => some (.slli h f)
  | 0x0E => some (.srli h f)
  | 0x0F => some (.srai h f)
  | 0x1C => some (.li h f)
  | 0x1D => some (.lih h f)
  | 0x20 => some (.cmpi h f)
  | _ => none

/-- The instruction of an opcode of the S space in format FM. -/
def buildSFM (o : Nat) (h : Hdr) (f : FM) : Option Instr :=
  match o with
  | 0x23 => some (.ld h f)
  | 0x24 => some (.st h f)
  | _ => none

/-- The instruction of an opcode of the V space in format F3. -/
def buildVF3 (o : Nat) (h : Hdr) (f : F3) : Option Instr :=
  match o with
  | 0x01 => some (.vadd h f)
  | 0x02 => some (.vsub h f)
  | 0x03 => some (.vmul h f)
  | 0x04 => some (.vmulh h f)
  | 0x05 => some (.vand h f)
  | 0x06 => some (.vor h f)
  | 0x07 => some (.vxor h f)
  | 0x08 => some (.vsll h f)
  | 0x09 => some (.vsrl h f)
  | 0x0A => some (.vsra h f)
  | 0x0B => some (.vmin h f)
  | 0x0C => some (.vmax h f)
  | 0x0D => some (.vabs h f)
  | 0x0E => some (.vadds h f)
  | 0x0F => some (.vsubs h f)
  | 0x10 => some (.vcmp h f)
  | 0x11 => some (.vfadd h f)
  | 0x12 => some (.vfsub h f)
  | 0x13 => some (.vfmul h f)
  | 0x14 => some (.vffma h f)
  | 0x15 => some (.vfdiv h f)
  | 0x16 => some (.vfsqrt h f)
  | 0x17 => some (.vfmin h f)
  | 0x18 => some (.vfmax h f)
  | 0x19 => some (.vfabs h f)
  | 0x1A => some (.vfneg h f)
  | 0x1B => some (.vfcmp h f)
  | 0x1C => some (.vtadd h f)
  | 0x1D => some (.vtsub h f)
  | 0x1E => some (.vtmul h f)
  | 0x1F => some (.vtfma h f)
  | 0x20 => some (.vred h f)
  | 0x21 => some (.vsel h f)
  | 0x22 => some (.kand h f)
  | 0x23 => some (.kor h f)
  | 0x24 => some (.kxor h f)
  | 0x25 => some (.knot h f)
  | 0x26 => some (.kpop h f)
  | 0x27 => some (.vbcast h f)
  | 0x28 => some (.vmov h f)
  | 0x29 => some (.vext h f)
  | 0x2A => some (.vins h f)
  | 0x2B => some (.viota h f)
  | 0x2E => some (.vlds h f)
  | 0x2F => some (.vsts h f)
  | 0x30 => some (.vgath h f)
  | 0x31 => some (.vscat h f)
  | 0x32 => some (.vamul h f)
  | 0x33 => some (.vconj h f)
  | 0x34 => some (.vnorm h f)
  | 0x35 => some (if f.sub.getLsbD 5 then .aloadPreset h f else .aload h f)
  | 0x36 => some (.vxmv h f)
  | _ => none

/-- The instruction of an opcode of the V space in format FM. -/
def buildVFM (o : Nat) (h : Hdr) (f : FM) : Option Instr :=
  match o with
  | 0x2C => some (.vld h f)
  | 0x2D => some (.vst h f)
  | _ => none

/-- The instruction of an opcode of the Q space in format F3. -/
def buildQF3 (o : Nat) (h : Hdr) (f : F3) : Option Instr :=
  match o with
  | 0x01 => some (.qclr h f)
  | 0x02 => some (.qmac h f)
  | 0x03 => some (.qmacn h f)
  | 0x04 => some (.qadd h f)
  | 0x05 => some (.qsub h f)
  | 0x06 => some (.qneg h f)
  | 0x07 => some (.qred h f)
  | 0x08 => some (.qround h f)
  | 0x09 => some (.qrounds h f)
  | 0x0C => some (.qmov h f)
  | 0x0D => some (.qtst h f)
  | 0x0E => some (.qmode h f)
  | _ => none

/-- The instruction of an opcode of the Q space in format FM. -/
def buildQFM (o : Nat) (h : Hdr) (f : FM) : Option Instr :=
  match o with
  | 0x0A => some (.qld h f)
  | 0x0B => some (.qst h f)
  | _ => none

/-- The instruction of an opcode of the X space in format F3. -/
def buildXF3 (o : Nat) (h : Hdr) (f : F3) : Option Instr :=
  match o with
  | 0x01 => some (.xcvt h f)
  | 0x02 => some (.xpack h f)
  | 0x03 => some (.xunp h f)
  | 0x04 => some (.xscl h f)
  | 0x05 => some (if f.d.getLsbD 2 then .xshufShape h f else .xshuf h f)
  | 0x06 => some (.xrev h f)
  | 0x07 => some (.xrot h f)
  | 0x08 => some (.xzip h f)
  | 0x09 => some (.xunz h f)
  | 0x0A => some (.xbc h f)
  | 0x0B => some (.xcpr h f)
  | 0x0C => some (.xexp h f)
  | 0x0D => some (.xswz h f)
  | 0x0E => some (.xmrg h f)
  | 0x0F => some (.xsps h f)
  | 0x10 => some (.xdth h f)
  | _ => none

/-- The instruction of an opcode of the T space in format F3. -/
def buildTF3 (o : Nat) (h : Hdr) (f : F3) : Option Instr :=
  match o with
  | 0x01 => some (.trcfg h f)
  | 0x02 => some (.trw h f)
  | 0x03 => some (.trc h f)
  | 0x04 => some (.trclr h f)
  | 0x05 => some (.trst h f)
  | _ => none

/-- The instruction of an opcode of the M space in format F3. -/
def buildMF3 (o : Nat) (h : Hdr) (f : F3) : Option Instr :=
  match o with
  | 0x01 => some (.mgo h f)
  | 0x02 => some (.mstep h f)
  | 0x03 => some (.mwait h f)
  | 0x04 => some (.mstat h f)
  | 0x05 => some (.mabort h f)
  | 0x06 => some (.mzero h f)
  | 0x07 => some (.mldt h f)
  | 0x08 => some (.mstt h f)
  | _ => none

/-- The instruction of an opcode of the D space in format F3. -/
def buildDF3 (o : Nat) (h : Hdr) (f : F3) : Option Instr :=
  match o with
  | 0x01 => some (.sbind h f)
  | 0x02 => some (.sunb h f)
  | 0x03 => some (.ssync h f)
  | 0x04 => some (.ginit h f)
  | 0x05 => some (.gwf h f)
  | 0x06 => some (.gwe h f)
  | 0x07 => some (.gadvh h f)
  | 0x08 => some (.gadvt h f)
  | 0x09 => some (.gstat h f)
  | 0x0A => some (.spushc h f)
  | 0x0B => some (.spopc h f)
  | 0x0C => some (.sbal h f)
  | 0x0D => some (.cpy h f)
  | 0x0E => some (.cpyw h f)
  | 0x0F => some (.cpyq h f)
  | 0x10 => some (.lput h f)
  | 0x11 => some (.lputf h f)
  | 0x12 => some (if f.sub.getLsbD 0 then .lwait h f else .lwaitScalar h f)
  | 0x13 => some (if f.sub.getLsbD 1 then .lsetSub h f else .lset h f)
  | 0x14 => some (.lsig h f)
  | 0x15 => some (.aop h f)
  | 0x16 => some (.aopn h f)
  | 0x17 => some (.acas h f)
  | 0x18 => some (.acasw h f)
  | 0x19 => some (.aenq h f)
  | 0x1A => some (.achase h f)
  | 0x1B => some (if f.sub.getLsbD 5 then .aredFin h f else .ared h f)
  | 0x1C => if f.ord = 1 then some (.crossAcq h f) else if f.ord = 2 then some (.crossRel h f) else if f.ord = 3 then some (.crossAr h f) else none
  | 0x1D => some (.aliasf h f)
  | 0x1E => some (.fence h f)
  | 0x1F => some (.nlaunch h f)
  | 0x20 => some (.jraise h f)
  | 0x21 => some (.jpost h f)
  | 0x22 => some (.sealreq h f)
  | 0x23 => some (if f.sub.getLsbD 0 then .vainvAll h f else .vainv h f)
  | 0x24 => some (.tsr h f)
  | 0x25 => some (.trig h f)
  | _ => none

/-- The instruction of an opcode with its operands. -/
def build (c : Cls) (o : Nat) (h : Hdr) : Legal.Form → Option Instr
  | .f3 f => match c with
    | .s => buildSF3 o h f
    | .v => buildVF3 o h f
    | .q => buildQF3 o h f
    | .x => buildXF3 o h f
    | .t => buildTF3 o h f
    | .m => buildMF3 o h f
    | .d => buildDF3 o h f
    | .b => buildBF3 o h f
  | .fi f => buildSFI o h f
  | .fm f => match c with
    | .s => buildSFM o h f
    | .v => buildVFM o h f
    | _ => buildQFM o h f
  | .fb f => buildBFB o h f

/-! ### Syllables -/

/-- A syllable that is refused, with its lowest cause code, or its instruction. -/
inductive Decoded where
  | refused (cause : Nat)
  | ok (i : Instr)
  deriving DecidableEq, Repr

/-- The causes that a syllable's place adds: the end of a REP's body, for a bundle of `len` bytes at `pc` (R147). -/
def placeCauses (place : Option (Nat × Nat)) (c : Cls) (o : Nat) (f : Legal.Form) : Legal.Causes :=
  match place, f with
  | some (pc, len), .fb f => if c = .b ∧ o = 0x08 then Legal.repEnd pc len f else []
  | _, _ => []

/-- Decodes the syllable `w` of a slot (R18 to R24), in a bundle of `len` bytes at `pc` where the place is known. DESIGN CHOICE: log entry 88. -/
def decodeAt (place : Option (Nat × Nat)) (slot : Slot) (w : Nat) : Decoded :=
  let o := w >>> 57 % 128
  let h := unpackHdr slot w
  if o = 0 then (if w % 2 ^ 57 = 0 then .ok (.nop h) else .refused 0x0B)
  else match Legal.kindOf (Legal.clsOf slot) o with
    | none => .refused 0x04
    | some k =>
      let f := unpack k w
      match Legal.lowest (Legal.syllable (Legal.clsOf slot) o h f ++ placeCauses place (Legal.clsOf slot) o f) with
      | some c => .refused c
      | none => match build (Legal.clsOf slot) o h f with
        | some i => .ok i
        | none => .refused 0x04

/-- Decodes the syllable `w` of a slot, wherever its bundle stands. -/
def decodeSyllable (slot : Slot) (w : Nat) : Decoded := decodeAt none slot w

/-! ### Bundles -/

/-- The slots in slot order. -/
def allSlots : List Slot := [.s0, .s1, .v0, .v1, .q, .x, .t, .m, .d, .b]

/-- The bit of a slot in a header (Table 1.1). -/
def maskBit : Slot → Nat
  | .s0 => 63 | .s1 => 62 | .v0 => 61 | .v1 => 60 | .q => 59 | .x => 58 | .t => 57 | .m => 56 | .d => 55 | .b => 54

/-- The slots present under a header, in slot order (R15, R16). -/
def presentSlots (hdr : Nat) : List Slot := allSlots.filter fun s => hdr.testBit (maskBit s)

/-- R16: the length of a bundle in bytes. -/
def bundleLength (hdr : Nat) : Nat := 8 * (1 + (presentSlots hdr).length)

/-- Header causes (Table 1.7), the lowest of them: `translated` says that the context is marked so. -/
def headerCause (hdr : Nat) (translated : Bool) : Option Nat :=
  if hdr >>> 50 % 16 ≠ 4 then some 1
  else if hdr % 2 ^ 49 ≠ 0 then some 2
  else if hdr.testBit 49 && !translated then some 3
  else none

/-! ### The encoder -/

/-- The slot and the syllable word of an instruction; none for the steps that no syllable names. -/
def encodeSyllable (i : Instr) : Option (Slot × Nat) :=
  match i with
  | .nop h => some (h.slot, 0)
  | _ => i.parts.map fun (_, o, h, f) => (h.slot, packHdr o h * 2 ^ 48 + pack f)

/-- The words of a bundle that holds the instruction alone, header first: the empty bundle's header (R16), or a header and a syllable; nothing for a step that no bundle names. DESIGN CHOICE: log entry 84. -/
def encode (i : Instr) : List Nat :=
  match i with
  | .emptyBundle => [0x0010000000000000]
  | _ => match encodeSyllable i with
    | some (s, w) => [2 ^ maskBit s + 0x0010000000000000, w]
    | none => []

/-- The instruction that the words of a bundle give: the first present syllable, and the empty bundle where none is present. DESIGN CHOICE: log entry 84. -/
def decodeWords (ws : List Nat) : Option Instr :=
  match ws with
  | [] => none
  | hdr :: rest =>
    if (headerCause hdr false).isSome then none
    else match presentSlots hdr with
      | [] => some .emptyBundle
      | s :: _ => match rest with
        | [] => none
        | w :: _ => match decodeSyllable s w with
          | .ok i => some i
          | .refused _ => none

/-- The instruction in a bundle whose bits are `w`, bit 0 the least significant of the header: bits 63 to 0 the header, bits 127 to 64 the first present syllable. DESIGN CHOICE: log entry 84. -/
def decodeTableWord (_nbits w : Nat) : Option Instr := decodeWords [w % 2 ^ 64, w >>> 64 % 2 ^ 64]

end Sys2Proof
end

