-- ==== Sys2Proof/Config.lean ====
section
/-!
DEFINITION. The values that the specification leaves open, as constants without a body: nothing can be proved of what they are.
-/

namespace Sys2Proof

/-- Which of two allowed values an 8-byte word of an unordered access sees (R71, R233, R303): a function of the core, of a counter the step advances, and of the word's number. DESIGN CHOICE: log entry 12. DESIGN CHOICE: log entry 13. -/
opaque Config.race : Nat → Nat → Nat → Bool

/-- Which enabled engine event comes next, and when the cores issue: a function of a counter the step advances. DESIGN CHOICE: log entry 2. DESIGN CHOICE: log entry 18. DESIGN CHOICE: log entry 86. -/
opaque Config.pick : Nat → Nat

/-- What another module answers to a read or an atomic (R80, R445): byte `i` of the answer to the request that is counted `n`-th. DESIGN CHOICE: log entry 13. -/
opaque Config.remote : Nat → Nat → Byte

/-- By how much a release that a read value shows lies past this module's time, where a party of another module made it (R91, R97): a function of a counter the step advances. DESIGN CHOICE: log entry 91. -/
opaque Config.farTime : Nat → Nat

/-- The flits that a request takes on a berth's link (R451): a function of a counter the step advances. DESIGN CHOICE: log entry 14. -/
opaque Config.flits : Nat → Nat

/-- What the bundles of an M3 code image become: the offset of the first bundle that does not translate, where there is one; and for each M3 bundle the syllables of its M4 bundle by slot number, its L3 bit, and the number of the M3 bundle that its branch goes to (R39). The manual does not give the M3 encoding. DESIGN CHOICE: log entry 15. -/
opaque Config.m3 : List Byte → Option Nat × List (List (Nat × Nat) × Bool × Nat)

/-- The cycles that the restore of a team takes (R119): a function of a counter the step advances. DESIGN CHOICE: log entry 95. -/
opaque Config.restoreTime : Nat → Nat

/-- The firmware that boots (R465, R466): its security version number, and byte `j` of the digest of image `i`. DESIGN CHOICE: log entry 8. DESIGN CHOICE: log entry 16. -/
opaque Config.svn : Nat
opaque Config.digest : Nat → Nat → Byte

/-- Byte `i` of the device key's LMS signature over a report, made with an index of the key (R467). DESIGN CHOICE: log entry 16. -/
opaque Config.lms : Nat → List Byte → Nat → Byte

/-- The gate value that the firmware gives a partition (R470): a function of a counter the step advances and of the partition. DESIGN CHOICE: log entry 16. -/
opaque Config.gate : Nat → Nat → Nat

/-- The size of the put that DLAT4 is declared for (R134), in bytes. DESIGN CHOICE: log entry 17. -/
opaque Config.putSize : Nat

end Sys2Proof
end

