-- ==== Sys2Proof/Machine/Numbers.lean ====
section
/-!
DEFINITION. The numbers chapter: formats (R41 to R45, R53 to R60), exact values, rounding (R46 to R52, R56), quires (R62 to R64) and dither (R51).
-/

namespace Sys2Proof

/-- The kinds of Table 2.1, with the parameters of Table 2.2. -/
inductive FKind where
  | ieee (e m : Nat) (inf : Bool)
  | int (signed : Bool)
  | b4
  | e8m0
  | e5m3
  | taper (es : Nat)
  deriving DecidableEq, Repr

/-- Table 2.1: the kind and the width of a format code; none where the code is unassigned. -/
def fmtOf : Nat → Option (FKind × Nat)
  | 0 => some (.ieee 8 23 true, 32)
  | 1 => some (.ieee 5 10 true, 16)
  | 2 => some (.ieee 8 7 true, 16)
  | 3 => some (.ieee 4 3 false, 8)
  | 4 => some (.ieee 5 2 true, 8)
  | 5 => some (.b4, 4)
  | 6 => some (.int true, 8)
  | 7 => some (.int true, 16)
  | 8 => some (.int true, 32)
  | 9 => some (.int false, 8)
  | 10 => some (.int false, 16)
  | 11 => some (.int false, 32)
  | 12 => some (.e8m0, 8)
  | 13 => some (.e5m3, 8)
  | n => if 16 ≤ n ∧ n < 28 then some (.taper (n % 4), 8 * 2 ^ ((n - 16) / 4)) else none

/-- The width of a format code; 8 for an unassigned code, which no accepted instruction carries. -/
def fmtWidth (f : Nat) : Nat := match fmtOf f with
  | some (_, w) => w
  | none => 8

/-- True for the taper codes. -/
def isTaper (f : Nat) : Bool := decide (16 ≤ f)

/-- True for the codes I8 to N32. -/
def isInt (f : Nat) : Bool := decide (6 ≤ f ∧ f ≤ 11)

/-- True for FP32, FP16, BF16, E4M3 and E5M2. -/
def isIeee (f : Nat) : Bool := decide (f ≤ 4)

/-- An exact value: `fin` is ±(`m` × 2^`e`), and a set `st` says that the magnitude is above that by less than 2^`e` (a quotient or a root cut short). -/
inductive XV where
  | fin (neg : Bool) (m : Nat) (e : Int) (st : Bool)
  | inf (neg : Bool)
  | nan
  | nar
  deriving DecidableEq, Repr

/-- The flags of Table 2.7 as a number of six bits: IV 1, DZ 2, OF 4, UF 8, NX 16, NR 32. -/
abbrev Flags := Nat

def fIV : Flags := 1
def fDZ : Flags := 2
def fOF : Flags := 4
def fUF : Flags := 8
def fNX : Flags := 16
def fNR : Flags := 32

namespace XV

/-- Zero of a sign. -/
def zero (neg : Bool) : XV := .fin neg 0 0 false

/-- An integer as an exact value. -/
def ofInt (i : Int) : XV := .fin (decide (i < 0)) i.natAbs 0 false

def isZero : XV → Bool
  | .fin _ m _ st => m == 0 && !st
  | _ => false

def neg : XV → XV
  | .fin s m e st => .fin (!s) m e st
  | .inf s => .inf (!s)
  | x => x

def abs : XV → XV
  | .fin _ m e st => .fin false m e st
  | .inf _ => .inf false
  | x => x

/-- The sign; false for NaN and NaR. -/
def sign : XV → Bool
  | .fin s _ _ _ => s
  | .inf s => s
  | _ => false

def bad : XV → Bool
  | .nan => true
  | .nar => true
  | _ => false

end XV

/-! ### Decoding -/

/-- The exponent bias of an IEEE-style format with `e` exponent bits. -/
def biasOf (e : Nat) : Nat := 2 ^ (e - 1) - 1

/-- R44, R45: an IEEE-style code. -/
def decodeIeee (e m : Nat) (hasInf : Bool) (c : Nat) : XV :=
  let s := c.testBit (e + m)
  let ef := bits c (e + m - 1) m
  let f := c % 2 ^ m
  let top := 2 ^ e - 1
  if ef = top ∧ (hasInf ∨ f = 2 ^ m - 1) then (if hasInf ∧ f = 0 then .inf s else .nan)
  else if ef = 0 then .fin s f (1 - (biasOf e : Int) - m) false
  else .fin s (2 ^ m + f) ((ef : Int) - biasOf e - m) false

/-- The length of the run of bits equal to `v` from bit `i` downward. -/
def runLen (c : Nat) (v : Bool) : Nat → Nat
  | 0 => if c.testBit 0 = v then 1 else 0
  | i + 1 => if c.testBit (i + 1) = v then runLen c v i + 1 else 0

/-- The tuple of `taper_fields` (R53) for a code that is neither zero nor NaR. -/
structure TaperFields where
  s : Bool
  k : Int
  e : Nat
  f : Nat
  fb : Nat
  deriving DecidableEq, Repr

/-- R53: `taper_fields` of a number code. -/
def taperFields (c0 n es : Nat) : TaperFields :=
  let s := c0.testBit (n - 1)
  let c := if s then 2 ^ n - c0 else c0
  let v := c.testBit (n - 2)
  let run := runLen c v (n - 2)
  let used := run + 1                      -- the run and the opposite bit, below the sign
  let left := (n - 1) - used
  let rest := c % 2 ^ left
  let fb := left - es
  let e := if es ≤ left then rest >>> fb else rest <<< (es - left)
  { s, k := if v then (run : Int) - 1 else -(run : Int), e, f := rest % 2 ^ fb, fb }

/-- R53: a taper code's value. -/
def decodeTaper (n es : Nat) (c : Nat) : XV :=
  if c = 0 then .zero false
  else if c = 2 ^ (n - 1) then .nar
  else
    let t := taperFields c n es
    .fin t.s (2 ^ t.fb + t.f) (t.k * (2 ^ es : Nat) + t.e - t.fb) false

/-- `decode` of R65: the exact value of a code. -/
def decodeV (fmt c0 : Nat) : XV :=
  match fmtOf fmt with
  | some (.ieee e m i, w) => decodeIeee e m i (c0 % 2 ^ w)
  | some (.int sg, w) => .ofInt (if sg then sext w c0 else (c0 % 2 ^ w : Nat))
  | some (.taper es, w) => decodeTaper w es (c0 % 2 ^ w)
  | some (.e8m0, _) => if c0 % 256 = 255 then .nan else .fin false 1 ((c0 % 256 : Nat) - (127 : Int)) false
  | some (.e5m3, _) =>
    let c := c0 % 256
    if c = 255 then .nan
    else if c < 8 then .fin false c (-17) false
    else .fin false (8 + c % 8) ((c / 8 : Nat) - (18 : Int)) false
  | _ => .nan

/-- R47: a signalling NaN code of FP32, FP16, BF16 or E5M2. -/
def isSNaN (fmt c0 : Nat) : Bool :=
  match fmtOf fmt with
  | some (.ieee e m true, w) =>
    let c := c0 % 2 ^ w
    decide (bits c (e + m - 1) m = 2 ^ e - 1) && decide (c % 2 ^ m ≠ 0) && !c.testBit (m - 1)
  | _ => false

/-- An operand as an arithmetic instruction reads it: `decode`, with subnormals flushed under FI (R50). -/
def decodeF (fi : Bool) (fmt c : Nat) : XV :=
  match fmtOf fmt with
  | some (.ieee e m _, _) => if fi && decide (bits c (e + m - 1) m = 0) then .zero (c.testBit (e + m)) else decodeV fmt c
  | _ => decodeV fmt c

/-- The IV flag of a signalling operand (R47). -/
def snanFlag (fmt c : Nat) : Flags := if isSNaN fmt c then fIV else 0

/-- Table 2.6: the value of a B4 code before its scale, as an exact value. -/
def b4Magnitude (type code : Nat) : XV :=
  let s := code.testBit 3
  let i := code % 8
  match type with
  | 0 => .ofInt (sext 4 code)
  | 1 => .fin s ([0, 1, 2, 3, 4, 6, 8, 12].getD i 0) (-1) false
  | 2 => if i = 0 then .zero s else .fin s 1 ((i : Int) - 4) false
  | _ => .fin s ([0, 1, 2, 3, 4, 6, 8, 12].getD i 0) (-2) false

/-- The product of two values: sign by exclusive OR, 0 × ∞ invalid (R46, R47). -/
def mulV (x y : XV) : XV × Flags :=
  if x = .nar ∨ y = .nar then (.nar, 0)
  else match x, y with
    | .fin s m e st, .fin t n f su => (.fin (s != t) (m * n) (e + f) (st || su), 0)
    | .inf s, .inf t => (.inf (s != t), 0)
    | .inf s, .fin t n _ _ => if n = 0 then (.nan, fIV) else (.inf (s != t), 0)
    | .fin s m _ _, .inf t => if m = 0 then (.nan, fIV) else (.inf (s != t), 0)
    | _, _ => (.nan, 0)

/-- `block_value` of R59. -/
def blockValue (header code : Nat) : XV :=
  let scale := decodeV 13 (header % 256)
  let v := b4Magnitude (header / 256 % 4) code
  match scale with
  | .nan => .nan
  | _ => (mulV v scale).1

/-! ### Exact arithmetic -/

/-- A finite value as an integer multiple of 2^`e0`, for `e0` not above its exponent. -/
def scaled (e0 : Int) : XV → Int
  | .fin s m e _ => (if s then -1 else 1) * ((m <<< (e - e0).toNat : Nat) : Int)
  | _ => 0

/-- The lowest exponent among finite non-zero values. -/
def minExp : List XV → Option Int
  | [] => none
  | .fin _ m e _ :: xs =>
    if m = 0 then minExp xs
    else match minExp xs with
      | none => some e
      | some f => some (min e f)
  | _ :: xs => minExp xs

/-- The sign of a sum that is exactly zero (R46). DESIGN CHOICE: log entry 89. -/
def zeroSign (rdn : Bool) (xs : List XV) : Bool :=
  if xs.all fun x => x.isZero && x.sign then !xs.isEmpty
  else if xs.all fun x => x.isZero && !x.sign then false
  else rdn

/-- The exact sum of the terms (R43, R46, R47). A NaN among more than two terms comes before opposite infinities, which then set no IV. DESIGN CHOICE: log entry 107. -/
def sumV (rdn : Bool) (xs : List XV) : XV × Flags :=
  if xs.contains .nar then (.nar, 0)
  else if xs.contains .nan then (.nan, 0)
  else if xs.contains (.inf true) && xs.contains (.inf false) then (.nan, fIV)
  else if xs.contains (.inf true) then (.inf true, 0)
  else if xs.contains (.inf false) then (.inf false, 0)
  else match minExp xs with
    | none => (.zero (zeroSign rdn xs), 0)
    | some e0 =>
      let t := xs.foldl (fun a x => a + scaled e0 x) 0
      if t = 0 then (.zero (zeroSign rdn xs), 0) else (.fin (decide (t < 0)) t.natAbs e0 false, 0)

/-- Quotient bits beyond the largest precision and range that a rounding can need. -/
def divBits : Nat := 700

/-- The quotient, cut short with a sticky bit (R43, R47, Table 2.7). -/
def divV (x y : XV) : XV × Flags :=
  if x = .nar ∨ y = .nar then (.nar, 0)
  else match x, y with
    | .fin s m e _, .fin t n f _ =>
      if n = 0 then (if m = 0 then (.nan, fIV) else (.inf (s != t), fDZ))
      else
        let a := m <<< divBits
        (.fin (s != t) (a / n) (e - f - divBits) (decide (a % n ≠ 0)), 0)
    | .inf s, .fin t _ _ _ => (.inf (s != t), 0)
    | .fin s _ _ _, .inf t => (.zero (s != t), 0)
    | .inf _, .inf _ => (.nan, fIV)
    | _, _ => (.nan, 0)

/-- The integer square root by Newton steps from above. -/
def isqrtFrom (n : Nat) : Nat → Nat → Nat
  | 0, x => x
  | k + 1, x =>
    let y := (x + n / x) / 2
    if y < x then isqrtFrom n k y else x

/-- The floor of the square root. -/
def isqrt (n : Nat) : Nat := if n = 0 then 0 else isqrtFrom n (n.log2 + 8) (2 ^ (n.log2 / 2 + 1))

/-- The square root, cut short with a sticky bit (R47). -/
def sqrtV (x : XV) : XV × Flags :=
  match x with
  | .fin s m e st =>
    if m = 0 then (.fin s 0 e st, 0)
    else if s then (.nan, fIV)
    else
      let sh := 300 + (e % 2).toNat
      let n := m <<< sh
      let r := isqrt n
      (.fin false r ((e - sh) / 2) (decide (r * r ≠ n)), 0)
  | .inf true => (.nan, fIV)
  | x => (x, 0)

/-- The order of two values that are neither NaN nor NaR: negative, zero or positive. -/
def cmpV (x y : XV) : Int :=
  match x, y with
  | .inf s, .inf t => if s = t then 0 else if s then -1 else 1
  | .inf s, _ => if s then -1 else 1
  | _, .inf t => if t then 1 else -1
  | x, y => match minExp [x, y] with
    | none => 0
    | some e0 => scaled e0 x - scaled e0 y

/-! ### Rounding -/

/-- bitrev5 of R51. -/
def bitrev5 (n : Nat) : Nat :=
  n % 2 * 16 + n / 2 % 2 * 8 + n / 4 % 2 * 4 + n / 8 % 2 * 2 + n / 16 % 2

/-- `dither(pos)` under the dither phase `dph` (R51). -/
def dither (dph pos : Nat) : Nat := bitrev5 ((pos + dph) % 32)

/-- Table 2.3: whether hi is chosen. `g` is the order of the remainder against one half, `t` its first five bits, `odd` whether lo is odd. -/
def chooseHi (mode : Nat) (neg odd : Bool) (g : Ordering) (t d : Nat) : Bool :=
  match mode with
  | 0 => g == .gt || (g == .eq && odd)
  | 1 => false
  | 2 => !neg
  | 3 => neg
  | 4 => g != .lt
  | _ => decide (32 ≤ t + d)

/-- A magnitude `m` × 2^`e` cut at the quantum 2^`q`: the quotient, whether it is exact, the order of the rest against a half, and the rest's first five bits. -/
structure Cut where
  lo : Nat
  exact : Bool
  g : Ordering
  t : Nat
  deriving DecidableEq, Repr

/-- The cut of R48. -/
def cut (m : Nat) (e : Int) (st : Bool) (q : Int) : Cut :=
  if q ≤ e then { lo := m <<< (e - q).toNat, exact := !st, g := .lt, t := 0 }
  else
    let sh := (q - e).toNat
    let r := m % 2 ^ sh
    { lo := m / 2 ^ sh, exact := r == 0 && !st,
      g := if 2 * r < 2 ^ sh then .lt else if 2 * r = 2 ^ sh && !st then .eq else .gt
      t := r * 32 / 2 ^ sh }

/-- The magnitude that the mode chooses. -/
def pick (c : Cut) (mode : Nat) (neg : Bool) (d : Nat) : Nat :=
  if c.exact then c.lo else if chooseHi mode neg (c.lo % 2 == 1) c.g c.t d then c.lo + 1 else c.lo

/-- What a floating destination needs: fraction bits, bias, the code of the largest finite magnitude, the codes of infinity and NaN, the sign's place. -/
structure FDest where
  m : Nat
  bias : Nat
  maxMag : Nat
  infMag : Option Nat
  nan : Nat
  signBit : Option Nat
  deriving DecidableEq, Repr

/-- The destination parameters of Table 2.2 and R60. -/
def fdest : FKind → Option FDest
  | .ieee e m true =>
    some ⟨m, biasOf e, (2 ^ e - 1) * 2 ^ m - 1, some ((2 ^ e - 1) * 2 ^ m), (2 ^ e - 1) * 2 ^ m + 2 ^ (m - 1), some (e + m)⟩
  | .ieee e m false => some ⟨m, biasOf e, 2 ^ (e + m) - 2, none, 2 ^ (e + m) - 1, some (e + m)⟩
  | .e5m3 => some ⟨3, 15, 0xFE, none, 0xFF, none⟩
  | _ => none

/-- A magnitude code with its sign. -/
def FDest.signed (p : FDest) (neg : Bool) (mag : Nat) : Nat :=
  match p.signBit with
  | some b => mag + (if neg then 2 ^ b else 0)
  | none => mag

/-- The cut at the quantum of a floating destination (R48). -/
def FDest.cut (p : FDest) (m : Nat) (e : Int) (st : Bool) : Cut := Sys2Proof.cut m e st (max (e + m.log2) (1 - (p.bias : Int)) - p.m)

/-- R48, R49, R50 and R60 for a floating destination. `d` is dither(pos). -/
def encodeFloat (p : FDest) (x : XV) (mode : Nat) (sat fo : Bool) (d : Nat) : Nat × Flags :=
  let unsignedNeg := p.signBit.isNone
  match x with
  | .nan => (p.nan, 0)
  | .nar => (p.nan, fIV)
  | .inf neg =>
    if unsignedNeg && neg then (p.nan, fIV)
    else if sat then (p.signed neg p.maxMag, fNX)
    else match p.infMag with
      | some i => (p.signed neg i, 0)
      | none => (p.nan, 0)
  | .fin neg m e st =>
    if m = 0 ∧ st = false then (p.signed (neg && !unsignedNeg) 0, 0)
    else if unsignedNeg && neg then (p.nan, fIV)
    else
      let h := e + m.log2
      let emin := 1 - (p.bias : Int)
      let c := p.cut m e st
      let v := pick c mode neg d
      let mag := (max h emin - emin).toNat * 2 ^ p.m + v
      let free := pick (cut m e st (h - p.m)) mode neg d
      let tiny := decide (h < emin) && !(decide (h = emin - 1) && free == 2 ^ (p.m + 1))
      if tiny && fo && !unsignedNeg then (p.signed neg 0, fUF + fNX)
      else if mag > p.maxMag then
        let code :=
          if sat then p.signed neg p.maxMag
          else match p.infMag with
            | none => p.nan
            | some i =>
              if mode = 1 ∨ (mode = 2 ∧ neg) ∨ (mode = 3 ∧ neg = false) then p.signed neg p.maxMag else p.signed neg i
        (code, fOF + fNX)
      else (p.signed neg mag, if c.exact then 0 else if tiny then fUF + fNX else fNX)

/-- R52: an integer destination. -/
def encodeInt (sg : Bool) (w : Nat) (x : XV) (mode d : Nat) : Nat × Flags :=
  let lo : Int := if sg then -((2 ^ (w - 1) : Nat) : Int) else 0
  let hi : Int := if sg then (2 ^ (w - 1) : Nat) - 1 else (2 ^ w : Nat) - 1
  match x with
  | .nan => (0, fIV)
  | .nar => (0, fIV)
  | .inf neg => (modPow w (if neg then lo else hi), fIV)
  | .fin neg m e st =>
    let c := cut m e st 0
    let v := pick c mode neg d
    let i : Int := if neg then -(v : Int) else v
    let nx := if c.exact then 0 else fNX
    if i < lo then (modPow w lo, nx + fIV) else if hi < i then (modPow w hi, nx + fIV) else (modPow w i, nx)

/-- The unbounded encoding of R56 after the sign bit: its bits as a number and their count. -/
def taperBits (es : Nat) (h : Int) (m : Nat) : Nat × Nat :=
  let k := h / ((2 ^ es : Nat) : Int)
  let e := (h % ((2 ^ es : Nat) : Int)).toNat
  let reg := if 0 ≤ k then (2 ^ (k.toNat + 1) - 1) * 2 else 1
  let rlen := if 0 ≤ k then k.toNat + 2 else (-k).toNat + 1
  let l := m.log2
  ((reg * 2 ^ es + e) * 2 ^ l + m % 2 ^ l, rlen + es + l)

/-- The cut of the unbounded taper encoding to `n` bits (R56). -/
def taperCut (n es m : Nat) (e : Int) (st : Bool) : Cut :=
  let (b, len) := taperBits es (e + m.log2) m
  let (b, len) := if len < n - 1 then (b * 2 ^ (n - 1 - len), n - 1) else (b, len)
  cut b 0 st ((len - (n - 1) : Nat) : Int)

/-- R56, R57: a taper destination of `n` bits. -/
def encodeTaper (n es : Nat) (x : XV) (mode d : Nat) : Nat × Flags :=
  match x with
  | .nan => (2 ^ (n - 1), fNR)
  | .nar => (2 ^ (n - 1), fNR)
  | .inf _ => (2 ^ (n - 1), fNR)
  | .fin neg m e st =>
    if m = 0 then (0, 0)
    else
      let h := e + m.log2
      let top : Int := ((n - 2) * 2 ^ es : Nat)
      let one := decide (m = 2 ^ m.log2) && !st
      let r : Nat × Bool :=
        if top ≤ h then (2 ^ (n - 1) - 1, decide (h = top) && one)
        else if h < -top ∨ (h = -top ∧ one) then (1, decide (h = -top) && one)
        else
          let c := taperCut n es m e st
          (pick c mode neg d, c.exact)
      (if neg then 2 ^ n - r.1 else r.1, if r.2 then 0 else fNX)

/-- `encode` of R65, with `d` = dither(pos). B4 and E8M0 are no destinations. -/
def encodeV (fmt : Nat) (x : XV) (mode : Nat) (sat fo : Bool) (d : Nat) : Nat × Flags :=
  match fmtOf fmt with
  | some (.int sg, w) => encodeInt sg w x mode d
  | some (.taper es, w) => encodeTaper w es x mode d
  | some (k, _) => match fdest k with
    | some p => encodeFloat p x mode sat fo d
    | none => (0, 0)
  | none => (0, 0)

/-- The five bits t of R51 of a value rounded to a format: 0 where it is exact, or where no rounding decides. -/
def srBits (fmt : Nat) (x : XV) : Nat :=
  match x with
  | .fin neg m e st =>
    if m = 0 then 0 else match fmtOf fmt with
      | some (.int _, _) => (cut m e st 0).t
      | some (.taper es, n) =>
        let h := e + m.log2
        let top : Int := ((n - 2) * 2 ^ es : Nat)
        if top ≤ h ∨ h < -top then 0 else (taperCut n es m e st).t
      | some (k, _) => match fdest k with
        | some p => if p.signBit.isNone && neg then 0 else (p.cut m e st).t
        | none => 0
      | none => 0
  | _ => 0

/-! ### Quires -/

/-- Quire NaR (R62). -/
def quireNaR : Quire := BitVec.ofNat 1024 (2 ^ 1023)

/-- What `quire_add` raises: bit 0 NR, bit 1 OV (Table 5.7). -/
abbrev QFlags := Nat

/-- The integer that a quire code holds, a multiple of 2^-480. -/
def quireInt (q : Quire) : Int := q.toInt

/-- A finite value in units of 2^-480 (R63: every caller passes a multiple). -/
def quireUnits : XV → Int
  | .fin s m e _ =>
    let n : Nat := if 0 ≤ e + 480 then m <<< (e + 480).toNat else m >>> (-(e + 480)).toNat
    if s then -(n : Int) else n
  | _ => 0

/-- `quire_add` of R63. DEDUCED: log entry 28. -/
def quireAdd (q : Quire) (v : XV) : Quire × QFlags :=
  if q = quireNaR then (quireNaR, 0)
  else match v with
    | .fin .. =>
      let w := quireInt q + quireUnits v
      if w ≤ -((2 ^ 1023 : Nat) : Int) ∨ ((2 ^ 1023 : Nat) : Int) ≤ w then (quireNaR, 2) else (BitVec.ofInt 1024 w, 0)
    | _ => (quireNaR, 1)

/-- The exact value of a quire (R62, R64). -/
def quireV (q : Quire) : XV :=
  if q = quireNaR then .nar
  else
    let i := quireInt q
    if i = 0 then .zero false else .fin (decide (i < 0)) i.natAbs (-480) false

/-! ### Elements of a register -/

/-- The codes of `n` elements of `w` bits, element 0 first (R42). -/
def elemsOf (w : Nat) (v : Nat) : Nat → List Nat
  | 0 => []
  | n + 1 => v % 2 ^ w :: elemsOf w (v / 2 ^ w) n

/-- The register that elements make (R42). -/
def ofElems (w : Nat) : List Nat → Nat
  | [] => 0
  | c :: cs => c % 2 ^ w + 2 ^ w * ofElems w cs

/-- The elements of a vector register. -/
def vElems (w : Nat) (v : VReg) : List Nat := elemsOf w v.toNat (4096 / w)

/-- A vector register from elements. -/
def vOf (w : Nat) (cs : List Nat) : VReg := BitVec.ofNat 4096 (ofElems w cs)

end Sys2Proof
end

