-- ==== Sys2Proof/Machine/Types.lean ====
section
/-!
DEFINITION. The records a core's state is made of: results in flight, cells, shape registers, streams, rings, copies, nests, landing commands, the context and the core.
-/

namespace Sys2Proof.Machine

/-- A rounding that waits for the dither phase of its landing (R65, R406): `encode(fmt, x, mode, sat, fo)` at position `pos`. -/
structure Rounding where
  fmt : Nat
  x : XV
  mode : Nat
  sat : Bool
  fo : Bool
  pos : Nat
  deriving DecidableEq, Repr

/-- What a result in flight brings. -/
inductive Late where
  /-- A value fixed at issue, with the FSTAT flags it raises. -/
  | now (val : Nat) (fl : Flags)
  /-- Elements of `w` bits at the listed indices, each rounded at landing; `fl` is raised in addition. -/
  | rnd (w : Nat) (es : List (Nat × Rounding)) (fl : Flags)
  /-- One rounding to an integer format, sign-extended to 64 bits (R181). -/
  | sx (r : Rounding) (fl : Flags)
  /-- The pairwise sum tree of R66 over leaf codes, where none is an absent element. -/
  | tree (fmt mode : Nat) (sat fo : Bool) (leaves : List (Option Nat)) (fl : Flags)
  deriving DecidableEq, Repr

/-- Where a slot result lands. Register numbers are physical (R143). -/
inductive Loc where
  | s (r : Nat)
  | v (r : Nat)
  | k (r : Nat)
  /-- The predicates p0 to p95 as one number of 96 bits. -/
  | p
  /-- Entry `id` of the out port of stream `j` (R259). -/
  | port (j id : Nat)
  /-- A context control register (R162). -/
  | ctl (n : Nat)
  /-- DPH, written by XDTH (R249). -/
  | dph
  /-- A field of a shape register's shadow copy (R184). -/
  | shape (id fld : Nat)
  /-- A structure table (R211). -/
  | table (n : Nat)
  deriving DecidableEq, Repr

/-- A slot result in flight (R29 to R31). `mask` holds the bits that land. -/
structure Result where
  due : Nat
  issued : Nat
  slot : Slot
  t : Bool
  loc : Loc
  mask : Nat
  val : Late
  deriving DecidableEq, Repr

/-- A transient landing still inside its bypass window (R30). -/
structure Landed where
  at_ : Nat
  issued : Nat
  slot : Slot
  loc : Loc
  mask : Nat
  val : Nat
  deriving DecidableEq, Repr

/-- A scratchpad store that has issued and is not yet in the bytes (R28, R233, R303, R314). -/
structure PStore where
  issued : Nat
  /-- The first bundle whose loads see it. -/
  vis : Nat
  slot : Slot
  bytes : List (Nat × Byte)
  /-- MSTT's roundings, made at the landing (R302): address, width in bytes and rounding. -/
  late : List (Nat × Nat × Rounding)
  fl : Flags
  /-- Addresses whose bytes an engine's write has come after (R71). -/
  dead : List Nat
  deriving DecidableEq, Repr

/-- What a chain reader sees in a cell (R219): a code, or the result `id` whose SR rounding is still open. -/
inductive CVal where
  | code (q : Quire)
  | ref (id : Nat)
  deriving DecidableEq, Repr

/-- A cell's value in flight: a code, or an FP32 rounding of the sum of `acc` and `terms` that takes DPH at the full landing (R220). -/
inductive CRes where
  | code (q : Quire)
  | sum (acc : Option CVal) (terms : List XV) (mode : Nat) (sat fo : Bool) (pos : Nat)
  deriving DecidableEq, Repr

/-- One cell of one result: its number, its tag, its value. -/
structure CellWrite where
  cell : Nat
  f32 : Bool
  val : CRes
  deriving DecidableEq, Repr

/-- The cell results of one syllable (R219), with what its full landing raises. -/
structure CellResult where
  id : Nat
  issued : Nat
  slot : Slot
  chain : Nat
  full : Nat
  chained : Bool
  writes : List CellWrite
  fl : Flags
  qfl : QFlags
  /-- The lowest overflowing cell (R234). -/
  ovf : Option Nat
  /-- The bundle that issued it, for the stop record (R234). -/
  pc : Nat
  deriving DecidableEq, Repr

/-- A cell of the accumulator store (R216), as full readers and as chain readers see it. -/
structure Cell where
  q : Quire
  f32 : Bool
  chain : CVal
  chainF32 : Bool
  deriving DecidableEq, Repr

/-- A cell at task start (R217). -/
def Cell.zero : Cell := ⟨0, false, .code 0, false⟩

/-- The operands of one K-step (R282 to R286). -/
structure KOps where
  fmt : Nat
  quire : Bool
  o : Bool
  sp : Bool
  fi : Bool
  /-- The structure table as 72 bytes, byte 0 least significant. -/
  table : Nat
  a : Nat
  b : Nat
  /-- B4: the A headers; sparse: the index bits. -/
  ax : Nat
  /-- B4: the B headers. -/
  bx : Nat
  deriving DecidableEq, Repr

/-- An MSTEP between issue and its read of the cells (R296). -/
structure MStep where
  issued : Nat
  tile : Nat
  ops : KOps
  pc : Nat
  deriving DecidableEq, Repr

/-- A transposer buffer's configuration (R250). -/
structure TCfg where
  fmt : Nat
  rows : Nat
  cols : Nat
  deriving DecidableEq, Repr

/-- A transposer change in flight (R253): element positions (index in the buffer's 1,024) and codes, or a clear. -/
structure TChange where
  due : Nat
  issued : Nat
  buf : Nat
  clear : Bool
  w : Nat
  es : List (Nat × Nat)
  deriving DecidableEq, Repr

/-- A tensor view, read from a shape register's active copy (R207, R256). -/
structure View where
  fmt : Nat
  global : Bool
  rb : Bool
  ring : Nat
  d : Nat
  planar : Bool
  base : Nat
  pstr : Int
  rank : Nat
  ext : List Nat
  str : List Int
  sb : Int
  deriving DecidableEq, Repr

/-- The stream modes of Table 10.1. -/
inductive SMode where
  | inp | out | fill | drain | cond
  deriving DecidableEq, Repr

/-- An entry of a port's queue (R255, R259). -/
structure Entry where
  id : Nat
  /-- The bundle that reserved it; once it has landed, the bundle in which it did and so entered the engine (R259, R276). -/
  issued : Nat
  data : VReg
  landed : Bool
  /-- The bundle that reserved it, also after it has landed (R89). -/
  born : Nat
  deriving DecidableEq, Repr

/-- A line that a core's stream engine holds: virtual line address, partition, alias group and its 64 bytes (R83). -/
structure SnapLine where
  line : Nat
  part : Nat
  group : Nat
  data : List Byte
  deriving DecidableEq, Repr

/-- A bound stream (R255 to R262). -/
structure Stream where
  mode : SMode
  view : View
  scope : Nat
  acq : Bool
  rel : Bool
  /-- The bundle that bound it. -/
  issued : Nat
  /-- Elements completed: read into entries or slots, or performed in memory. -/
  pos : Nat
  /-- Elements whose writes are on their way; equal to `pos` when none are. -/
  sent : Nat
  queue : List Entry
  /-- Entries popped from an in port, or reserved in an out port, so far. -/
  count : Nat
  /-- Still attached: false once SUNB, TEND or TFAIL has run and only queued work remains. -/
  bound : Bool
  /-- Ring slots committed or freed so far (fill and drain). -/
  slots : Nat
  /-- At most this many slots may still be committed, once the task has ended (R262). -/
  last : Option Nat
  /-- Scratchpad bytes as an acquiring stream must still see them (R71). -/
  shadow : SMap Byte
  /-- Lines read from memory that the window does not retain (R84). -/
  inbox : List SnapLine
  deriving DecidableEq, Repr

/-- A ring (Table 10.2). -/
structure Ring where
  init : Bool
  base : Nat
  n : Nat
  slot : Nat
  prod : Nat
  cons : Nat
  cond : Bool
  h : Nat
  t : Nat
  resv : Nat
  busy : Bool
  /-- The latest GADVTs, newest first: the bundle of each and T after it (R71, R267). -/
  advs : List (Nat × Nat)
  deriving DecidableEq, Repr

/-- A ring at task start (R263). -/
def Ring.zero : Ring := ⟨false, 0, 0, 0, 0, 0, false, 0, 0, 0, false, []⟩

/-- An SBAL of this context that has not completed (R271). -/
structure SBal where
  ring : Nat
  ln : Nat
  /-- The team operation it takes part in has run and only the count is outstanding. -/
  ran : Bool
  failed : Bool
  /-- The bundle that issued it. -/
  issued : Nat
  deriving DecidableEq, Repr

/-- The states of a nest (Table 11.8). -/
inductive NState where
  | queued | running | done | aborted | faulted
  deriving DecidableEq, Repr

/-- One side of a nest (R304). -/
structure NSide where
  rb : Bool
  ring : Nat
  fmt : Nat
  dcode : Nat
  str : List Int
  deriving DecidableEq, Repr

/-- An MGO nest (R304 to R317). -/
structure Nest where
  n : Nat
  state : NState
  cause : Nat
  q : Bool
  o : Bool
  sp : Bool
  z : Bool
  fi : Bool
  table : Nat
  a : NSide
  b : NSide
  base : Nat
  tstr : List Int
  rank : Nat
  ext : List Nat
  issued : Nat
  pc : Nat
  /-- K-steps started and K-steps retired. -/
  started : Nat
  done : Nat
  ha : Nat
  hb : Nat
  freedA : Nat
  freedB : Nat
  /-- The cycle at which the next K-step may start (R312). -/
  nextAt : Nat
  /-- The operands of the K-step in the array. -/
  cur : Option KOps
  deriving DecidableEq, Repr

/-- A copy tag (R325). -/
structure CopyTag where
  busy : Bool
  bytes : Nat
  deriving DecidableEq, Repr

/-- What a landing-queue command asks for (R336 to R357). -/
inductive LOp where
  | put (lnT tgt src len : Nat) (ak : Option Nat) (flag : Option (Nat × Nat))
  | sig (lnT tgt : Nat)
  | aop (ln va op : Nat) (wide : Bool) (val : Word) (ret : Option Nat)
  | acas (ln va : Nat) (wide : Bool) (blk : Nat)
  | acasw (ln va n blk : Nat)
  | aenq (ln va : Nat) (val : Word) (ret : Nat)
  | achase (ln start limit off ret : Nat)
  | ared (ln va fmt : Nat) (val : Word) (cell : Nat)
  | aredFin (ln va fmt mode cell : Nat)
  | cross (acq rel : Bool)
  /-- `bad` marks one that JPA forbids (R129). -/
  | jraise (ln jcb : Nat) (n : Word) (bad : Bool)
  | jpost (ln jcb : Nat) (n : Word) (bad : Bool)
  | nlaunch (ln rec queue : Nat)
  | sealreq (ln : Nat)
  /-- ALIASF: it keeps its place in the command stream and takes no queue entry (R357). -/
  | alias_ (group : Option Nat)
  deriving DecidableEq, Repr

/-- A command in the landing queue (R336 to R338). -/
structure LCmd where
  tag : Nat
  /-- The bundle that issued it. -/
  issued : Nat
  scope : Nat
  /-- It performs a release before it is sent (R338). -/
  rel : Bool
  op : LOp
  /-- The sequence number of its request, once sent (R354). -/
  sent : Option Nat
  /-- Its effect has been applied at its home or target. -/
  applied : Bool
  /-- A fault has been raised under its tag; it is attempted again on resume (R409). -/
  faulted : Bool
  deriving DecidableEq, Repr

/-- A task's part of a rendezvous point (R152, R154). -/
structure RvTask where
  out : Bool
  ag : Nat
  /-- The held-arrival mark: an RVAW has arrived and its bundle still waits. -/
  mark : Bool
  deriving DecidableEq, Repr

/-- The context control registers of Table 5.7. -/
structure Ctl where
  lc : Nat
  ec : Nat
  rrb : Nat
  fstat : Nat
  qstat : Nat
  qctl : Nat
  dph : Nat
  tfloor : Nat
  /-- TFLOOR as TSR sees it in this cycle: without the acquires that have been performed in it (R458). -/
  floorNow : Nat
  lstat : Nat
  rsp : Nat
  repc : Nat
  repStart : Nat
  repEnd : Nat
  nopr : Nat
  jpa : Nat
  retstk : SMap Nat
  deriving DecidableEq, Repr

/-- Control registers at task start (Table 5.7), with the dither phase the launch gives. DEDUCED: log entry 87. -/
def Ctl.start (dph0 : Nat) : Ctl := ⟨0, 0, 0, 0, 0, 0, dph0, 0, 0, 0, 0, 0, 0, 0, 0, 0, []⟩

/-- What a stop record carries (Table 16.3). -/
structure FaultInfo where
  /-- The stop-record slot of the engine (R403). -/
  unit : Nat
  kind : Nat
  cause : Nat
  tag : Nat
  pc : Nat
  va : Nat
  count : Nat
  detail : Nat
  job : Nat
  syl : Nat
  slot : Nat
  /-- The cycle in which it was detected. -/
  cycle : Nat
  deriving DecidableEq, Repr

/-- The state of a context between bundles. -/
inductive CState where
  /-- Issues. -/
  | run
  /-- Its bundle waits at issue (R32). -/
  | held
  /-- It waits for the team to be loaded or restored. -/
  | loading
  /-- Stopped at a pre-emption point (R411). -/
  | hinted
  /-- Stopped there, and all its quiesce markers have returned (R412). -/
  | quiet
  /-- Stopped by a halt (R400). -/
  | stopped
  /-- TEND or TFAIL has issued (R161). -/
  | ended
  deriving DecidableEq, Repr

/-- A tile task resident on a core (R13, R30, R116, R152, R418). -/
structure Ctx where
  core : Nat
  part : Nat
  job : Nat
  team : Nat
  rank : Nat
  size : Nat
  nest : Nat
  translated : Bool
  state : CState
  pc : Nat
  /-- The number of the next bundle (R27). -/
  bn : Nat
  s : SMap Word
  v : SMap VReg
  p : Nat
  k : SMap KMask
  ctl : Ctl
  shapeAct : SMap Word
  shapeShd : SMap Word
  tables : SMap Nat
  results : List Result
  bypass : List Landed
  stores : List PStore
  cellRes : List CellResult
  nextId : Nat
  msteps : List MStep
  /-- The bundle up to which MSTEPs hold the array (R297). -/
  arrayFree : Nat
  tbuf : SMap Byte
  tcfg0 : TCfg
  tcfg1 : TCfg
  tchg : List TChange
  streams : List (Option Stream)
  /-- Streams that the bundle being issued has popped. -/
  pops : List Nat
  rings : SMap Ring
  sbal : List SBal
  nests : List Nest
  /-- DPH advances of retired tile groups not yet applied (R310). -/
  dphAdv : Nat
  copies : SMap CopyTag
  /-- The landing counts with every increment that has been applied. -/
  ln : SMap Nat
  /-- The landing counts as the syllables of this cycle see them: without the increments applied in it (R334, R335). -/
  lnSeen : SMap Nat
  lq : List LCmd
  ltag : Nat
  rv : SMap RvTask
  /-- VAINVs incomplete (R392). -/
  vainv : Nat
  /-- By the scope of an acquire of this context, the module time of the latest release that observations have brought and that pairs with it (R88, R91, R97). -/
  seen : SMap Nat
  /-- By scope, the module time of this context's latest release (R88, R97). -/
  relTime : SMap Nat
  /-- Modules lost among the commands since the last FENCE (R358, R359), ascending. -/
  lost : List Nat
  tfail : Option Nat
  /-- The liveness record a pre-emption point named (R157). -/
  live : Nat
  codeBase : Nat
  codeLen : Nat
  argLen : Nat
  /-- Items written since launch (R419), ascending: granule g as g, scalar r as 4096 + r, vector r as 8192 + r, window w as 12288 + w. -/
  dirty : List Nat
  /-- The target of a transfer that the bundle being issued has made (R137). -/
  jump : Option Nat
  /-- A fault due at the next bundle boundary, SW_TRAP, QUIRE_OV or LIVE_RECORD: its cause, its detail and the address it reports (R160, R161, R234). -/
  pend : Option (Nat × Nat × Nat)
  /-- L3 of the bundle being issued (R40). -/
  l3 : Bool
  /-- Counts the free choices this context has met; it feeds `Config.race`. -/
  free : Nat
  /-- The address of the last bundle issued: of the NOPN, while its empty bundles issue (R149, R460). -/
  lastPc : Nat
  deriving DecidableEq, Repr

/-- The trace unit of a core (Table 19.1). -/
structure Trace where
  ctl : Nat
  pcm : Nat
  tdst : Nat
  /-- TDST as it stood when the dump under way was accepted (R463). -/
  dumpAt : Nat
  armed : Bool
  fired : Bool
  frozen : Bool
  dumping : Bool
  wr : Nat
  wrapped : Bool
  lost : Nat
  /-- Records were dropped since the last one that entered the queue (R461). -/
  drop : Bool
  /-- Records still to be written before the freeze, once the trigger record is written (R462). -/
  left : Option Nat
  /-- The cycle in which the bundle at issue began to stall (R461). -/
  stallAt : Option Nat
  queue : List (List Byte)
  buf : SMap Byte
  deriving DecidableEq, Repr

/-- One core (R2, R67, R72, R83). -/
structure Core where
  mem : SMap Byte
  cells : SMap Cell
  window : List SnapLine
  /-- The distinct lines that the phase has needed so far, by virtual line and alias group (R84). -/
  phase : List (Nat × Nat)
  /-- The phase has needed an 8,193rd line (R84). -/
  full : Bool
  ctx : Option Ctx
  /-- The sequence-number counter of the landing engine (R354). -/
  seq : Nat
  trace : Trace
  deriving DecidableEq, Repr

end Sys2Proof.Machine
end

