-- ==== Sys2Proof/Machine/Regs.lean ====
section
/-!
DEFINITION. Registers as readers see them (R13, R27 to R31, R142, R143), stream ports as operands (R258, R259), the results in flight and their landing.
-/

namespace Sys2Proof.Machine

/-! ### Bits -/

/-- Replaces the bits of `old` under `mask` by those of `new`. -/
def merge (old new mask : Nat) : Nat := ((old ||| mask) ^^^ mask) ||| (new &&& mask)

/-- All ones of `n` bits. -/
def ones (n : Nat) : Nat := 2 ^ n - 1

/-- A mask of `n` elements of `w` bits, all ones where `p` holds of the element's index. -/
def elemMask (w : Nat) (p : Nat → Bool) (n : Nat) : Nat :=
  ofElems w ((List.range n).map fun i => if p i then ones w else 0)

/-! ### The rotating regions -/

/-- The formula of R142. -/
def rotate (base size rrb n : Nat) : Nat :=
  if base ≤ n ∧ n < base + size then base + (n - base + rrb) % size else n

/-- The physical scalar of a logical number (Table 5.2). -/
def physS (rrb n : Nat) : Nat := rotate 104 24 rrb (rotate 40 24 rrb n)

/-- The physical vector register of a logical number (Table 5.2). -/
def physV (rrb n : Nat) : Nat := rotate 96 32 rrb (rotate 32 32 rrb n)

/-- The physical predicate of a logical number (Table 5.2). -/
def physP (rrb n : Nat) : Nat := rotate 32 64 rrb n

/-- The number of elements of a view: d × EXT0 × … × EXT(RANK − 1) (R256). -/
def View.count (v : View) : Nat := v.d * (v.ext.take v.rank).foldl (· * ·) 1

/-- The stream attached to a physical vector register (R255). -/
def portOf (r : Nat) : Option Nat :=
  if r < 4 then some r else if 64 ≤ r ∧ r < 68 then some (r - 60) else none

/-- Port entries that a stream's elements fill (R256). -/
def Stream.entries (st : Stream) : Nat := (st.view.count * fmtWidth st.view.fmt + 4095) / 4096

/-- A stream attached to its vector register. -/
def Stream.isPort (st : Stream) : Bool := st.bound && (st.mode == .inp || st.mode == .out || st.mode == .cond)

namespace Ctx

/-- A location's file value; 0 for the locations that no reader names. -/
def file (x : Ctx) : Loc → Nat
  | .s r => (SMap.get 0 x.s r).toNat
  | .v r => (SMap.get 0 x.v r).toNat
  | .k r => (SMap.get 0 x.k r).toNat
  | .p => x.p
  | .table n => SMap.get 0 x.tables n
  | _ => 0

/-- R30: the file's value under the transient landings still in their window. -/
def see (x : Ctx) (l : Loc) : Nat :=
  x.bypass.foldl (fun v e => if e.loc = l ∧ e.at_ ≤ x.bn ∧ x.bn ≤ e.at_ + 2 then merge v e.val e.mask else v) (x.file l)

/-- A scalar operand, by logical number (R13, R142). -/
def rs (x : Ctx) (n : BitVec 7) : Word :=
  let r := physS x.ctl.rrb n.toNat
  if r = 0 ∨ r = 64 then 0 else BitVec.ofNat 64 (x.see (.s r))

/-- A predicate operand, by logical number (R13, R142). -/
def rp (x : Ctx) (n : BitVec 7) : Bool :=
  let r := physP x.ctl.rrb n.toNat
  r == 0 || (x.see .p).testBit r

/-- A lane mask operand (R13). -/
def rk (x : Ctx) (n : Nat) : KMask := if n = 0 then BitVec.allOnes 128 else BitVec.ofNat 128 (x.see (.k n))

/-- A structure table as it stands at issue (R211). -/
def rtab (x : Ctx) (n : Nat) : Nat := x.see (.table n)

/-- R19: the guard lets the syllable execute. -/
def guard (x : Ctx) (h : Hdr) : Bool := x.rp h.g != h.n

/-- Stream `j`, if it is bound or still performs writes. -/
def stream (x : Ctx) (j : Nat) : Option Stream := x.streams[j]?.join

/-- Replaces stream `j`. -/
def setStream (x : Ctx) (j : Nat) (st : Option Stream) : Ctx := { x with streams := x.streams.set j st }

/-- The stream whose port a vector register is, by logical number. -/
def port (x : Ctx) (n : BitVec 7) : Option (Nat × Stream) :=
  (portOf (physV x.ctl.rrb n.toNat)).bind fun j => (x.stream j).bind fun st => if st.isPort then some (j, st) else none

/-- A vector operand, by logical number: the head entry of an in or conditional port, else the register (R258). -/
def rvec (x : Ctx) (n : BitVec 7) : VReg :=
  match x.port n with
  | some (_, st) => (st.queue.head?.map Entry.data).getD 0
  | none => BitVec.ofNat 4096 (x.see (.v (physV x.ctl.rrb n.toNat)))

end Ctx

/-! ### What a syllable does at issue -/

/-- The outcome of a syllable at issue: a precise fault with its cause (Table 16.4) and detail, a stall, or its effect. -/
inductive Act (α : Type) where
  | fault (cause detail : Nat)
  | wait
  | ok (a : α)
  deriving DecidableEq, Repr

namespace Act

/-- Goes on where the first part neither faults nor waits; a wait gives way to a later fault, which is found before the stall (R32). -/
def bind {α β : Type} (a : Act α) (f : α → Act β) : Act β :=
  match a with
  | .fault c d => .fault c d
  | .wait => .wait
  | .ok x => f x

/-- Faults with cause `c` unless the check holds. -/
def check {α : Type} (ok : Bool) (c : Nat) (k : Act α) : Act α := if ok then k else .fault c 0

/-- Waits unless the condition holds. -/
def await {α : Type} (ok : Bool) (k : Act α) : Act α := if ok then k else .wait

end Act

/-- The cause codes of Table 16.4. -/
inductive Cause where
  | illegal | misalign | bounds | shapeField | accBusy | retFull | retEmpty | repNest
  | rvCount | rvAgain | ccrRange | algebra | bankDepth | streamBusy | streamEnd | streamMisuse
  | ringConfig | ringMisuse | ringBusy | arrayBusy | arrayRate | accRange | matrixFormat | mgoFull
  | mgoTag | copyBusy | copyShape | landFull | landOperand | vainvFull | vainvOperand
  | swTrap | quireOv
  | ringRole | ringMismatch | ringWindow | mgoField | copyRt | landAbsent | crucibleRange | atomicTarget
  | prot | transMiss | ptFormat | addrNoncanonical | paReserved | remoteUnmapped | berthGone | convertBusy
  | queueRange | jcbLate | jcbMulti | jcbDone | jcbOver | liveRecord | dispatchWrite | riserExhausted | holdExhausted
  | uncorrectable | peerLost | groupConfig | sealFailed | hostRollback
  deriving DecidableEq, Repr

/-- The codes of Table 16.4. -/
def Cause.code : Cause → Nat
  | .illegal => 1 | .misalign => 2 | .bounds => 3 | .shapeField => 4 | .accBusy => 5 | .retFull => 6 | .retEmpty => 7
  | .repNest => 8 | .rvCount => 9 | .rvAgain => 10 | .ccrRange => 11 | .algebra => 12 | .bankDepth => 13
  | .streamBusy => 14 | .streamEnd => 15 | .streamMisuse => 16 | .ringConfig => 17 | .ringMisuse => 18 | .ringBusy => 19
  | .arrayBusy => 20 | .arrayRate => 21 | .accRange => 22 | .matrixFormat => 23 | .mgoFull => 24 | .mgoTag => 25
  | .copyBusy => 26 | .copyShape => 27 | .landFull => 28 | .landOperand => 29 | .vainvFull => 30 | .vainvOperand => 31
  | .swTrap => 0x20 | .quireOv => 0x21
  | .ringRole => 0x30 | .ringMismatch => 0x31 | .ringWindow => 0x32 | .mgoField => 0x33 | .copyRt => 0x34
  | .landAbsent => 0x35 | .crucibleRange => 0x36 | .atomicTarget => 0x37
  | .prot => 0x38 | .transMiss => 0x39 | .ptFormat => 0x3A | .addrNoncanonical => 0x3B | .paReserved => 0x3C
  | .remoteUnmapped => 0x3D | .berthGone => 0x3E | .convertBusy => 0x3F
  | .queueRange => 0x40 | .jcbLate => 0x41 | .jcbMulti => 0x42 | .jcbDone => 0x43 | .jcbOver => 0x44 | .liveRecord => 0x45
  | .dispatchWrite => 0x46 | .riserExhausted => 0x47 | .holdExhausted => 0x48
  | .uncorrectable => 0x80 | .peerLost => 0x81 | .groupConfig => 0x82 | .sealFailed => 0x83 | .hostRollback => 0x84

/-- Faults with a named cause unless the check holds. -/
def Act.need {α : Type} (ok : Bool) (c : Cause) (k : Act α) : Act α := Act.check ok c.code k

namespace Ctx

/-- R258: reading vector `n` at issue. An in port whose entries are all popped is STREAM_END, an out port STREAM_MISUSE; an empty queue waits. Marks the port to be popped. -/
def readPort (x : Ctx) (n : BitVec 7) : Act Ctx :=
  match x.port n with
  | none => .ok x
  | some (j, st) =>
    if st.mode = .out then .fault Cause.streamMisuse.code 0
    else if st.mode = .inp ∧ st.entries ≤ st.count then .fault Cause.streamEnd.code 0
    else if st.queue.isEmpty then .wait
    else .ok { x with pops := if x.pops.contains j then x.pops else j :: x.pops }

/-- R258 for every vector operand of a syllable; a fault of any comes before the wait of another. DEDUCED: log entry 31. -/
def readPorts (x : Ctx) : List (BitVec 7) → Act Ctx
  | [] => .ok x
  | n :: ns =>
    match x.readPort n with
    | .fault c d => .fault c d
    | .wait => match readPorts x ns with
      | .fault c d => .fault c d
      | _ => .wait
    | .ok y => readPorts y ns

/-- R259: reserves the next entry of an out port for the result of vector `n`; answers the landing place. An in or conditional port is STREAM_MISUSE (R258). -/
def writePort (x : Ctx) (n : BitVec 7) (t : Bool) : Act (Ctx × Loc) :=
  match x.port n with
  | none => .ok (x, .v (physV x.ctl.rrb n.toNat))
  | some (j, st) =>
    if st.mode ≠ .out ∨ t then .fault Cause.streamMisuse.code 0
    else if st.entries ≤ st.count then .fault Cause.streamEnd.code 0
    else if 4 ≤ st.queue.length then .wait
    else
      let e : Entry := ⟨st.count, x.bn, 0, false, x.bn⟩
      .ok (x.setStream j (some { st with queue := st.queue ++ [e], count := st.count + 1 }), .port j st.count)

/-- Puts one result in flight, `l` bundles from landing. -/
def send (x : Ctx) (h : Hdr) (l : Nat) (loc : Loc) (mask : Nat) (val : Late) : Ctx :=
  { x with results := x.results ++ [⟨x.bn + l, x.bn, h.slot, h.t, loc, mask, val⟩] }

/-- A scalar result (R143, R167). -/
def sendS (x : Ctx) (h : Hdr) (l : Nat) (d : BitVec 7) (val : Late) : Ctx :=
  x.send h l (.s (physS x.ctl.rrb d.toNat)) (ones 64) val

/-- A scalar result whose value is known. -/
def putS (x : Ctx) (h : Hdr) (l : Nat) (d : BitVec 7) (w : Word) : Ctx := x.sendS h l d (.now w.toNat 0)

/-- A predicate result (R151). -/
def putP (x : Ctx) (h : Hdr) (l : Nat) (d : BitVec 7) (b : Bool) (fl : Flags := 0) : Ctx :=
  let r := physP x.ctl.rrb d.toNat
  x.send h l .p (2 ^ r) (.now (if b then 2 ^ r else 0) fl)

/-- A lane-mask result on the bits of `mask` (R186). -/
def putK (x : Ctx) (h : Hdr) (l : Nat) (d mask val : Nat) (fl : Flags := 0) : Ctx := x.send h l (.k d) mask (.now val fl)

/-! ### Landing -/

/-- One node of the tree of R66. -/
def node (fmt mode : Nat) (sat fo : Bool) (dph pos : Nat) : Option Nat → Option Nat → Option Nat × Flags
  | some a, some b =>
    let (x, f) := sumV (mode == 3) [decodeV fmt a, decodeV fmt b]
    let (c, g) := encodeV fmt x mode sat fo (dither dph pos)
    (some c, f ||| g ||| snanFlag fmt a ||| snanFlag fmt b)
  | some a, none => (some a, 0)
  | none, b => (b, 0)

/-- One level of the tree: `step` is the span of a node below, `pos` the index of the first leaf. -/
def level (fmt mode : Nat) (sat fo : Bool) (dph step : Nat) : Nat → List (Option Nat) → List (Option Nat) × Flags
  | pos, a :: b :: rest =>
    let (c, f) := node fmt mode sat fo dph (pos % 32) a b
    let (cs, g) := level fmt mode sat fo dph step (pos + 2 * step) rest
    (c :: cs, f ||| g)
  | _, l => (l, 0)

/-- The levels of the tree of R66, at most `fuel` of them. -/
def tree (fmt mode : Nat) (sat fo : Bool) (dph : Nat) : Nat → Nat → List (Option Nat) → Nat × Flags
  | fuel + 1, step, a :: b :: rest =>
    let (cs, f) := level fmt mode sat fo dph step 0 (a :: b :: rest)
    let (v, g) := tree fmt mode sat fo dph fuel (2 * step) cs
    (v, f ||| g)
  | _, _, l => ((l.headD none).getD 0, 0)

end Ctx

/-- The rounding under a dither phase (R51, R65). -/
def Rounding.eval (dph : Nat) (r : Rounding) : Nat × Flags :=
  encodeV r.fmt r.x r.mode r.sat r.fo (dither dph (r.pos % 32))

/-- Rounded elements put at their indices. -/
def roundAll (dph w : Nat) : List (Nat × Rounding) → Nat × Flags
  | [] => (0, 0)
  | (i, r) :: rs =>
    let (c, f) := r.eval dph
    let (v, g) := roundAll dph w rs
    (v ||| (c % 2 ^ w) <<< (w * i), f ||| g)

/-- The value and the flags with which a result lands under the dither phase of that bundle (R61, R65). -/
def Late.eval (dph : Nat) : Late → Nat × Flags
  | .now v f => (v, f)
  | .rnd w es f => let (v, g) := roundAll dph w es; (v, f ||| g)
  | .sx r f => let (v, g) := r.eval dph; (modPow 64 (sext (fmtWidth r.fmt) v), f ||| g)
  | .tree fmt mode sat fo leaves f =>
    let (v, g) := Ctx.tree fmt mode sat fo dph 10 1 leaves
    (v, f ||| g)

/-- R163: a CRW's value as it takes effect. -/
def Ctl.write (c : Ctl) (n v : Nat) : Ctl :=
  match n with
  | 0x00 => { c with lc := v }
  | 0x01 => { c with ec := v }
  | 0x02 => { c with rrb := v }
  | 0x03 => { c with fstat := v }
  | 0x04 => { c with qstat := v }
  | 0x05 => { c with qctl := v }
  | 0x06 => { c with dph := v }
  | 0x07 => { c with tfloor := max c.tfloor v, floorNow := max c.floorNow v }
  | 0x08 => { c with lstat := v }
  | 0x09 => { c with rsp := v }
  | 0x0A => { c with repc := v }
  | 0x0B => { c with repStart := bits v 22 0, repEnd := bits v 55 32 }
  | _ => if 0x10 ≤ n ∧ n ≤ 0x1F then { c with retstk := SMap.put 0 c.retstk (n - 0x10) v } else c

/-- A control register as CRR reads it (Table 5.7). -/
def Ctl.read (c : Ctl) (n : Nat) : Nat :=
  match n with
  | 0x00 => c.lc
  | 0x01 => c.ec
  | 0x02 => c.rrb
  | 0x03 => c.fstat
  | 0x04 => c.qstat
  | 0x05 => c.qctl
  | 0x06 => c.dph
  | 0x07 => c.tfloor
  | 0x08 => c.lstat
  | 0x09 => c.rsp
  | 0x0A => c.repc
  | 0x0B => c.repStart + c.repEnd * 2 ^ 32
  | 0x0C => c.nopr
  | 0x0D => c.jpa
  | _ => if 0x10 ≤ n ∧ n ≤ 0x1F then SMap.get 0 c.retstk (n - 0x10) else 0

/-- Inserts a number into an ascending list without repeats. -/
def insertNat (n : Nat) : List Nat → List Nat
  | [] => [n]
  | a :: l => if n < a then n :: a :: l else if n = a then a :: l else a :: insertNat n l

namespace Ctx

/-- Notes an item as written (R419). -/
def mark (x : Ctx) (n : Nat) : Ctx := { x with dirty := insertNat n x.dirty }

/-- Writes the bits under `mask` of a location's file value. -/
def setFile (x : Ctx) (l : Loc) (val mask : Nat) : Ctx :=
  match l with
  | .s r => if r = 0 ∨ r = 64 then x else
      { x.mark (4096 + r) with s := SMap.put 0 x.s r (BitVec.ofNat 64 (merge (x.file l) val mask)) }
  | .v r => { x.mark (8192 + r) with v := SMap.put 0 x.v r (BitVec.ofNat 4096 (merge (x.file l) val mask)) }
  | .k r => if r = 0 then x else { x with k := SMap.put 0 x.k r (BitVec.ofNat 128 (merge (x.file l) val mask)) }
  | .p => { x with p := merge x.p val (mask / 2 * 2) }
  | .port j id => match x.stream j with
    | some st => x.setStream j (some { st with queue := st.queue.map fun e =>
        if e.id = id then { e with data := BitVec.ofNat 4096 (merge 0 val mask), landed := true, issued := x.bn } else e })
    | none => x
  | .ctl n => { x with ctl := x.ctl.write n val }
  | .dph => { x with ctl := { x.ctl with dph := val } }
  | .shape id fld => { x with shapeShd := SMap.put 0 x.shapeShd (16 * id + fld) (BitVec.ofNat 64 val) }
  | .table n => { x with tables := SMap.put 0 x.tables n (merge (x.file l) val mask) }

/-- A later landing takes its bits from the transient landings before it (R30). -/
def supersede (l : Loc) (mask : Nat) (es : List Landed) : List Landed :=
  es.map fun e => if e.loc = l then { e with mask := (e.mask ||| mask) ^^^ mask } else e

/-- True for the places that ignore writes: s0, s64 and k0 (R13). -/
def discards : Loc → Bool
  | .s r => r == 0 || r == 64
  | .k r => r == 0
  | _ => false

/-- The landing of one result (R29, R61): into the file, or on the bypass alone when it is transient. -/
def land (x : Ctx) (r : Result) : Ctx :=
  let (val, fl) := r.val.eval x.ctl.dph
  let y := { x with ctl := { x.ctl with fstat := x.ctl.fstat ||| fl } }
  if discards r.loc then y
  else
    let z := { y with bypass := supersede r.loc r.mask y.bypass }
    if r.t then { z with bypass := z.bypass ++ [⟨x.bn, r.issued, r.slot, r.loc, r.mask, val⟩] }
    else z.setFile r.loc val r.mask

end Ctx

/-- The slot's number in the order S0 … B (Table 16.3). -/
def slotNo : Slot → Nat
  | .s0 => 0 | .s1 => 1 | .v0 => 2 | .v1 => 3 | .q => 4 | .x => 5 | .t => 6 | .m => 7 | .d => 8 | .b => 9

/-- Control registers, DPH, shape fields and tables land before the roundings and flags of their bundle (R163, R184). -/
def Loc.early : Loc → Bool
  | .ctl _ => true
  | .dph => true
  | .shape _ _ => true
  | .table _ => true
  | _ => false

/-- The order of landings (R31): bundle, then slot, then issue. -/
def Result.before (a b : Result) : Bool :=
  if a.due ≠ b.due then decide (a.due < b.due)
  else if a.loc.early ≠ b.loc.early then a.loc.early
  else if slotNo a.slot ≠ slotNo b.slot then decide (slotNo a.slot < slotNo b.slot)
  else decide (a.issued < b.issued)

/-- The first of a list in an order. -/
def firstBy {α : Type} (before : α → α → Bool) : List α → Option α
  | [] => none
  | a :: l => match firstBy before l with
    | none => some a
    | some b => if before b a then some b else some a

/-- Drops the first entry equal to `a`. -/
def dropOne {α : Type} [DecidableEq α] (a : α) : List α → List α
  | [] => []
  | b :: l => if b = a then l else b :: dropOne a l

namespace Ctx

/-- The next due result, in landing order. -/
def nextResult (x : Ctx) : Option Result := firstBy Result.before (x.results.filter fun r => r.due ≤ x.bn)

/-- RESULT_LANDING: the next due result lands. An early one goes before the pending DPH advances of retired tile groups, and the others after them (R163, R310). DEDUCED: log entry 19. -/
def landNext (x : Ctx) : Ctx :=
  match x.nextResult with
  | none => { x with ctl := { x.ctl with dph := (x.ctl.dph + x.dphAdv) % 32 }, dphAdv := 0 }
  | some r =>
    let y := { x with results := dropOne r x.results }
    if r.loc.early then y.land r
    else { y with ctl := { y.ctl with dph := (y.ctl.dph + y.dphAdv) % 32 }, dphAdv := 0 }.land r

/-- Drops the transient landings whose window has passed. -/
def expire (x : Ctx) : Ctx := { x with bypass := x.bypass.filter fun e => x.bn ≤ e.at_ + 2 }

end Ctx

end Sys2Proof.Machine
end

