-- ==== Sys2Proof/Machine/Flags.lean ====
section
/-!
DEFINITION. Conditions and the scalar and element operations that every slot shares: Tables 6.3 and 6.5, R169, R170, R178 to R181, and the flags each raises (Table 2.7).
-/

namespace Sys2Proof.Machine

/-- The integer conditions of Table 6.3 on two codes of `w` bits. -/
def intCond (cond w a b : Nat) : Bool :=
  let sa := sext w a
  let sb := sext w b
  let ua := a % 2 ^ w
  let ub := b % 2 ^ w
  match cond with
  | 0 => ua == ub
  | 1 => ua != ub
  | 2 => decide (sa < sb)
  | 3 => decide (sa ≤ sb)
  | 4 => decide (sb < sa)
  | 5 => decide (sb ≤ sa)
  | 6 => decide (ua < ub)
  | 7 => decide (ua ≤ ub)
  | 8 => decide (ub < ua)
  | _ => decide (ub ≤ ua)

/-- The conditions of Table 6.5 on two decoded operands. -/
def floatCond (cond : Nat) (x y : XV) : Bool :=
  let un := x.bad || y.bad
  let c := cmpV x y
  match cond with
  | 0 => !un && c == 0
  | 1 => un || c != 0
  | 2 => !un && decide (c < 0)
  | 3 => !un && decide (c ≤ 0)
  | 4 => !un && decide (0 < c)
  | 5 => !un && decide (0 ≤ c)
  | 6 => un
  | _ => !un

/-- R170: signed division. -/
def divS (a b : Word) : Word := if b = 0 then BitVec.allOnes 64 else a.sdiv b

/-- R170: unsigned division. -/
def divU (a b : Word) : Word := if b = 0 then BitVec.allOnes 64 else a.udiv b

/-- R170: the remainder with the dividend's sign. -/
def remS (a b : Word) : Word := if b = 0 then a else a.srem b

/-- R170: the unsigned remainder. -/
def remU (a b : Word) : Word := if b = 0 then a else a.umod b

/-- R169: the high 64 bits of the signed product. -/
def mulHS (a b : Word) : Word := BitVec.ofInt 64 ((a.toInt * b.toInt) / (2 ^ 64 : Nat))

/-- R169: the high 64 bits of the unsigned product. -/
def mulHU (a b : Word) : Word := BitVec.ofNat 64 (a.toNat * b.toNat / 2 ^ 64)

/-- The number of set bits among the low `n`. -/
def popCount (v : Nat) : Nat → Nat
  | 0 => 0
  | n + 1 => popCount v n + (if v.testBit n then 1 else 0)

/-- R169: leading zero bits of a 64-bit value. -/
def clz (a : Word) : Nat := if a = 0 then 64 else 63 - a.toNat.log2

/-- A code of `w` bits read as its format reads integers: signed for I, unsigned for N. -/
def intOf (fmt w c : Nat) : Int := if fmt ≤ 8 then sext w c else (c % 2 ^ w : Nat)

/-- FADD to FSQRT and their lane forms (R178, R193): operations of one rounding. -/
inductive FpOp where
  | add | sub | mul | fma | div | sqrt
  deriving DecidableEq, Repr

/-- The exact result of an operation and the flags its operands raise (R46, R47, R178). -/
def FpOp.exact (op : FpOp) (fmt mode : Nat) (fi : Bool) (a b c : Nat) : XV × Flags :=
  let x := decodeF fi fmt a
  let y := decodeF fi fmt b
  let rdn := mode == 3
  match op with
  | .add => let (v, f) := sumV rdn [x, y]; (v, f ||| snanFlag fmt a ||| snanFlag fmt b)
  | .sub => let (v, f) := sumV rdn [x, y.neg]; (v, f ||| snanFlag fmt a ||| snanFlag fmt b)
  | .mul => let (v, f) := mulV x y; (v, f ||| snanFlag fmt a ||| snanFlag fmt b)
  | .fma =>
    let (p, f) := mulV x y
    let (v, g) := sumV rdn [p, decodeF fi fmt c]
    (v, f ||| g ||| snanFlag fmt a ||| snanFlag fmt b ||| snanFlag fmt c)
  | .div => let (v, f) := divV x y; (v, f ||| snanFlag fmt a ||| snanFlag fmt b)
  | .sqrt => let (v, f) := sqrtV x; (v, f ||| snanFlag fmt a)

/-- R178: a finite non-zero value over zero saturates to the largest finite value and sets NX when S = 1; `encode` gives both. The rounding of an operation, with the flags of its operands. -/
def fpRound (op : FpOp) (fmt mode : Nat) (sat fi fo : Bool) (pos a b c : Nat) : Rounding × Flags :=
  let (v, f) := op.exact fmt mode fi a b c
  (⟨fmt, v, mode, sat, fo, pos⟩, f)

/-- An IEEE code with its subnormals flushed under FI (R50, R179). DEDUCED: log entry 27. -/
def flushCode (fi : Bool) (fmt c : Nat) : Nat :=
  match fmtOf fmt with
  | some (.ieee e m _, w) =>
    let c := c % 2 ^ w
    if fi && decide (bits c (e + m - 1) m = 0) then (if c.testBit (e + m) then 2 ^ (e + m) else 0) else c
  | some (_, w) => c % 2 ^ w
  | none => c

/-- The canonical NaN of a format (Table 2.2). -/
def nanCode (fmt : Nat) : Nat :=
  match fmtOf fmt with
  | some (k, _) => ((fdest k).map FDest.nan).getD 0
  | none => 0

/-- R179: the smaller (`mx` false) or larger of two codes, never rounded. -/
def fpMinMax (mx fi : Bool) (fmt a0 b0 : Nat) : Nat × Flags :=
  let a := flushCode fi fmt a0
  let b := flushCode fi fmt b0
  let x := decodeV fmt a
  let y := decodeV fmt b
  let fl := snanFlag fmt a ||| snanFlag fmt b
  if x.bad && y.bad then (nanCode fmt, fl)
  else if x.bad then (b, fl)
  else if y.bad then (a, fl)
  else
    let c := cmpV x y
    let aLess := if c = 0 then x.sign && !y.sign else decide (c < 0)
    let bLess := if c = 0 then y.sign && !x.sign else decide (0 < c)
    (if mx then (if aLess then b else a) else (if bLess then b else a), fl)

/-- R194, R213: the sign bit cleared or inverted; a NaN becomes canonical, and a signalling one sets IV. -/
def fpSign (abs fi : Bool) (fmt c0 : Nat) : Nat × Flags :=
  let c := flushCode fi fmt c0
  let w := fmtWidth fmt
  if (decodeV fmt c).bad then (nanCode fmt, snanFlag fmt c)
  else if abs then (c % 2 ^ (w - 1), 0)
  else (c ^^^ 2 ^ (w - 1), 0)

/-- R213: negation of a code: the sign bit for IEEE formats, two's complement for taper and integer formats; a NaR result sets NR (R57). DEDUCED: log entry 27. -/
def negCode (fi : Bool) (fmt c : Nat) : Nat × Flags :=
  if isIeee fmt then fpSign false fi fmt c
  else let w := fmtWidth fmt; ((2 ^ w - c % 2 ^ w) % 2 ^ w, if isTaper fmt && c % 2 ^ w == 2 ^ (w - 1) then fNR else 0)

/-- R181, R240: the conversion of one element. -/
def convert (src dst mode : Nat) (sat fi fo : Bool) (pos c : Nat) : Rounding × Flags :=
  (⟨dst, decodeF fi src c, mode, sat, fo, pos⟩, snanFlag src c)

end Sys2Proof.Machine
end

