-- ==== Sys2Proof/Machine/Scratch.lean ====
section
/-!
DEFINITION. The core's own scratchpad under the S, V, Q and M slots (R28, R67, R176, R177, R202 to R204, R233, R303) and under its engines (R71), and the bundle fetch (R14).
-/

namespace Sys2Proof.Machine

/-- The first byte address past the scratchpad (R67). -/
def spadEnd : Nat := 0x800000

/-- A range inside the scratchpad. -/
def inSpad (a n : Nat) : Bool := decide (a + n ≤ spadEnd)

/-- The last value that pending bytes give address `a`. -/
def lastByte (a : Nat) : List (Nat × Byte) → Option Byte
  | [] => none
  | (b, x) :: l => match lastByte a l with
    | some y => some y
    | none => if b = a then some x else none

namespace PStore

/-- A store of the S or V slots, or of the D slot's SPUSHC, VAINV and FENCE (R269, R358), which fetches see from its issue + 3 (R14). -/
def isSlot (p : PStore) : Bool := slotNo p.slot < 4 || p.slot == .d

/-- A store's bytes, MSTT's under a dither phase, but for those that an engine's write has come after. -/
def all (dph : Nat) (p : PStore) : List (Nat × Byte) :=
  (p.bytes ++ p.late.flatMap fun (a, w, r) =>
    let bs := bytesOf (r.eval dph).1 w
    (List.range w).map fun i => (a + i, bs.getD i 0)).filter fun e => !p.dead.contains e.1

/-- The addresses a store covers. -/
def covers (p : PStore) (a : Nat) : Bool :=
  !p.dead.contains a && (p.bytes.any (fun e => e.1 == a) || p.late.any fun (b, w, _) => decide (b ≤ a ∧ a < b + w))

/-- The bundle at which the store reaches memory (R14, R233, R303). -/
def landsAt (p : PStore) : Nat := if p.isSlot then p.issued + 3 else p.vis

/-- The 8-byte word at `w` no longer depends on the dither phase of the store's landing (R302). DEDUCED: log entry 90. -/
def fixed (p : PStore) (w : Nat) : Bool := p.late.all fun (a, n, r) =>
  a / 8 != w && (a + n - 1) / 8 != w || r.mode != 5 || encodeV r.fmt r.x r.mode r.sat r.fo 0 == encodeV r.fmt r.x r.mode r.sat r.fo 31

end PStore

namespace Ctx

/-- The newest visible pending byte at `a`, for a slot load that issues now (R28). -/
def pendingByte (x : Ctx) (a : Nat) : Option Byte :=
  x.stores.foldl (fun r p => if p.isSlot && decide (p.vis ≤ x.bn) then (lastByte a (p.all 0)).or r else r) none

/-- A byte as a slot load that issues now sees it, where no Q- or M-slot write is still on its way (R28, R177). -/
def loadByte (x : Ctx) (mem : SMap Byte) (a : Nat) : Byte := (x.pendingByte a).getD (SMap.get 0 mem a)

/-- True where a QST, MSTT or MSTAT still has to reach address `a`. -/
def inFlight (x : Ctx) (a : Nat) : Bool := x.stores.any fun p => !p.isSlot && p.covers a

/-- The free choice of whether the 8-byte word of address `a` is seen after the `i`-th pending store (R71). -/
def after (x : Ctx) (i a : Nat) : Bool := Config.race x.core x.free (a / 8 + 2 ^ 20 * i)

/-- A byte of the pending stores, for a reader that is ordered after those with `see p = some true`, before those with `some false`, and sees each word of any other before or after it; the store that lands last prevails (R71). A word of MSTT that the dither phase of its landing still decides is seen before it where no order says otherwise; where one does, the reader waits (`undecided`). DESIGN CHOICE: log entry 12. DEDUCED: log entry 90. -/
def seenByte (x : Ctx) (see : PStore → Option Bool) (a : Nat) : Option Byte :=
  (x.stores.zipIdx.foldl (fun (r : Option (Nat × Byte)) (p, i) =>
    if p.covers a && (see p).getD (p.fixed (a / 8) && x.after i a) && r.all (fun e => decide (e.1 ≤ p.landsAt)) then
      (lastByte a (p.all x.ctl.dph)).map fun b => (p.landsAt, b)
    else r) none).map Prod.snd

/-- One of the `n` bytes from `a` on has no value yet for a reader that must see it: an MSTT issued before it rounds them by the dither phase of its landing (R71, R302). DEDUCED: log entry 90. -/
def undecided (x : Ctx) (see : PStore → Option Bool) (a n : Nat) : Bool :=
  x.stores.any fun p => see p == some true && p.late.any fun (b, w, r) =>
    r.mode == 5 && decide (b < a + n ∧ a < b + w) && encodeV r.fmt r.x r.mode r.sat r.fo 0 != encodeV r.fmt r.x r.mode r.sat r.fo 31

/-- A byte as a slot load sees it: under a QST or MSTT in flight, each 8-byte word is seen either before or after it (R233, R303). A word of MSTT that the dither phase of its landing still decides is seen before it. DEDUCED: log entry 90. DESIGN CHOICE: log entry 12. -/
def raceByte (x : Ctx) (mem : SMap Byte) (a : Nat) : Byte :=
  if x.inFlight a then (x.seenByte (fun p => if p.isSlot || !p.fixed (a / 8) then some false else none) a).getD (x.loadByte mem a)
  else x.loadByte mem a

/-- The bytes of a slot load that issues now. DESIGN CHOICE: log entry 12. -/
def load (x : Ctx) (mem : SMap Byte) (a n : Nat) : List Byte := (List.range n).map fun i => x.raceByte mem (a + i)

/-- Counts a free choice when a load meets bytes on their way. -/
def tick (x : Ctx) (a n : Nat) : Ctx :=
  if (List.range n).any fun i => x.inFlight (a + i) then { x with free := x.free + 1 } else x

/-- Issues a store of the S or V slots, visible to loads after `vis` bundles (R28, R204). -/
def store (x : Ctx) (h : Hdr) (vis : Nat) (bytes : List (Nat × Byte)) : Ctx :=
  { x with stores := x.stores ++ [⟨x.bn, x.bn + vis, h.slot, bytes, [], 0, []⟩] }

/-- Notes the 4 KiB granules of a byte list as written (R419). -/
def markBytes (x : Ctx) (bs : List (Nat × Byte)) : Ctx :=
  { x with dirty := bs.foldl (fun d e => if d.contains (e.1 / 4096) then d else insertNat (e.1 / 4096) d) x.dirty }

/-- The context's acquiring streams keep the byte they must still see when a later store of a slot overwrites it (R71). -/
def keepOld (x : Ctx) (mem : SMap Byte) (p : PStore) (bs : List (Nat × Byte)) : Ctx :=
  { x with streams := x.streams.map fun o => o.map fun st =>
      if st.acq && !st.view.global && decide (st.issued ≤ p.issued) then
        { st with shadow := bs.foldl (fun m e => if m.any (fun c => c.1 == e.1) then m
            else insertBy (fun a b => decide (a.1 < b.1)) (e.1, SMap.get 0 mem e.1) m) st.shadow }
      else st }

end Ctx

/-- Writes pending bytes to memory in list order. -/
def writeBytes (mem : SMap Byte) : List (Nat × Byte) → SMap Byte
  | [] => mem
  | (a, b) :: l => writeBytes (SMap.put 0 mem a b) l

/-- The pending stores whose bytes reach memory at this bundle: slot stores issued three bundles ago, then QST, then M-slot stores that become visible (R14, R31, R177). -/
def duePending (x : Ctx) : List PStore :=
  x.stores.filter (fun p => p.isSlot && decide (p.issued + 3 ≤ x.bn)) ++
  x.stores.filter (fun p => p.slot == .q && decide (p.vis ≤ x.bn)) ++
  x.stores.filter (fun p => p.slot == .m && decide (p.vis ≤ x.bn))

/-- One pending store reaches memory; bytes of a Q- or M-slot store override slot stores that loads already see. -/
def commitOne (c : SMap Byte × Ctx) (p : PStore) : SMap Byte × Ctx :=
  let (mem, x) := c
  let bs := p.all x.ctl.dph
  let fl := p.late.foldl (fun f e => f ||| (e.2.2.eval x.ctl.dph).2) p.fl
  let x := (x.keepOld mem p bs).markBytes bs
  let x := { x with ctl := { x.ctl with fstat := x.ctl.fstat ||| fl }, stores := dropOne p x.stores }
  let x := if p.isSlot then x else
    { x with stores := x.stores.map fun r => if r.isSlot && decide (r.vis ≤ x.bn) then
        { r with bytes := r.bytes.filter fun e => !bs.any fun b => b.1 == e.1 } else r }
  (writeBytes mem bs, x)

/-- All stores that reach memory at this bundle. -/
def commitStores (mem : SMap Byte) (x : Ctx) : SMap Byte × Ctx := (duePending x).foldl commitOne (mem, x)

/-- The bundle of the GADVT that committed slot `u`, or 0 where none of the latest did (R71, R267). -/
def Ring.advancedAt (r : Ring) (u : Nat) : Nat :=
  ((r.advs.filter fun e => let n := (e.2 + 2 ^ 32 - u) % 2 ^ 32; decide (0 < n ∧ n ≤ 2 ^ 31)).getLast?.map Prod.fst).getD 0

/-- GADVT in bundle `b` commits `n` slots. The GADVTs whose slots are not all free are noted. -/
def Ring.advance (r : Ring) (b n : Nat) : Ring :=
  { r with t := (r.t + n) % 2 ^ 32, advs := (b, (r.t + n) % 2 ^ 32) :: r.advs.filter fun e => let k := (e.2 + 2 ^ 32 - r.h) % 2 ^ 32; decide (0 < k ∧ k ≤ 2 ^ 31) }

/-- What a reader sees that is ordered after the stores of bundles before `b` alone (R71): they are seen, and any other is seen or not. -/
def seeBefore (b : Nat) (p : PStore) : Option Bool := if p.issued < b then some true else none

/-- What an engine command of bundle `b` sees of the slots' stores (R71): with acquire, those of earlier bundles alone; with release, those of earlier bundles, and of the others each word is seen before or after it; with neither, no store is ordered before it. -/
def seeAs (acq rel : Bool) (b : Nat) (p : PStore) : Option Bool :=
  if acq then some (decide (p.issued < b)) else if rel then seeBefore b p else none

/-- What such a command sees of a ring slot that a GADVT of bundle `g` has committed: also the stores before that GADVT (R71, R267). -/
def seeRing (acq rel : Bool) (b g : Nat) (p : PStore) : Option Bool := if p.issued < g then some true else seeAs acq rel b p

/-- A byte as an engine of the core reads it (R71). -/
def engineByte (x : Ctx) (mem : SMap Byte) (see : PStore → Option Bool) (a : Nat) : Byte := (x.seenByte see a).getD (SMap.get 0 mem a)

/-- Bytes as an engine of the core reads them, ordered after the slots' stores of bundles before `b` (R71, R337). -/
def engineRead (x : Ctx) (mem : SMap Byte) (b a n : Nat) : List Byte := (List.range n).map fun i => engineByte x mem (seeBefore b) (a + i)

/-- An engine writes `n` bytes from `a` on: each 8-byte word of a pending store is left as it was before that store or after it (R71). An acquiring stream's kept bytes that it replaces are dropped. DESIGN CHOICE: log entry 12. -/
def overrun (x : Ctx) (a n : Nat) : Ctx :=
  { x with
    free := x.free + 1
    stores := x.stores.zipIdx.map fun (p, i) =>
      { p with dead := p.dead ++ (range a (a + n)).filter fun b => p.covers b && x.after i b }
    streams := x.streams.map fun o => o.map fun st =>
        { st with shadow := st.shadow.filter fun e => !decide (a ≤ e.1 ∧ e.1 < a + n) } }

/-- An engine writes bytes into a core's scratchpad. -/
def Core.engineWrite (c : Core) (a : Nat) (bs : List Byte) : Core :=
  { c with mem := SMap.write c.mem a bs
           ctx := c.ctx.map fun x => (overrun x a bs.length).markBytes ((List.range bs.length).map fun i => (a + i, 0)) }

/-- A core's scratchpad bytes as its own engines read them, ordered after the slots' stores of bundles before `b`. -/
def Core.engineRead (c : Core) (b a n : Nat) : List Byte :=
  match c.ctx with
  | some x => Machine.engineRead x c.mem b a n
  | none => SMap.read c.mem a n

/-- A core's scratchpad byte after every store that the slots have issued: what an engine merges its own bits into. -/
def Core.newest (c : Core) (a : Nat) : Byte :=
  match c.ctx with
  | some x => engineByte x c.mem (fun _ => some true) a
  | none => SMap.get 0 c.mem a

end Sys2Proof.Machine
end

