-- ==== Sys2Proof/Machine/Operands.lean ====
section
/-!
DEFINITION. Operand forms: immediates, scratchpad addresses, shape-register fields, tensor views and the addresses they give (R176, R182 to R184, R202, R206 to R208, R256, R294).
-/

namespace Sys2Proof.Machine

/-- A signed immediate as a 64-bit word. -/
def immW {n : Nat} (i : BitVec n) : Word := i.signExtend 64

/-- `ea := (sb + sext(off)) mod 2^64` (R176, R202, R232). -/
def effAddr (base : Word) (off : BitVec 30) : Nat := (base + immW off).toNat

namespace Ctx

/-- A field of a shape register's active copy (Table 6.6). DESIGN CHOICE: log entry 85. -/
def shapeField (x : Ctx) (id fld : Nat) : Word := SMap.get 0 x.shapeAct (16 * id + fld)

/-- A field of a shape register's shadow copy. -/
def shadowField (x : Ctx) (id fld : Nat) : Word := SMap.get 0 x.shapeShd (16 * id + fld)

/-- A W exchange of one shape register's copies (R184). -/
def exchange (x : Ctx) (id : Nat) : Ctx :=
  (List.range 16).foldl (fun y f =>
    { y with shapeAct := SMap.put 0 y.shapeAct (16 * id + f) (x.shadowField id f)
             shapeShd := SMap.put 0 y.shapeShd (16 * id + f) (x.shapeField id f) }) x

/-- The exchange that a syllable's W bit makes at issue. -/
def exchangeIf (x : Ctx) (w : Bool) (id : Nat) : Ctx := if w then x.exchange id else x

/-- The view that a shape register's active copy describes, with element offset `sb` (Table 6.6). -/
def view (x : Ctx) (id : Nat) (sb : Int) : View :=
  let ctl := (x.shapeField id 1).toNat
  { fmt := bits ctl 5 1, global := bit ctl 0, rb := bit ctl 17, ring := bits ctl 16 12, d := 2 ^ bits ctl 8 7,
    planar := bit ctl 6, base := (x.shapeField id 0).toNat, pstr := (x.shapeField id 3).toInt, rank := bits ctl 11 9,
    ext := (List.range 6).map fun j => (x.shapeField id (4 + j)).toNat
    str := (List.range 6).map fun j => (x.shapeField id (10 + j)).toInt
    sb }

/-- Lane `lane` of a vector register, bits 31:0 (R232, R294). -/
def laneAddr (x : Ctx) (v : BitVec 7) (lane : Nat) : Nat := bits (x.rvec v).toNat (32 * lane + 31) (32 * lane)

end Ctx

namespace View

/-- The element width in bits; B4 codes are 4-bit elements. -/
def w (v : View) : Nat := fmtWidth v.fmt

/-- idx_j of R207 for the dimensions listed, `a` counted from the first of them. -/
def indices : List Nat → Nat → List Nat
  | [], _ => []
  | e :: es, a => a % e :: indices es (a / e)

/-- The signed element offset of algebra element `a` (R207). -/
def offset (v : View) (a : Nat) : Int :=
  ((indices (v.ext.take v.rank) a).zip v.str).foldl (fun (o : Int) (p : Nat × Int) => o + p.1 * p.2) v.sb

/-- The address of element `i` in bits, as an exact integer (R207); B4 codes sit on nibbles. -/
def bitAddr (v : View) (i : Nat) : Int :=
  let a := i / v.d
  let c := i % v.d
  if v.planar then 8 * ((v.base : Int) + c * v.pstr) + v.w * v.offset a
  else 8 * (v.base : Int) + v.w * (v.d * v.offset a + c)

/-- The byte address of element `i`, modulo 2^64 (R207). -/
def addr (v : View) (i : Nat) : Nat := modPow 64 (v.bitAddr i / 8)

/-- R207: BASE, and PSTR when LAYOUT = 1, is a multiple of the element size (of 1 for B4). -/
def aligned (v : View) : Bool :=
  let m := max 1 (v.w / 8)
  v.base % m == 0 && (!v.planar || v.pstr % m == 0)

/-- R256, R322: B4 views need STR0 = 1, an even EXT0 and every other stride even, those past RANK too. -/
def b4Ok (v : View) : Bool :=
  v.fmt != 5 || (v.str.headD 0 == 1 && v.ext.headD 0 % 2 == 0 && (v.str.drop 1).all fun s => s % 2 == 0)

/-- R256, R322: a rank from 1 to 6 and a B4 view that keeps its rules. -/
def shapeOk (v : View) : Bool := decide (1 ≤ v.rank ∧ v.rank ≤ 6) && v.b4Ok

end View

/-- R68: the bank and the line of an address. -/
def lineOf (a : Nat) : Nat := a / 32

/-- R209: no bank serves more than 16 distinct lines. -/
def banksOk (addrs : List (Nat × Nat)) : Bool :=
  let lines := (addrs.flatMap fun (a, n) => range (lineOf a) (lineOf (a + n - 1) + 1)).eraseDups
  lines.all fun l => decide ((lines.filter fun m => m % 127 == l % 127).length ≤ 16)

end Sys2Proof.Machine
end

