-- ==== Sys2Proof/Machine/Records.lean ====
section
/-!
DEFINITION. The records the module outside its cores is made of: dispatch (queues, nests, teams, graphs, logs), copies, requests and packets of the fabric, translation, homes, seal groups, berths, the host port, black boxes and the management engine.
-/

namespace Sys2Proof.Machine

/-! ### Dispatch -/

/-- A queue of a partition (Table 4.1, R101 to R104). -/
structure Queue where
  base : Nat
  qerr : Nat
  tl : Bool
  en : Bool
  prio : Nat
  log2n : Nat
  head : Nat
  tail : Nat
  /-- The cycle since which the record at the head has been the head and covered by the tail. -/
  since : Nat
  /-- Priority levels that the head has gained (R104). -/
  boost : Nat
  deriving DecidableEq, Repr

/-- A queue after reset (Table 4.1). -/
def Queue.reset : Queue := ⟨0, 0, false, false, 0, 0, 0, 0, 0, 0⟩

/-- The fields of a nest record (Table 4.3). -/
structure NestRec where
  m3 : Bool
  zs : Bool
  tw : Nat
  th : Nat
  nl : Nat
  order : List Nat
  dph0 : Nat
  code : Nat
  clen : Nat
  cdst : Nat
  entry : Nat
  alen : Nat
  args : Nat
  ext : List Nat
  seed : Nat
  jcb : Nat
  status : Nat
  job : Nat
  deriving DecidableEq, Repr

/-- Where a started record came from: its queue and index, and for a record reached through a graph node the graph and the node. -/
structure Src where
  queue : Nat
  index : Nat
  node : Option (Nat × Nat)
  deriving DecidableEq, Repr

/-- A team that a nest has launched, in its logical set (R114). -/
structure Placed where
  team : Nat
  x : Nat
  y : Nat
  retired : Bool
  deriving DecidableEq, Repr

/-- An active nest (R105, R110 to R119). -/
structure ANest where
  id : Nat
  recd : NestRec
  addr : Nat
  prio : Nat
  src : Src
  /-- The task index of the next iteration. -/
  next : Nat
  logical : List Placed
  retired : Nat
  /-- The lowest task index whose team ended in TFAIL. -/
  first : Option Nat
  /-- The cause of failure, once it has failed (Table 4.5). -/
  failed : Option Nat
  /-- The cycle since which the next iteration has been refused a rectangle (R119). -/
  refused : Option Nat
  boost : Nat
  deriving DecidableEq, Repr

/-- A rendezvous point of a team (R152). `time` is the latest release time its arrivals brought (R97, R155). -/
structure Point where
  exp : Nat
  arr : Nat
  gen : Nat
  held : Option Nat
  fall : Nat
  time : Nat
  deriving DecidableEq, Repr

/-- An arrival on its way to a point (R154). -/
structure Arrival where
  point : Nat
  core : Nat
  /-- The bundle whose RVA or RVAW arrives: its release comes after every earlier command (R155). -/
  issued : Nat
  deriving DecidableEq, Repr

/-- One participant of an SBAL that has run: its core, its landing count, and its new records (R271). -/
structure Share where
  core : Nat
  ln : Nat
  recs : List Byte
  deriving DecidableEq, Repr

/-- An SBAL that has run and not completed (R271). -/
structure SBalOp where
  ring : Nat
  failed : Bool
  shares : List Share
  deriving DecidableEq, Repr

/-- Where a team stands. -/
inductive TPhase where
  | running
  /-- Its images are being written into these slots (R413). -/
  | saving (slots : List Nat)
  /-- Pre-empted, its images in these slots (R413). -/
  | out (slots : List Nat)
  deriving DecidableEq, Repr

/-- A team (R110, R115 to R119, R152). -/
structure Team where
  id : Nat
  nest : Nat
  index : Nat
  x : Nat
  y : Nat
  w : Nat
  h : Nat
  phase : TPhase
  points : List Point
  arrivals : List Arrival
  sbals : List SBalOp
  /-- The cycle of its last start or restore. -/
  start : Nat
  /-- It has used SLICE cycles (R119). -/
  sliced : Bool
  /-- A pre-emption request stands (R411). -/
  request : Bool
  /-- The cycle in which its first member stopped (R416). -/
  stopped : Option Nat
  /-- The cycle in which its save began (R119). -/
  saveAt : Nat
  preempts : Nat
  /-- Streams and rings that the images keep in the layout this model leaves open (R418, sections 5 and 6): the contexts as they stopped. -/
  kept : List Ctx
  deriving DecidableEq, Repr

/-- A graph node (Table 4.6). -/
structure GNode where
  kind : Nat
  npred : Nat
  succ : List Nat
  arg0 : Nat
  arg1 : Nat
  deriving DecidableEq, Repr

/-- A graph (R120 to R125). -/
structure Graph where
  id : Nat
  src : Src
  prio : Nat
  jcb : Nat
  status : Nat
  job : Nat
  nodes : List GNode
  counts : List Nat
  /-- Nodes that are to fire, in order. -/
  ready : List Nat
  running : List Nat
  /-- Nodes whose count reached 0 while an earlier firing still ran (R123). -/
  again : List Nat
  firings : Nat
  /-- Its cause and the node at fault (R125). -/
  failed : Option (Nat × Nat)
  deriving DecidableEq, Repr

/-- A retired record's status record and JCB post, not yet written (R107). -/
structure Log where
  id : Nat
  src : Src
  state : Nat
  cause : Nat
  done : Nat
  first : Nat
  status : Nat
  jcb : Nat
  /-- The writes have been sent. -/
  sent : Bool
  deriving DecidableEq, Repr

/-- A control packet that has started and not retired (R106). -/
structure Ctrl where
  queue : Nat
  index : Nat
  kind : Nat
  arg : Nat
  deriving DecidableEq, Repr

/-- The restart record of a seal for one partition (R435). -/
structure Restart where
  pour : Nat
  heads : List Nat
  nests : List ANest
  graphs : List Graph
  logs : List Log
  deriving DecidableEq, Repr

/-! ### Copies (R318 to R333) -/

/-- One side of a copy. -/
inductive Side where
  | view (v : View)
  | ring (r : Nat)
  deriving DecidableEq, Repr

/-- What started a copy: a CPY of the context on a core with its tag, or a record. -/
inductive CopySrc where
  | cpy (core team tag : Nat) (ln : Option Nat) (rt : Bool)
  | record (src : Src) (status jcb : Nat)
  deriving DecidableEq, Repr

/-- A burst of a copy from when an engine takes it until the copy's prefix has passed it (R318): the elements from `lo` to `hi`. -/
structure Burst where
  engine : Nat
  lo : Nat
  hi : Nat
  /-- Elements before this one have been read, and their writes sent. -/
  pos : Nat
  /-- Its gather packets have been sent. -/
  begun : Bool
  /-- Element codes that the gather engines have returned. -/
  got : List (Nat × Nat)
  /-- Elements that the gather engines still have to read: packets of stack, elements and addresses (R364). -/
  gather : List (Nat × List (Nat × Nat))
  /-- Every write is performed, and its engine is free again. -/
  ended : Bool
  deriving DecidableEq, Repr

/-- A fault that a copy has met at an element; it is reported once every element before it is performed (R330). -/
structure CopyFault where
  elem : Nat
  cause : Nat
  va : Nat
  unit : Nat
  deriving DecidableEq, Repr

/-- A copy in the pool of a die. -/
structure Copy where
  id : Nat
  die : Nat
  /-- The engine of the die that took its latest burst (R319). -/
  engine : Nat
  part : Nat
  job : Nat
  by_ : CopySrc
  scope : Nat
  acq : Bool
  rel : Bool
  /-- The bundle that issued it. -/
  issued : Nat
  w : Nat
  n : Nat
  /-- Elements of `w` bits that make one element of the copy: 2 for the 8-byte elements of a record, else 1. -/
  unit : Nat
  src : Side
  dst : Side
  /-- Elements of bursts that lie wholly behind it (R330). -/
  done : Nat
  /-- The end of the last burst that an engine has taken. -/
  upto : Nat
  /-- The bursts that engines have taken, in element order (R318). -/
  bursts : List Burst
  fault : Option CopyFault
  /-- Ring slots committed or freed so far, and the bytes packed into the open slot. -/
  slots : Nat
  /-- Since when the remote count's increment has been refused (R323). -/
  rtWait : Option Nat
  /-- It has been stopped by a fault, and waits for resume. -/
  stopped : Bool
  /-- The source bytes in scratchpad that slot stores of its bundle or later have overwritten (R326). -/
  shadow : SMap Byte
  /-- The cycle since which its reads of the host have waited for the link (R456), or those of another module for its berth (R359). -/
  since : Option Nat
  /-- FTO as read when that wait, or the one of its remote count, began, in microseconds (R471). -/
  fto : Nat := 0
  deriving DecidableEq, Repr

/-! ### The fabric -/

/-- A byte to be written: physical address, value and bit mask. -/
abbrev MByte := Nat × Byte × Byte

/-- On whose behalf a packet travels. -/
inductive Origin where
  /-- Landing command `tag` of the context on a core. -/
  | land (core tag : Nat)
  | stream (core j : Nat)
  | copy (id : Nat)
  /-- The status record of a retirement log, or its JCB post. -/
  | log (part id : Nat)
  /-- A SIGNAL node. -/
  | node (part graph node : Nat)
  /-- A JCB's NOTIFY word. -/
  | notify (part : Nat)
  /-- The flag of an LPUTF of the context on a core. -/
  | flag (core tag : Nat)
  /-- A request that came through a berth. -/
  | berth (b seq : Nat)
  deriving DecidableEq, Repr

/-- Where a packet is bound. -/
inductive Dest where
  | home (h : Nat)
  | core (c : Nat)
  /-- The dispatch engine of a partition (NLAUNCH). -/
  | dispatch
  /-- Out through a berth, to a module. -/
  | berth (b module : Nat)
  /-- Out through the host port. -/
  | host
  deriving DecidableEq, Repr

/-- An ACHASE under way (R352, R371): the pointer, hops made, limit and offset, and the home it replies through. -/
structure Walk where
  p : Nat
  h : Nat
  limit : Nat
  off : Nat
  first : Nat
  deriving DecidableEq, Repr

/-- What a reply brings. -/
inductive Reply where
  | done
  | ret (bs : List Byte)
  /-- Refused: to be sent again (R376, R346). -/
  | refused
  /-- With the home where it was found, or 10 where no home found it (R403). -/
  | fault (cause va home : Nat)
  /-- Applied, with a fault: a post with JCB_OVER (R128), or a put whose flag does not translate (R343). -/
  | excess (cause va home : Nat)
  deriving DecidableEq, Repr

/-- What a packet asks for or brings. -/
inductive Body where
  /-- A line read of a stream: virtual line, alias group and physical line. -/
  | read (vline group line : Nat)
  /-- A plain write into one line by `count` elements (R440); `irrev` marks one that a riser cannot undo (R429). -/
  | write (bytes : List MByte) (count : Nat) (irrev : Bool)
  /-- Packet `i` of `n` of a put (R342, R345): target address or ring, bytes, the put's length, lnT, and the flag of an LPUTF. -/
  | put (i n : Nat) (ring : Bool) (addr off : Nat) (bytes : List Byte) (len lnT : Nat) (flag : Option (Nat × Nat))
  | sig (lnT : Nat)
  /-- An atomic, ARED, JCB operation, ACASW or AENQ at a physical address, with the crucible stack of an ARED. -/
  | op (pa stack : Nat) (op : LOp)
  | chase (w : Walk) (pa : Nat)
  | nlaunch (queue : Nat) (recd : List Byte)
  | reply (r : Reply)
  /-- A source's release of its entry (R377). -/
  | release
  deriving DecidableEq, Repr

/-- A packet in flight (R360). -/
structure Packet where
  origin : Origin
  part : Nat
  dest : Dest
  /-- The source of the replay filter: a core of this module below 512, else 512 + 512 × module + core (R375). -/
  src : Nat
  seq : Nat
  floor : Nat
  /-- The module times of the sender's latest releases, by scope (R88, R97). -/
  time : SMap Nat := []
  /-- The sender's job. -/
  job : Nat
  body : Body
  /-- The virtual address of its first byte, for a stop record (Table 16.3). -/
  va : Nat := 0
  /-- The first element of a copy that it writes (R330). -/
  elem : Nat := 0
  /-- The cycle since which it has waited for riser or hold-buffer room (R431, R437), for the host link (R456) or for another module (R359). -/
  since : Option Nat
  /-- FTO as read when its wait began, in microseconds (R471). -/
  fto : Nat := 0
  /-- Its berth had accepted it before it stopped for a switch of personality, so that it drains (R449). -/
  inside : Bool := false
  /-- The operand block that a request of another module carries (R337, R350). -/
  block : List Byte := []
  /-- A read whose translation is older than an invalidation: its line goes to the stream that asked, and the window does not keep it (R393, R395). -/
  once : Bool := false
  deriving DecidableEq, Repr

/-- A request without a reply (R354, R359). -/
structure Req where
  core : Nat
  part : Nat
  tag : Nat
  seq : Nat
  /-- Cycle and module time of its first sending. -/
  cycle : Nat
  time : Nat
  /-- FTO as read when it was sent, in microseconds (R471). -/
  fto : Nat
  /-- End-to-end retries sent so far. -/
  retries : Nat
  /-- The cycle of its last refusal, until it is sent again. -/
  refused : Option Nat
  /-- The last answer to it was a refusal (R346). -/
  turned : Bool
  /-- The module it went to. -/
  module : Nat
  /-- The packets to send again. -/
  packets : List Packet
  deriving DecidableEq, Repr

/-- A put that a target has begun to receive (R342, R345). -/
structure PutIn where
  core : Nat
  src : Nat
  seq : Nat
  got : List Nat
  /-- The reserved ring slot. -/
  slot : Option Nat
  deriving DecidableEq, Repr

/-- An entry of a source table (R375, R376): at home `at_` below 10, or at target core 10 + c. -/
structure Filter where
  at_ : Nat
  src : Nat
  part : Nat
  nums : List (Nat × Reply)
  deriving DecidableEq, Repr

/-! ### Translation -/

/-- A translation of one page: its attributes and the physical address of its first byte (R383, R386). -/
structure Page where
  /-- Virtual page number, and how many 4 KiB pages it maps. -/
  vpn : Nat
  span : Nat
  pa : Nat
  rd : Bool
  wr : Bool
  irrev : Bool
  ag : Nat
  /-- An invalidation has come since the walk that read it began: it serves the requests that joined that walk, and no others (R393). -/
  stale : Bool := false
  deriving DecidableEq, Repr

/-- Who waits for a walk (R390). -/
inductive Waiter where
  | stream (core j : Nat)
  | land (core tag : Nat)
  | copy (id : Nat)
  deriving DecidableEq, Repr

/-- A page-table walk that requests have joined (R390). -/
structure PWalk where
  die : Nat
  part : Nat
  vpn : Nat
  joined : List Waiter
  /-- An invalidation has come since it started: its result is not cached (R393). -/
  stale : Bool
  deriving DecidableEq, Repr

/-- A walk's result held for a request that joined it: a page, or a fault cause. -/
structure Grant where
  who : Waiter
  part : Nat
  vpn : Nat
  page : Option Page
  cause : Nat
  deriving DecidableEq, Repr

/-- A die's translations of one partition (R384, R390): its copy of the translation-control block's entries and PTROOT, and its page cache. -/
structure DieXlat where
  ranges : SMap Word
  pages : List Page
  deriving DecidableEq, Repr

/-- An invalidation under way (R392 to R397): a VAINV of the context on a core, or a TINV of the host. -/
structure Inval where
  part : Nat
  by_ : Option (Nat × Nat × Nat × Option Nat)
  /-- First and last page; all pages when `all`. -/
  all : Bool
  lo : Nat
  hi : Nat
  empty : Bool
  /-- Its release has been performed (R393, step 1). -/
  released : Bool
  issued : Nat
  /-- Dies that have yet to receive it, and dies that have yet to acknowledge. -/
  todo : List Nat
  waiting : List Nat
  resets : List Nat
  deriving DecidableEq, Repr

/-! ### Homes, pours and seals -/

/-- A write that an armed injection counts at the end of its cycle (R440): its home and line, its elements, the unit that made it and its partition. -/
structure InjWrite where
  home : Nat
  line : Nat
  n : Nat
  unit : Nat
  part : Nat
  deriving DecidableEq, Repr

/-- A riser entry (Table 17.2). -/
structure RiserEntry where
  addr : Nat
  pour : Nat
  cell : Bool
  part : Nat
  gid : Nat
  old : List Byte
  deriving DecidableEq, Repr

/-- A held write (R429). -/
structure Held where
  part : Nat
  gid : Nat
  pour : Nat
  module : Nat
  bytes : List MByte
  /-- Its pour has been committed and freed: it may leave (R430). -/
  released : Bool
  deriving DecidableEq, Repr

/-- A stack's engines (Table 14.1). -/
structure Stack where
  cvaddr : Nat
  cvcnt : Nat
  cvctl : Nat
  cvdone : Nat
  cvflags : Nat
  cvcause : Nat
  cvstate : Nat
  /-- CVADDR, CVCNT and CVCTL as GO found them (R372, R373). -/
  runAddr : Nat
  runCnt : Nat
  runCtl : Nat
  /-- CRALLOCn of the 16 partitions. -/
  cralloc : SMap Nat
  cells : SMap Quire
  deriving DecidableEq, Repr

/-- A stack after reset. DESIGN CHOICE: log entry 10. -/
def Stack.reset : Stack := ⟨0, 0, 0, 0, 0, 0, 0, 0, 0, 0, [], []⟩

/-- A seal request (R432): who waits for its commit. -/
inductive SealReq where
  /-- A SEAL node. -/
  | node (part graph node : Nat)
  /-- A packet, SEALREQ, the timer or pressure. -/
  | plain
  deriving DecidableEq, Repr

/-- The exchange of a seal at its leader, and at its members (Table 17.3). -/
structure Seal where
  pour : Nat
  /-- Members that have been sent PREPARE, COMMIT or FREE and have not acted on it. -/
  todo : List Nat
  /-- Members whose PREPARED or COMMITTED the leader still awaits. -/
  await : List Nat
  /-- 1 PREPARE, 2 COMMIT, 3 FREE. -/
  step : Nat
  /-- The requests that this seal meets. -/
  meets : List SealReq
  /-- Members that will answer FAILED, with their causes. -/
  bad : List (Nat × Nat)
  deriving DecidableEq, Repr

/-- What is known of a halt while it stands (R399 to R403). -/
structure Halt where
  cycle : Nat
  faults : List FaultInfo
  /-- Stop-record slots of the units that still have to stop. -/
  pending : List Nat
  stopped : List Nat
  halted : Bool
  /-- Units that raised a fault after their stop record was written: it is written again (R402). -/
  again : List Nat
  /-- Streams, by core and number, that faults found at homes have stopped (R278). -/
  down : List (Nat × Nat)
  deriving DecidableEq, Repr

/-- A black box (R464). -/
structure BlackBox where
  events : SMap (BitVec 128)
  next : Nat
  wrap : Bool
  total : Nat
  /-- The cycle of the last event, and how many of the last events came in it: those stand in an order of their own (R464). -/
  cycle : Nat
  fresh : Nat
  deriving DecidableEq, Repr

/-- A partition: its dispatch-control, translation-control, memory-control and save-control blocks, its entries of the recovery-control and join blocks, and its engines' state. -/
structure Part where
  en : Bool
  lj : Nat
  hk : Nat
  lane : Nat
  level : Nat
  hm1 : Nat
  wm1 : Nat
  y0 : Nat
  x0 : Nat
  err : Nat
  /-- PSTAT.STATE. -/
  state : Nat
  slice : Nat
  qmin : Nat
  ovr : Nat
  jseq : Nat
  dlat : List Nat
  queues : SMap Queue
  /-- The slot blocks that a D2 partition owns: lowest r for HBM4E and for LPDDR-6 (R380). -/
  hblk : Nat
  lblk : Nat
  /-- The round-robin pointer of each priority (R104). -/
  rr : SMap Nat
  nests : List ANest
  teams : List Team
  graphs : List Graph
  logs : List Log
  ctrls : List Ctrl
  /-- A level switch that has started: its new level (R106). -/
  switch : Option Nat
  /-- Translation-control block: the 256 words of range entries by word index, and PTROOT. -/
  xblk : SMap Word
  ptroot : Word
  tinvBusy : Bool
  tinvAbr : Bool
  tinvDies : Nat
  rwin : SMap Word
  srbase : Nat
  imgbase : Nat
  stride : Nat
  nslot : Nat
  haltseq : Nat
  hfirst : Nat
  dumping : Bool
  /-- The images of a dump with their addresses, from its start until they are performed (R422). -/
  dump : List (Nat × List Byte)
  moving : Bool
  halted : Bool
  pwait : Nat
  pabort : Nat
  /-- Image slots that hold a pre-empted context, or are being written. -/
  slots : List Nat
  halt : Option Halt
  leader : Nat
  gid : Nat
  gmem : Nat
  cur : Nat
  sealed : Nat
  /-- The largest pour ever started (R425). -/
  top : Nat
  rollseq : Nat
  gcause : Nat
  gstate : Nat
  /-- The current pour holds a logged or held write (R432). -/
  wrote : Bool
  /-- The cycle of the last commit, or of the enable (R432). -/
  sealAt : Nat
  /-- The timer has expired and has asked for its seal (R432). -/
  timed : Bool
  /-- The modules of the group that have been lost since the group last started (R439), ascending. -/
  gone : List Nat
  reqs : List SealReq
  sealing : Option Seal
  /-- Restart records, newest first (R435). -/
  restarts : List Restart
  box : BlackBox
  key : Nat
  gate : Nat
  /-- Cores that have joined it since it was enabled are zeroed before the first launch (R99). -/
  fresh : Bool
  /-- The read that its dispatch engine waits with: since which cycle, FTO as it was then, and the path, a berth or 16 for the host port (R449, R456). -/
  barred : Option (Nat × Nat × Nat)
  deriving DecidableEq, Repr

/-! ### Berths, host port, management -/

/-- A berth (Table 18.3). -/
structure Berth where
  pers : Nat
  switches : Nat
  err : Nat
  state : Nat
  lanes : Nat
  cur : Nat
  drainTo : Nat
  /-- The cycle in which its drain began (R449). -/
  drainAt : Nat
  kexh : Bool
  klow : Bool
  /-- KTXCNT has reached KLIMIT − 2^20 under the key in force (R451). -/
  lowSeen : Bool
  ktx : Nat
  klimit : Nat
  kpend : List Word
  hold : List Held
  /-- The link or its CXL device has stopped responding (R443). -/
  down : Bool
  /-- The landing commands, by core and tag, that have found it closed, in the order in which they reached it (R449, R452). -/
  order : List (Nat × Nat)
  deriving DecidableEq, Repr

/-- A berth after reset. DESIGN CHOICE: log entry 10. -/
def Berth.reset : Berth := ⟨0, 0, 0, 0, 0, 0, 0x00E4E1C0, 0, false, false, false, 0, 0, [0, 0, 0, 0, 0, 0, 0, 0], [], false, []⟩

/-- The management block (Table 20.1) and the engine behind it. -/
structure Mgmt where
  phase : Nat
  err : Nat
  capmiss : Bool
  svn : Nat
  fusesvn : Nat
  pcap : Nat
  fto : Nat
  cmd : Nat
  akleft : Nat
  result : Nat
  busy : Bool
  /-- The command that the engine works on while it is busy, with the nonce and MEAS as an attestation read them (R467). -/
  run : Nat
  snapNonce : List Word
  snapMeas : List Nat
  mbaddr : Nat
  nonce : List Word
  arg0 : Word
  arg1 : Word
  /-- MEAS0 to MEAS15 as 256-bit numbers, digest byte 0 most significant. -/
  meas : List Nat
  /-- The next index of the device key (R467). -/
  keyIndex : Nat
  /-- The configuration writes accepted in this cycle, by their address: MMIO address and value (R466). -/
  accepted : List (Nat × Word)
  deriving DecidableEq, Repr

end Sys2Proof.Machine
end

