-- ==== Sys2Proof/Machine/State.lean ====
section
/-!
DEFINITION. The state of one M4 module as plain data, and the module right after reset.
Every piece of state the specification gives the machine stands here; INVENTORY.md lists each with its rule.
-/

namespace Sys2Proof.Machine

/-- Why the machine stops without a next state. -/
inductive Fault where
  /-- Raised by a slot syllable executed for a core on which no task is resident: the hardware has no such step. Safe: no run of `step` reaches it. -/
  | noContext
  deriving DecidableEq, Repr

/-- Why an instruction is given no meaning. -/
inductive Refusal where
  /-- Raised by `exec` for an instruction that this model does not yet give a meaning. Safe: nothing is claimed of it. -/
  | notModelled (mnemonic : String)
  deriving DecidableEq, Repr

/-- A trace unit after reset (Table 19.3). DESIGN CHOICE: log entry 10. -/
def Trace.reset : Trace := ⟨0, 0, 0, 0, false, false, false, false, 0, false, 0, false, none, none, [], []⟩

/-- A core after reset. DESIGN CHOICE: log entry 10. DEDUCED: log entry 87. -/
def Core.reset : Core := ⟨[], [], [], [], false, none, 0, Trace.reset⟩

/-- An empty black box. DESIGN CHOICE: log entry 9. -/
def BlackBox.reset : BlackBox := ⟨[], 0, false, 0, 0, 0⟩

/-- Partition `n` after reset, on a module of number `m` (Tables 4.1, 15.1, 16.1, 17.1, 18.2 and 20.1). DESIGN CHOICE: log entry 9. DESIGN CHOICE: log entry 10. -/
def Part.reset (m n : Nat) : Part :=
  { en := false, lj := 0, hk := 0, lane := 0, level := 0, hm1 := 0, wm1 := 0, y0 := 0, x0 := 0
    err := 0, state := 0, slice := 0x00400000, qmin := 0x00010000, ovr := 0, jseq := 0
    dlat := [0, 0, 0, 0, 0, 0], queues := [], hblk := 0, lblk := 0, rr := []
    nests := [], teams := [], graphs := [], logs := [], ctrls := [], switch := none
    xblk := [], ptroot := 0, tinvBusy := false, tinvAbr := false, tinvDies := 0, rwin := []
    srbase := 0, imgbase := 0, stride := 16, nslot := 0, haltseq := 0, hfirst := 0
    dumping := false, dump := [], moving := false, halted := false, pwait := 0x00010000, pabort := 0, slots := []
    halt := none, leader := m, gid := n, gmem := 0, cur := 1, sealed := 0, top := 1, rollseq := 0
    gcause := 0, gstate := 0, wrote := false, sealAt := 0, timed := false, gone := [], reqs := [], sealing := none
    restarts := [], box := BlackBox.reset, key := 0, gate := 15, fresh := false, barred := none }

/-- The management block after reset (Table 20.1). DESIGN CHOICE: log entry 8. DESIGN CHOICE: log entry 10. -/
def Mgmt.reset : Mgmt :=
  { phase := 0, err := 0, capmiss := false, svn := 0, fusesvn := 0, pcap := 2800, fto := 10000, cmd := 0
    akleft := 2 ^ 20, result := 0, busy := false, run := 0, snapNonce := [], snapMeas := [], mbaddr := 0, nonce := [0, 0, 0, 0], arg0 := 0, arg1 := 0
    meas := [0, 0, 0, 0, 0, 0, 0, 0, 0, 0, 0, 0, 0, 0, 0, 0], keyIndex := 0, accepted := [] }

/-- One M4 module. -/
structure State where
  /-- The 512 cores by number 32y + x (R2); a core not listed is as after reset. -/
  cores : SMap Core
  /-- The 16 partitions (R99). -/
  parts : List Part
  /-- The eight stacks (R362). -/
  hbmStacks : List Stack
  /-- Translations of die d for partition p at 16d + p (R382 to R390). -/
  dies : SMap DieXlat
  /-- Every byte behind a physical address: HBM4E and LPDDR-6 by their one physical location (R77, R78), CXL and host-window bytes. -/
  mem : SMap Byte
  /-- The 16 bits that every line carries, by line number (R427); 0xFFFF where not listed. -/
  lmeta : SMap Nat
  /-- The risers of the stacks 0 to 7 and the I/O dies 8 and 9, oldest entry first (R428). -/
  risers : List (List RiserEntry)
  copies : List Copy
  /-- The cycle in which each copy engine last became free, by unit (R333). -/
  engFree : SMap Nat
  fabric : List Packet
  reqs : List Req
  puts : List PutIn
  filters : List Filter
  walks : List PWalk
  grants : List Grant
  invals : List Inval
  berths : List Berth
  /-- The host port's hold buffer (R429, R454). -/
  hostHold : List Held
  hostUp : Bool
  /-- MSI-X vectors whose message is pending, or masked (R455). -/
  msix : List Nat
  /-- MROUTEm (Table 18.2). -/
  mroute : SMap Word
  modid : Nat
  /-- RCFG.RISER in GiB. -/
  riser : Nat
  sealper : Nat
  /-- INJ (Table 17.1) and the writes counted so far (R440). -/
  inj : Word
  injCount : Nat
  /-- The writes of this cycle that INJ will count, by home number and then line (R440). -/
  injSeen : List InjWrite
  /-- An error that a home reports at the group's next PREPARE: the partition (R440). -/
  injHeld : Option Nat
  mgmt : Mgmt
  /-- Module time in nanoseconds, and the thirds of a step not yet counted (R457). -/
  mtime : Nat
  thirds : Nat
  /-- Cycles since reset. -/
  cycle : Nat
  /-- The core whose turn it is in this cycle; 512 is the end of the cycle. -/
  turn : Nat
  /-- The core whose bundle issues, and the words of that bundle by slot. -/
  cur : Nat
  latch : SMap Nat
  /-- The length of that bundle in bytes (R14). -/
  blen : Nat
  /-- Numbers nests, teams, graphs, copies and logs. -/
  nextId : Nat
  /-- Inputs from outside that are still to come, first one next. -/
  agenda : List Instr
  /-- Counts the free choices made so far; it feeds `Config`. -/
  free : Nat
  deriving DecidableEq, Repr

/-- The module right after module reset. DESIGN CHOICE: log entry 6. DESIGN CHOICE: log entry 7. DESIGN CHOICE: log entry 10. -/
def State.reset : State :=
  { cores := [], parts := (List.range 16).map (Part.reset 0)
    hbmStacks := List.replicate 8 Stack.reset, dies := [], mem := [], lmeta := []
    risers := List.replicate 10 [], copies := [], engFree := [], fabric := [], reqs := [], puts := [], filters := []
    walks := [], grants := [], invals := [], berths := List.replicate 16 Berth.reset
    hostHold := [], hostUp := true, msix := [], mroute := [], modid := 0, riser := 4, sealper := 5000
    inj := 0, injCount := 0, injSeen := [], injHeld := none, mgmt := Mgmt.reset, mtime := 0, thirds := 0, cycle := 0
    turn := 0, cur := 0, latch := [], blen := 0, nextId := 0, agenda := [], free := 0 }

end Sys2Proof.Machine
end

