-- ==== Sys2Proof/Machine/Ops.lean ====
section
/-!
DEFINITION. The named operations over the state: cores and contexts, partitions and teams, the raising of a partition's halt line (R399 to R403), the precise fault at issue (R24, R25), the hold of a stalled bundle (R32), the frame every slot syllable runs in (R19), acquires and releases of a core (R89, R97), black boxes (R464) and MSI-X messages (R455).
-/

namespace Sys2Proof.Machine

/-- The three outcomes over this machine's state. -/
abbrev Out := Host.Outcome State Fault Refusal

/-- The units of stop records (R403): the issue, matrix, stream and landing engines of core `c`. -/
def unitIssue (c : Nat) : Nat := 4 * c
def unitMatrix (c : Nat) : Nat := 4 * c + 1
def unitStream (c : Nat) : Nat := 4 * c + 2
def unitLanding (c : Nat) : Nat := 4 * c + 3
/-- Copy engine `i` of die `d`. -/
def unitCopy (d i : Nat) : Nat := 2048 + 32 * d + i
/-- The stack engines of stack `s`. -/
def unitStack (s : Nat) : Nat := 2304 + s
/-- The dispatch context and the translation engine of die `d`. -/
def unitDispatch (d : Nat) : Nat := 2312 + d
def unitXlat (d : Nat) : Nat := 2320 + d
/-- The recovery engine. -/
def unitRecovery : Nat := 2328

/-- KIND of a unit's stop record (Table 16.3). -/
def unitKind (u : Nat) : Nat :=
  if u < 2048 then u % 4 else if u < 2304 then 4 else if u < 2312 then 5 else if u < 2320 then 6 else if u < 2328 then 7 else 8

/-- The compute die of a core: 8 by 8 cores each, four dies across and two down (R1, R2). -/
def dieOf (c : Nat) : Nat := (c % 32) / 8 + 4 * (c / 32 / 8)

/-- The bundle that stalled is gone with its context (R461). -/
def Trace.unstall (t : Trace) : Trace := { t with stallAt := none }

namespace Ctx

/-! ### Scopes -/

/-- Party `y` lies within scope `sc` of party `x` (R88): core, team, die, mod, sys. -/
def within (x y : Ctx) (sc : Nat) : Bool :=
  match sc with
  | 0 => x.core == y.core
  | 1 => x.part == y.part && x.team == y.team
  | 2 => dieOf x.core == dieOf y.core
  | 3 => true
  | _ => x.job == y.job

/-- The latest of party `x`'s releases `rel`, by scope, that cover party `y` (R88). -/
def covering (x y : Ctx) (rel : SMap Nat) : Nat :=
  (List.range 5).foldl (fun t sc => if x.within y sc then max t (SMap.get 0 rel sc) else t) 0

/-- Notes a release of module time `t` for acquires at the scopes that `ok` admits. -/
def note (y : Ctx) (t : Nat) (ok : Nat → Bool) : Ctx :=
  { y with seen := (List.range 5).foldl (fun m sc => if ok sc then SMap.put 0 m sc (max (SMap.get 0 m sc) t) else m) y.seen }

/-- Party `y` observes an effect that party `x` caused after its releases `rel` (R88, R91). -/
def observes (y x : Ctx) (rel : SMap Nat) : Ctx := y.note (x.covering y rel) (y.within x)

/-- Party `y` reads a value, or gets the result of an atomic, showing releases up to time `t`: none that it shows is later (R91, R97). DESIGN CHOICE: log entry 91. -/
def reads (y : Ctx) (t : Nat) : Ctx := y.note t fun _ => true

/-- An acquire at scope `sc` raises TFLOOR (R97). -/
def raiseFloor (y : Ctx) (sc : Nat) : Ctx := { y with ctl := { y.ctl with tfloor := max y.ctl.tfloor (SMap.get 0 y.seen sc) } }

end Ctx

namespace State

/-! ### Cores and contexts -/

/-- Core `c` = 32y + x (R2). -/
def core (s : State) (c : Nat) : Core := SMap.get Core.reset s.cores c

/-- Replaces core `c`. -/
def setCore (s : State) (c : Nat) (k : Core) : State := { s with cores := SMap.put Core.reset s.cores c k }

/-- The context resident on core `c`. -/
def ctx (s : State) (c : Nat) : Option Ctx := (s.core c).ctx

/-- Replaces the context of core `c`. -/
def setCtx (s : State) (c : Nat) (x : Ctx) : State := s.setCore c { s.core c with ctx := some x }

/-- Changes the context of core `c`, if there is one. -/
def onCtx (s : State) (c : Nat) (f : Ctx → Ctx) : State :=
  match s.ctx c with
  | some x => s.setCtx c (f x)
  | none => s

/-- Increments landing count `n` of the context on core `c` (R334). -/
def bump (s : State) (c n : Nat) : State :=
  s.onCtx c fun x => { x with ln := SMap.put 0 x.ln n ((SMap.get 0 x.ln n + 1) % 2 ^ 32) }

/-! ### Partitions and teams -/

/-- Partition `p`. -/
def part (s : State) (p : Nat) : Part := s.parts.getD p (Part.reset s.modid p)

/-- Replaces partition `p`. -/
def setPart (s : State) (p : Nat) (q : Part) : State := { s with parts := s.parts.set p q }

/-- Changes partition `p`. -/
def onPart (s : State) (p : Nat) (f : Part → Part) : State := s.setPart p (f (s.part p))

/-- Team `t` of partition `p`. -/
def team (s : State) (p t : Nat) : Option Team := (s.part p).teams.find? fun m => m.id == t

/-- Changes team `t` of partition `p`. -/
def onTeam (s : State) (p t : Nat) (f : Team → Team) : State :=
  s.onPart p fun q => { q with teams := q.teams.map fun m => if m.id = t then f m else m }

/-- Stack `k`. -/
def stack (s : State) (k : Nat) : Stack := s.hbmStacks.getD k Stack.reset

/-- Changes stack `k`. -/
def onStack (s : State) (k : Nat) (f : Stack → Stack) : State := { s with hbmStacks := s.hbmStacks.set k (f (s.stack k)) }

/-- Berth `b`. -/
def berth (s : State) (b : Nat) : Berth := s.berths.getD b Berth.reset

/-- Changes berth `b`. -/
def onBerth (s : State) (b : Nat) (f : Berth → Berth) : State := { s with berths := s.berths.set b (f (s.berth b)) }

end State

namespace Part

/-- Width and height of the partition's rectangle. -/
def width (q : Part) : Nat := q.wm1 + 1
def height (q : Part) : Nat := q.hm1 + 1

/-- Core `c` lies in the partition's rectangle (R99). DEDUCED: log entry 61. -/
def holds (q : Part) (c : Nat) : Bool :=
  decide (q.x0 ≤ c % 32 ∧ c % 32 < q.x0 + q.width ∧ q.y0 ≤ c / 32 ∧ c / 32 < q.y0 + q.height)

/-- The partition's cores in raster order. -/
def cores (q : Part) : List Nat :=
  (List.range q.height).flatMap fun b => (List.range q.width).map fun a => 32 * (q.y0 + b) + q.x0 + a

/-- The dies that the partition covers, ascending. DEDUCED: log entry 55. -/
def dies (q : Part) : List Nat := (List.range 8).filter fun d => q.cores.any fun c => dieOf c == d

/-- The die of the origin core (R98). -/
def originDie (q : Part) : Nat := dieOf (32 * q.y0 + q.x0)

end Part

/-- The cores of a team by ascending rank (R111). -/
def Team.cores (t : Team) : List Nat :=
  (List.range t.h).flatMap fun b => (List.range t.w).map fun a => 32 * (t.y + b) + t.x + a

namespace State

/-! ### The halt line -/

/-- The enabled D2 partition that owns lane `j` and has cores on die `d` (R319). -/
def laneOwner (s : State) (j d : Nat) : Option Nat :=
  (List.range 16).find? fun p => let q := s.part p; q.en && q.level == 2 && q.lane == j && q.dies.contains d

/-- The copy engines of die `d` that partition `p`'s copies may use (R319, R403). DESIGN CHOICE: log entry 38. -/
def copyEngines (s : State) (p d : Nat) : List Nat :=
  let q := s.part p
  if q.level = 2 then (List.range 32).filter fun i => i / 4 == q.lane
  else (List.range 32).filter fun i => i / 4 == 0 || (s.laneOwner (i / 4) d).isNone

/-- The stop-record slots of the engines that serve partition `p` (R403), ascending. -/
def serving (s : State) (p : Nat) : List Nat :=
  let q := s.part p
  q.cores.flatMap (fun c => [unitIssue c, unitMatrix c, unitStream c, unitLanding c]) ++
  q.dies.flatMap (fun d => (s.copyEngines p d).map (unitCopy d)) ++ (List.range 8).map unitStack ++
  q.dies.map unitDispatch ++ q.dies.map unitXlat ++ [unitRecovery]

/-- A fault joins a halt; a unit that has stopped already writes its record again (R402). -/
def joinHalt (h : Halt) (f : FaultInfo) : Halt :=
  { h with faults := h.faults ++ [f], again := if h.stopped.contains f.unit && !h.again.contains f.unit then h.again ++ [f.unit] else h.again }

/-- Raises partition `p`'s halt line: the shared operation that takes an exception (R399, R400). A fault during a halt joins that halt (R402). -/
def raise (s : State) (p : Nat) (f : FaultInfo) : State :=
  let f := { f with cycle := s.cycle }
  match (s.part p).halt with
  | some h => s.onPart p fun q => { q with halt := some (joinHalt h f) }
  | none => s.onPart p fun q => { q with halt := some ⟨s.cycle, [f], s.serving p, [], false, [], []⟩ }

/-- Unit `u` still works for partition `p`: no halt stands, or the unit has not stopped (R400). -/
def works (s : State) (p u : Nat) : Bool :=
  match (s.part p).halt with
  | none => true
  | some h => !h.halted && !h.stopped.contains u

/-- The clock in force is the 1.5 GHz one. It is changed on entry to phase 4, where R468 has every partition disabled, and not at the entry to full service that R3 names (R3, R457). DEDUCED: log entry 103. -/
def fullClock (s : State) : Bool := decide (4 ≤ s.mgmt.phase)

/-- Microseconds in cycles of the clock in force: 1.5 GHz, or 750 MHz in reduced service (R3). -/
def usCycles (s : State) (us : Nat) : Nat := us * if s.fullClock then 1500 else 750

/-- Skid bounds of Table 16.2 in cycles of the clock in force. The recovery engine has none of its own. -/
def skidBound (s : State) (u : Nat) : Nat :=
  match unitKind u with
  | 0 => 2 | 1 => 24 | 2 => 512 | 3 => 256 | 4 => 512 | 6 => 2 | _ => s.usCycles 4

/-- The skid bound of unit `u` has passed in partition `p`'s halt (Table 16.2). -/
def overdue (s : State) (p u : Nat) : Bool :=
  match (s.part p).halt with
  | none => false
  | some h => h.pending.contains u && decide (h.cycle + s.skidBound u ≤ s.cycle)

/-- A fault that an engine reports by command tag (R389, R399). -/
def engineFault (s : State) (p unit cause tag va count job : Nat) : State :=
  s.raise p { unit, kind := unitKind unit, cause, tag, pc := 0, va, count, detail := 0, job, syl := 0, slot := 0, cycle := s.cycle }

/-- A precise fault at issue (R24, R25): the bundle does not issue, the core stops before it, and the halt line is raised with the bundle's address, the syllable and its slot. -/
def issueFault (s : State) (slot cause detail : Nat) : State :=
  match s.ctx s.cur with
  | none => s
  | some x =>
    (s.setCtx s.cur { x with state := .stopped }).raise x.part
      { unit := unitIssue s.cur, kind := 0, cause, tag := 0, pc := x.pc, va := 0, count := 0, detail, job := x.job,
        syl := SMap.get 0 s.latch slot, slot, cycle := s.cycle }

/-- The bundle waits at issue (R32). -/
def hold (s : State) : State := s.onCtx s.cur fun x => { x with state := .held }

/-! ### Acquires and releases -/

/-- A core's snapshot window drops the lines that `gone` names by virtual line, partition and alias group (R86, R89, R357, R393). A read of such a line that is still on its way is performed at its home after this. -/
def dropLines (s : State) (c : Nat) (gone : Nat → Nat → Nat → Bool) : State :=
  s.setCore c { s.core c with window := (s.core c).window.filter fun l => !gone l.line l.part l.group }

/-- An acquire of the context on core `c` at scope `sc` (R89, R97): the snapshot window drops every line, and TFLOOR rises to the latest observed release that pairs with it. -/
def acquire (s : State) (c sc : Nat) : State := (s.dropLines c fun _ _ _ => true).onCtx c fun x => x.raiseFloor sc

/-- An acquire by CROSS, which also ends the phase (R84). -/
def acquireCross (s : State) (c sc : Nat) : State :=
  let s := s.acquire c sc
  s.setCore c { s.core c with phase := [], full := false }

/-- A release of the context on core `c` at scope `sc` is performed now (R97). -/
def released (s : State) (c sc : Nat) : State := s.onCtx c fun x => { x with relTime := SMap.put 0 x.relTime sc s.mtime }

/-! ### Records of events -/

/-- The place of an event among those of its cycle: by kind, then by its core in raster order (R464). -/
def eventRank (e : BitVec 128) : Nat := bits e.toNat 71 64 * 2 ^ 16 + bits e.toNat 87 80 * 2 ^ 8 + bits e.toNat 79 72

/-- An event of a cycle enters a black box, among the events of that cycle in their order (R464). -/
def inBox (b : BlackBox) (cycle : Nat) (e : BitVec 128) : BlackBox :=
  let n := if b.cycle = cycle then min b.fresh 4095 else 0
  let slot (i : Nat) : Nat := (b.next + 4096 - n + i) % 4096
  let now := insertBy (fun x y => decide (eventRank x < eventRank y)) e ((List.range n).map fun i => SMap.get 0 b.events (slot i))
  { events := now.zipIdx.foldl (fun m v => SMap.put 0 m (slot v.2) v.1) b.events, next := (b.next + 1) % 4096
    wrap := b.wrap || b.next == 4095, total := (b.total + 1) % 2 ^ 32, cycle, fresh := n + 1 }

/-- Adds an event to a partition's black box (R464): kind, core and detail. DEDUCED: log entry 83. -/
def blackBox (s : State) (p kind c detail : Nat) : State :=
  let e := s.mtime % 2 ^ 64 + kind * 2 ^ 64 + (c % 32) * 2 ^ 72 + (c / 32) * 2 ^ 80 + (detail % 2 ^ 40) * 2 ^ 88
  s.onPart p fun q => { q with box := inBox q.box s.cycle (BitVec.ofNat 128 e) }

/-- Raises an MSI-X vector; one whose message is still pending stays one message (R455). -/
def msi (s : State) (v : Nat) : State := if s.msix.contains v then s else { s with msix := s.msix ++ [v] }

/-- The time of the latest release that a value read now can show: one of this module, or one of another module at its own time (R97). DESIGN CHOICE: log entry 91. -/
def far (s : State) : Nat := s.mtime + Config.farTime s.free

/-- A free choice: the counter that feeds `Config`, advanced. DESIGN CHOICE: log entry 11. -/
def choose (s : State) : Nat × State := (s.free, { s with free := s.free + 1 })

end State

/-- The frame of a slot syllable over the whole state: nothing where the guard does not let it execute (R19); else its precise fault, its stall or its effect. -/
def sylS (h : Hdr) (s : State) (go : Core → Ctx → Act State) : Out :=
  match s.ctx s.cur with
  | none => .fault .noContext
  | some x =>
    if x.guard h then
      match go (s.core s.cur) x with
      | .fault c d => .next (s.issueFault (slotNo h.slot) c d)
      | .wait => .next s.hold
      | .ok s' => .next s'
    else .next s

/-- An engine step: its effect where its conditions hold, else nothing. -/
def engine (f : State → Option State) (s : State) : Out := .next ((f s).getD s)

/-- The frame of a slot syllable that acts on its own context alone. -/
def syl (h : Hdr) (s : State) (go : Core → Ctx → Act Ctx) : Out :=
  sylS h s fun k x => (go k x).bind fun y => .ok (s.setCtx s.cur y)

end Sys2Proof.Machine
end

