-- ==== Sys2Proof/Machine/Lanes.lean ====
section
/-!
DEFINITION. What the vector-register syllables share: the frame with stream ports (R258 to R260), lane enabling (R186), element maps and the algebra helpers (R210 to R214).
-/

namespace Sys2Proof.Machine

/-- The context once the out port that a full queue keeps waiting has taken its next entry. -/
def Ctx.countPort (x : Ctx) (n : BitVec 7) : Ctx :=
  match x.port n with
  | some (j, st) => x.setStream j (some { st with count := st.count + 1 })
  | none => x

/-- Reserves out-port entries for the results of a syllable, in order (R259); a fault of any comes before the wait of another (R260). DEDUCED: log entry 31. -/
def writePorts (x : Ctx) (t : Bool) : List (BitVec 7) → Act (Ctx × List Loc)
  | [] => .ok (x, [])
  | n :: ns =>
    match x.writePort n t with
    | .fault c d => .fault c d
    | .wait => match writePorts (x.countPort n) t ns with
      | .fault c d => .fault c d
      | _ => .wait
    | .ok (y, l) => (writePorts y t ns).bind fun (z, ls) => .ok (z, l :: ls)

/-- The frame of a syllable that reads the vectors `reads` and writes the vectors `writes`: port faults, the syllable's own checks, then the stalls, then the effect (R32, R260). `pre` holds the checks that read no vector, and `deps` names the vectors that the checks of `go` read: only a check of what an empty port has still to bring comes after the wait for it. DEDUCED: log entry 31. -/
def vframe (x : Ctx) (reads writes : List (BitVec 7)) (t : Bool) {α : Type} (go : Ctx → Act α)
    (fin : Ctx → List Loc → α → Ctx) (pre : Act Unit := .ok ()) (deps : List (BitVec 7) := []) : Act Ctx :=
  match x.readPorts reads, writePorts x t writes with
  | .fault c d, _ => .fault c d
  | _, .fault c d => .fault c d
  | r, w =>
    pre.bind fun _ =>
      match (x.readPorts deps).bind go with
      | .fault c d => .fault c d
      | _ => r.bind fun y => (go y).bind fun a => w.bind fun (z, ls) => .ok (fin { z with pops := y.pops } ls a)

/-- The elements of a format in a register (R186). -/
def lanesOf (fmt : Nat) : Nat := 4096 / fmtWidth fmt

/-- Which of `n` elements of width `w` the mask enables (R186). -/
def enabled (km : KMask) (w n : Nat) : List Bool := (List.range n).map fun e => km.getLsbD (w * e / 32)

/-- The register bits that land: the enabled elements, or all of them under Z (R186). -/
def landMask (w : Nat) (on : List Bool) (z : Bool) : Nat :=
  if z then ones (w * on.length) else ofElems w (on.map fun b => if b then ones w else 0)

/-- The mask operand and Z of an F3 V-slot syllable. -/
def kmOf (x : Ctx) (f : F3) : KMask := x.rk (f.sub.toNat % 16)
def zOf (f : F3) : Bool := f.sub.getLsbD 4

/-- The enabled elements' values, the others zero. -/
def pickOn : List Bool → List Nat → List Nat
  | b :: bs, v :: vs => (if b then v else 0) :: pickOn bs vs
  | _, _ => []

/-- The flags of enabled elements. -/
def flagsOn : List Bool → List Flags → Flags
  | b :: bs, v :: vs => (if b then v else 0) ||| flagsOn bs vs
  | _, _ => 0

/-- A V-slot result of values and flags per element, fixed at issue. -/
def vValues (h : Hdr) (s : State) (f : F3) (l : Nat) (w : Nat) (reads : List (BitVec 7))
    (go : Ctx → List (Nat × Flags)) : Out :=
  syl h s fun _ x => vframe x reads [f.a] h.t (fun y => .ok (go y)) fun y ls vs =>
    let on := enabled (kmOf x f) w (4096 / w)
    y.send h l (ls.headD .p) (landMask w on (zOf f))
      (.now (ofElems w (pickOn on (vs.map Prod.fst))) (flagsOn on (vs.map Prod.snd)))

/-- A latency, or the M3 latency in a bundle with L3 = 1 (R40). -/
def latency (x : Ctx) (l m3 : Nat) : Nat := if x.l3 then m3 else l

/-- A V-slot result of one rounding per element, landing after `l` bundles, or `m3` under L3. -/
def vRounds (h : Hdr) (s : State) (f : F3) (l m3 : Nat) (w : Nat) (reads : List (BitVec 7))
    (go : Ctx → List (Rounding × Flags)) : Out :=
  syl h s fun _ x => vframe x reads [f.a] h.t (fun y => .ok (go y)) fun y ls vs =>
    let on := enabled (kmOf x f) w (4096 / w)
    let live := (on.zip vs).zipIdx.filter fun e => e.1.1
    y.send h (latency y l m3) (ls.headD .p) (landMask w on (zOf f))
      (.rnd w (live.map fun e => (e.2, e.1.2.1)) (flagsOn on (vs.map Prod.snd)))

/-- Groups a list in runs of `n`, at most `fuel` of them. -/
def chunks {α : Type} (n : Nat) : Nat → List α → List (List α)
  | 0, _ => []
  | fuel + 1, l => l.take n :: chunks n fuel (l.drop n)

/-- R192: one bit per lane from one condition per element. -/
def laneBits (any : Bool) (w : Nat) (conds : List Bool) : Nat :=
  ofElems 1 ((chunks (32 / w) 128 conds).map fun c => if (if any then c.any id else c.all id) then 1 else 0)

/-- A compare into a lane mask (R192, R195). -/
def vCompare (h : Hdr) (s : State) (f : F3) (w : Nat) (go : Ctx → List (Bool × Flags)) : Out :=
  syl h s fun _ x => vframe x [f.b, f.c] [] false (fun y => .ok (go y)) fun y _ vs =>
    let km := kmOf x f
    let on := enabled km w (4096 / w)
    y.putK h 2 f.a.toNat (if zOf f then ones 128 else km.toNat)
      (laneBits (f.d.getLsbD 4) w (vs.map Prod.fst) &&& km.toNat) (flagsOn on (vs.map Prod.snd))

/-- Reduces along the tree of R66, `none` being an absent element. -/
def treeLevel (node : Nat → Nat → Nat × Flags) : List (Option Nat) → List (Option Nat) × Flags
  | a :: b :: l =>
    let (c, f) : Option Nat × Flags := match a, b with
      | some x, some y => let (v, g) := node x y; (some v, g)
      | some x, none => (some x, 0)
      | none, y => (y, 0)
    let (cs, g) := treeLevel node l
    (c :: cs, f ||| g)
  | l => (l, 0)

/-- The levels of the tree, at most `fuel`. -/
def treeReduce (node : Nat → Nat → Nat × Flags) : Nat → List (Option Nat) → Nat × Flags
  | fuel + 1, a :: b :: l =>
    let (cs, f) := treeLevel node (a :: b :: l)
    let (v, g) := treeReduce node fuel cs
    (v, f ||| g)
  | _, l => ((l.headD none).getD 0, 0)

/-! ### Structure tables (R210 to R214) -/

/-- Byte `i` of a table. -/
def tByte (t i : Nat) : Nat := t / 256 ^ i % 256

/-- The dimension d (Table 7.6). -/
def tDim (t : Nat) : Nat := 2 ^ (tByte t 0 % 4)

/-- Entry (i, j): its sign, 0 for zero, 1 for plus and 3 for minus, and its component. -/
def tEntry (t i j : Nat) : Nat × Nat := let b := tByte t (8 + 8 * i + j); (b / 8 % 4, b % 8)

/-- CONJ bit c. -/
def tConj (t c : Nat) : Bool := (tByte t 1).testBit c

/-- R210: the table is valid. -/
def tableOk (t : Nat) : Bool :=
  let d := tDim t
  decide (tByte t 0 ≤ 3) && (range 2 8).all (fun i => tByte t i == 0) && decide (tByte t 1 < 2 ^ d) &&
  (List.range 8).all fun i => (List.range 8).all fun j =>
    let b := tByte t (8 + 8 * i + j)
    if i < d ∧ j < d then decide (b < 32) && b / 8 != 2 && (b / 8 == 0 || decide (b % 8 < d)) else b == 0

/-- The generators of a Cl(3,0) basis index as a set of bits, and the index of a set (R211). -/
def clSet (i : Nat) : Nat := [0, 1, 2, 4, 3, 5, 6, 7].getD i 0
def clIndex (g : Nat) : Nat := [0, 1, 2, 4, 3, 5, 6, 7].getD g 0

/-- Whether reordering the generators of (i, j) takes an odd number of exchanges (R211). -/
def clOdd (a b : Nat) : Bool :=
  ((List.range 3).foldl (fun n x => n + (if a.testBit x then popCount (b % 2 ^ x) 3 else 0)) 0) % 2 == 1

/-- The preset tables of Tables 7.7 and 7.8. -/
def preset (p : Nat) : Nat :=
  let rows (es : List (List Nat)) : List Nat := es.flatMap fun r => r ++ List.replicate (8 - r.length) 0
  let tab (dc cj : Nat) (es : List (List Nat)) : Nat := ofElems 8 ([dc, cj, 0, 0, 0, 0, 0, 0] ++ rows es)
  match p with
  | 0 => tab 0 0 [[8]]
  | 1 => tab 1 2 [[8, 9], [9, 0x18]]
  | 2 => tab 1 2 [[8, 9], [9, 8]]
  | 3 => tab 1 2 [[8, 9], [9, 0]]
  | 4 => tab 2 0x0E [[8, 9, 0xA, 0xB], [9, 0x18, 0xB, 0x1A], [0xA, 0x1B, 0x18, 9], [0xB, 0xA, 0x19, 0x18]]
  | _ => tab 3 0x7E ((List.range 8).map fun i => (List.range 8).map fun j =>
      clIndex (clSet i ^^^ clSet j) + if clOdd (clSet i) (clSet j) then 0x18 else 8)

/-- One algebra product's terms for component `k`: the signed exact products of the pairs whose entry is not zero (R212, R286). -/
def algTerms (t k : Nat) (xs ys : List XV) : List (XV × Flags) :=
  let d := tDim t
  (List.range d).flatMap fun i => (List.range d).filterMap fun j =>
    let (sg, kk) := tEntry t i j
    if sg = 0 ∨ kk ≠ k then none
    else
      let (p, f) := mulV (xs.getD i .nan) (ys.getD j .nan)
      some (if sg = 3 then p.neg else p, f)

/-- The signalling operands that the terms of component `k` read (R47). -/
def algSnan (t k fmt : Nat) (xs ys : List Nat) : Flags :=
  let d := tDim t
  (List.range d).foldl (fun f i => (List.range d).foldl (fun g j =>
    let (sg, kk) := tEntry t i j
    if sg = 0 ∨ kk ≠ k then g else g ||| snanFlag fmt (xs.getD i 0) ||| snanFlag fmt (ys.getD j 0)) f) 0

end Sys2Proof.Machine
end

