-- ==== Sys2Proof/Machine/Cells.lean ====
section
/-!
DEFINITION. The accumulator store: cells as chain and full readers see them, cell results and their landings (R72 to R74, R216 to R220, R234), and the mappings of nests (R307).
-/

namespace Sys2Proof.Machine

/-- Cell `i` of a core. -/
def Core.cell (k : Core) (i : Nat) : Cell := SMap.get Cell.zero k.cells i

/-- The exact value of a cell's data under its tag (R218). -/
def cellV (f32 : Bool) (q : Quire) : XV := if f32 then decodeV 0 (q.toNat % 2 ^ 32) else quireV q

/-- A full reader's value of cell `i` (R218, R219). -/
def Core.cellVal (k : Core) (i : Nat) : XV := let c := k.cell i; cellV c.f32 c.q

/-- The flag of a signalling NaN in an F32 cell that is read (R47). -/
def Cell.snan (c : Cell) : Flags := if c.f32 then snanFlag 0 (c.q.toNat % 2 ^ 32) else 0

/-- The flags of the signalling NaNs among the cells that a full reader reads (R47). -/
def Core.cellFlags (k : Core) (cells : List Nat) : Flags := cells.foldl (fun f i => f ||| (k.cell i).snan) 0

/-- `encode(fp32, acc + terms, mode, sat, fo)` as a cell value: fixed now, or left open until the full landing when the dither phase or the accumulator is not known yet (R220). -/
def f32Write (acc : Option CVal) (terms : List XV) (mode : Nat) (sat fo : Bool) (pos : Nat) : CRes × Flags :=
  match acc with
  | some (.ref id) => (.sum (some (.ref id)) terms mode sat fo pos, 0)
  | some (.code q) =>
    let ts := cellV true q :: terms
    let n := snanFlag 0 (q.toNat % 2 ^ 32)
    if mode = 5 then (.sum none ts mode sat fo pos, n)
    else
      let (v, f) := sumV (mode == 3) ts
      let (c, g) := encodeV 0 v mode sat fo 0
      (.code (BitVec.ofNat 1024 c), n ||| f ||| g)
  | none =>
    if mode = 5 then (.sum none terms mode sat fo pos, 0)
    else
      let (v, f) := sumV (mode == 3) terms
      let (c, g) := encodeV 0 v mode sat fo 0
      (.code (BitVec.ofNat 1024 c), f ||| g)

/-- What one cell of a result brings: the write, its flags, and whether it overflowed. -/
structure CellOut where
  write : CellWrite
  fl : Flags
  qfl : QFlags
  deriving DecidableEq, Repr

/-- A write into a QUIRE cell by `quire_add` (R63). -/
def quireOut (cell : Nat) (acc : Quire) (v : XV) (fl : Flags) : CellOut :=
  let (q, g) := quireAdd acc v
  ⟨⟨cell, false, .code q⟩, fl, g⟩

/-- A write of a plain code with its tag. -/
def codeOut (cell : Nat) (f32 : Bool) (q : Quire) : CellOut := ⟨⟨cell, f32, .code q⟩, 0, 0⟩

/-- A rounding into an F32 cell. -/
def f32Out (cell : Nat) (acc : Option CVal) (terms : List XV) (mode : Nat) (sat fo : Bool) (pos : Nat) (fl : Flags) : CellOut :=
  let (r, g) := f32Write acc terms mode sat fo pos
  ⟨⟨cell, true, r⟩, fl ||| g, 0⟩

/-- The lowest cell that overflowed. -/
def firstOvf (outs : List CellOut) : Option Nat :=
  outs.foldl (fun r o => if o.qfl.testBit 1 then some (match r with
    | some c => min c o.write.cell
    | none => o.write.cell) else r) none

/-- Puts the cell results of one syllable in flight (R219). -/
def Ctx.sendCells (x : Ctx) (slot : Slot) (issued chain full pc : Nat) (outs : List CellOut) : Ctx :=
  { x with
    nextId := x.nextId + 1
    cellRes := x.cellRes ++ [{ id := x.nextId, issued, slot, chain, full, chained := false, pc
                               writes := outs.map CellOut.write
                               fl := outs.foldl (fun f o => f ||| o.fl) 0
                               qfl := outs.foldl (fun f o => f ||| o.qfl) 0
                               ovf := firstOvf outs }] }

/-- A Q-slot syllable's results at the distances of Table 8.1. -/
def Ctx.putCells (x : Ctx) (h : Hdr) (chain full : Nat) (outs : List CellOut) : Ctx :=
  x.sendCells h.slot x.bn (x.bn + chain) (x.bn + full) x.pc outs

/-- The bundle at which a cell result next lands. -/
def CellResult.at_ (r : CellResult) : Nat := if r.chained then r.full else r.chain

/-- The order of cell landings (R31, R219). -/
def CellResult.before (a b : CellResult) : Bool :=
  if a.at_ ≠ b.at_ then decide (a.at_ < b.at_)
  else if slotNo a.slot ≠ slotNo b.slot then decide (slotNo a.slot < slotNo b.slot)
  else decide (a.issued < b.issued)

/-- A cell value under the dither phase of its full landing, with its flags (R220). -/
def CRes.eval (dph : Nat) : CRes → Quire × Flags
  | .code q => (q, 0)
  | .sum acc terms mode sat fo pos =>
    let ts := match acc with
      | some (.code q) => cellV true q :: terms
      | _ => terms
    let (v, f) := sumV (mode == 3) ts
    let (c, g) := encodeV 0 v mode sat fo (dither dph (pos % 32))
    (BitVec.ofNat 1024 c, f ||| g)

/-- The chain value a result gives before its full landing. -/
def CRes.chainVal (id : Nat) : CRes → CVal
  | .code q => .code q
  | .sum .. => .ref id

/-- Puts the resolved code of result `id` where a later result of the same cell waits for it. -/
def CRes.resolve (id : Nat) (q : Quire) : CRes → CRes
  | .sum (some (.ref i)) ts m s f p => if i = id then .sum (some (.code q)) ts m s f p else .sum (some (.ref i)) ts m s f p
  | r => r

/-- Tags a window as written (R419). -/
def Ctx.markCell (x : Ctx) (cell : Nat) : Ctx := x.mark (12288 + cell / 128)

/-- A result's chain landing. -/
def chainLand (k : Core) (r : CellResult) : Core :=
  { k with cells := r.writes.foldl (fun m w =>
      SMap.put Cell.zero m w.cell { SMap.get Cell.zero m w.cell with chain := w.val.chainVal r.id, chainF32 := w.f32 }) k.cells }

/-- One cell's full landing. -/
def fullLandOne (id : Nat) (kx : Core × Ctx) (w : CellWrite) : Core × Ctx :=
  let (k, x) := kx
  let (q, f) := w.val.eval x.ctl.dph
  let c := k.cell w.cell
  let c' : Cell := { c with q, f32 := w.f32, chain := if c.chain = .ref id then .code q else c.chain }
  ({ k with cells := SMap.put Cell.zero k.cells w.cell c' },
   { x.markCell w.cell with
     ctl := { x.ctl with fstat := x.ctl.fstat ||| f }
     cellRes := x.cellRes.map fun r => { r with writes := r.writes.map fun v =>
       if v.cell = w.cell then { v with val := v.val.resolve id q } else v } })

/-- The overflow of cell `c`, as its stop record gives it: the window, then the cell (Table 16.3). -/
def ovfDetail (c : Nat) : Nat := c / 128 + c % 128 * 256

/-- A result's full landing: cells and tags, flags, and the QUIRE_OV trap under QCTL.OVE with the address of the bundle that issued the syllable; of several the lowest cell's is reported (R220, R234, R316). DEDUCED: log entry 22. -/
def fullLand (k : Core) (x : Ctx) (r : CellResult) : Core × Ctx :=
  let (k, x) := r.writes.foldl (fullLandOne r.id) (k, x)
  let x := { x with ctl := { x.ctl with fstat := x.ctl.fstat ||| r.fl, qstat := x.ctl.qstat ||| r.qfl } }
  match r.ovf with
  | some c =>
    let first : Bool := match x.pend with
      | some (_, e, _) => decide (c < e % 256 * 128 + e / 256)
      | none => true
    if x.ctl.qctl % 2 = 1 ∧ first then (k, { x with pend := some (Cause.quireOv.code, ovfDetail c, r.pc) }) else (k, x)
  | none => (k, x)

/-- CELL_LANDING: the next due chain or full landing. -/
def landCell (k : Core) (x : Ctx) : Core × Ctx :=
  match firstBy CellResult.before (x.cellRes.filter fun r => decide (r.at_ ≤ x.bn)) with
  | none => (k, x)
  | some r =>
    let both := r.chain = r.full
    let k := if r.chained then k else chainLand k r
    if r.chained ∨ both then fullLand k { x with cellRes := dropOne r x.cellRes } r
    else (k, { x with cellRes := x.cellRes.map fun s => if s.id = r.id then { s with chained := true } else s })

/-! ### The mapping of a nest (R306, R307) -/

/-- The sums `t` + Σ i_j × STR_j over every iteration of the levels listed. -/
def tilesOf : List (Nat × Int) → List Int → List Int
  | [], ts => ts
  | (e, st) :: ls, ts =>
    tilesOf ls (ts.flatMap fun t => (List.range (if st = 0 then min e 1 else e)).map fun (k : Nat) => t + (k : Int) * st).eraseDups

/-- The first tiles of the groups that a nest names. -/
def Nest.groups (n : Nest) : List Int := tilesOf ((n.ext.take n.rank).zip n.tstr) [(n.base : Int)]

/-- The dimension of the nest's table. -/
def Nest.d (n : Nest) : Nat := tDim n.table

/-- R307: tile `t` lies in the nest's mapping. -/
def Nest.maps (n : Nest) (t : Nat) : Bool := n.groups.any fun g => decide (g ≤ t ∧ (t : Int) < g + n.d)

/-- A nest that has not completed (R74, R313). One that faulted is attempted again on resume, and an aborted one completes once the K-step it has in the array has retired with its flags, its slots and its DPH advance (R311, R313, R315). DEDUCED: log entry 108. -/
def Nest.incomplete (n : Nest) : Bool := n.state == .queued || n.state == .running || n.state == .faulted || n.cur.isSome

/-- R74: window `j` overlaps the mapping of an incomplete nest. -/
def Ctx.windowBusy (x : Ctx) (j : Nat) : Bool := x.nests.any fun n => n.incomplete && n.maps (j / 2)

/-- R299: some tile of the list overlaps the mapping of an incomplete nest. -/
def Ctx.tileBusy (x : Ctx) (ts : List Nat) : Bool := x.nests.any fun n => n.incomplete && ts.any n.maps

end Sys2Proof.Machine
end

