-- ==== Sys2Proof/Machine/Address.lean ====
section
/-!
DEFINITION. Physical addresses (R75 to R81, R424), the translation of a virtual address by a die's range copy, page cache and walk (R383 to R391), and the checks of R388 on the result.
-/

namespace Sys2Proof.Machine

/-- What lies behind a physical address (Table 3.2). -/
inductive Region where
  /-- HBM4E or LPDDR-6: its home, 0 to 7 the stacks, 8 and 9 the I/O dies, and the one address that names the byte. -/
  | home (h pa : Nat)
  | cxl (b pa : Nat)
  | host (pa : Nat)
  | aperture (core a : Nat)
  | mmio
  | riser
  | remote (slot off : Nat)
  | reserved
  deriving DecidableEq, Repr

/-- The first LPDDR-6 address. -/
def lpBase : Nat := 0x010000000000
/-- The size of the LPDDR-6 range. -/
def lpSize : Nat := 2 ^ 40
/-- The size of the LPDDR-6 riser (R424). -/
def lpRiser : Nat := 2 ^ 34

/-- The I/O die of an LPDDR-6 offset (R78). -/
def lpHome (o : Nat) : Nat := if bits o 16 12 < 16 then 8 else 9

/-- The interleaved address of a stack's byte (R77). -/
def interleaved (stack off : Nat) : Nat := off / 4096 * 32768 + stack * 4096 + off % 4096

/-- The offset of an interleaved address in its stack (R77). -/
def stackOffset (pa : Nat) : Nat := bits pa 38 15 * 4096 + pa % 4096

/-- The home of a canonical address (R77, R78). -/
def homeOf (pa : Nat) : Nat := if pa < 2 ^ 39 then bits pa 14 12 else lpHome (pa - lpBase)

namespace State

/-- An HBM4E byte, in a riser or in memory (R424). -/
def hbm (s : State) (pa : Nat) : Region :=
  if (64 - s.riser) * 2 ^ 30 ≤ stackOffset pa then .riser else .home (bits pa 14 12) pa

/-- An LPDDR-6 byte by its offset. -/
def lpddr (o : Nat) : Region := if lpSize - lpRiser ≤ o then .riser else .home (lpHome o) (lpBase + o)

/-- What lies behind a physical address; before full service the HBM4E range is served from LPDDR-6 (R468). DESIGN CHOICE: log entry 50. -/
def region (s : State) (pa : Nat) : Region :=
  let standIn := decide (s.mgmt.phase < 5)
  if pa < 0x008000000000 then (if standIn then lpddr (0x7C00000000 + pa) else s.hbm pa)
  else if pa < 0x010000000000 then
    (if standIn then .reserved else s.hbm (interleaved (bits (pa - 0x008000000000) 38 36) (pa % 2 ^ 36)))
  else if pa < 0x020000000000 then
    (if standIn && decide (0x7C00000000 ≤ pa - lpBase) then .reserved else lpddr (pa - lpBase))
  else if pa < 0x100000000000 then .reserved
  else if pa < 0x200000000000 then .cxl (bits pa 43 40) pa
  else if pa < 0x300000000000 then .host pa
  else if pa < 0xF00000000000 then .reserved
  else if pa < 0xF00100000000 then .aperture (bits pa 31 23) (pa % 2 ^ 23)
  else if pa < 0xF80000000000 then .mmio
  else if pa < 2 ^ 48 then .remote (bits pa 42 37) (pa % 2 ^ 37)
  else .reserved

/-- A physical address in HBM4E or LPDDR-6, outside the risers, as its canonical form. DESIGN CHOICE: log entry 50. -/
def dram (s : State) (pa : Nat) : Option Nat :=
  match s.region pa with
  | .home _ a => some a
  | _ => none

/-- Bytes of memory by canonical address. -/
def readMem (s : State) (pa n : Nat) : List Byte := SMap.read s.mem pa n

/-- Bytes by physical address in any form. -/
def readPhys (s : State) (pa n : Nat) : List Byte :=
  (List.range n).map fun i => SMap.get 0 s.mem ((s.dram (pa + i)).getD (pa + i))

/-- Writes bytes by physical address, outside every pour. DEDUCED: log entry 56. -/
def writePhys (s : State) (pa : Nat) (bs : List Byte) : State :=
  { s with mem := bs.zipIdx.foldl (fun m e => SMap.put 0 m ((s.dram (pa + e.2)).getD (pa + e.2)) e.1) s.mem }

/-- An 8-byte word by physical address. -/
def readWord (s : State) (pa : Nat) : Nat := ofBytes (s.readPhys pa 8)

/-! ### Translation -/

/-- A die's translations of a partition. -/
def xlat (s : State) (d p : Nat) : DieXlat := SMap.get ⟨[], []⟩ s.dies (16 * d + p)

/-- Replaces a die's translations of a partition. -/
def setXlat (s : State) (d p : Nat) (x : DieXlat) : State := { s with dies := SMap.put ⟨[], []⟩ s.dies (16 * d + p) x }

end State

/-- The outcome of a translation: a page whose `pa` is the address of its first byte, a walk to wait for, or a fault. -/
inductive Look where
  | page (g : Page)
  | miss
  | fault (cause : Nat)
  deriving DecidableEq, Repr

/-- Range entry `i` of a die's copy as a page (R383). -/
def rangeEntry (r : SMap Word) (i : Nat) : Option Page :=
  let b := SMap.get 0 r (4 * i)
  let v := fld b 55 12
  let l := fld (SMap.get 0 r (4 * i + 1)) 55 12
  let a := SMap.get 0 r (4 * i + 3)
  if b.getLsbD 0 && decide (v ≤ l) then
    some { vpn := v, span := l - v + 1, pa := fld (SMap.get 0 r (4 * i + 2)) 51 12 * 4096
           rd := a.getLsbD 0, wr := a.getLsbD 1, irrev := a.getLsbD 2, ag := fld a 7 4 }
  else none

/-- The page covers virtual page `vpn`. -/
def Page.covers (g : Page) (vpn : Nat) : Bool := decide (g.vpn ≤ vpn ∧ vpn < g.vpn + g.span)

/-- The lowest-numbered matching range entry (R383). -/
def rangeFor (r : SMap Word) (vpn : Nat) : Option Page :=
  (List.range 64).findSome? fun i => (rangeEntry r i).bind fun g => if g.covers vpn then some g else none

/-- The index of a table at level `l` (Table 15.2). -/
def walkIndex (l vpn : Nat) : Nat :=
  match l with
  | 4 => bits vpn 43 27
  | 3 => bits vpn 26 18
  | 2 => bits vpn 17 9
  | _ => bits vpn 8 0

/-- 4 KiB pages that a leaf maps (Table 15.2). -/
def leafSpan (l : Nat) (s64 : Bool) : Nat :=
  match l with
  | 3 => 262144
  | 2 => 512
  | _ => if s64 then 16 else 1

namespace State

/-- R374: the home of `pa` refuses accesses to bytes that its converter works on. -/
def converting (s : State) (pa : Nat) : Bool :=
  if pa < 2 ^ 39 then
    let x := s.stack (homeOf pa)
    let n := max (fmtWidth (bits x.runCtl 4 0)) (fmtWidth (bits x.runCtl 9 5)) * x.runCnt / 8
    let a := x.runAddr % 2 ^ 36
    x.cvstate == 1 && decide (a ≤ stackOffset pa ∧ stackOffset pa < a + n)
  else false

/-- The address lies in HBM4E or LPDDR-6, their risers among them (R386, R398, R424, R467). -/
def tableAt (s : State) (pa : Nat) : Bool :=
  match s.region pa with
  | .home _ _ => true
  | .riser => true
  | _ => false

/-- A table entry by physical address. What a riser's bytes read as is a free value. DESIGN CHOICE: log entry 94. -/
def tableWord (s : State) (pa : Nat) : Nat :=
  match s.region pa with
  | .riser => ofBytes ((List.range 8).map fun i => Config.remote s.free (pa + i))
  | _ => s.readWord pa

end State

/-- R386: the walk from a table of level `l`. A table word that a converter works on is refused (R374). DEDUCED: log entry 54. -/
def walkFrom (s : State) (vpn : Nat) : Nat → Nat → Look
  | 0, _ => .fault Cause.ptFormat.code
  | l + 1, table =>
    let at_ := table + 8 * walkIndex (l + 1) vpn
    let e := s.tableWord at_
    let leaf := bit e 1
    let s64 := bit e 5
    let pa := bits e 51 12 * 4096
    let span := leafSpan (l + 1) s64
    if s.converting ((s.dram at_).getD at_) then .fault Cause.convertBusy.code
    else if !bit e 0 then .fault Cause.transMiss.code
    else if bits e 63 52 != 0 || bits e 11 10 != 0 || (l == 3 && leaf) || (l == 0 && !leaf) || (s64 && l != 0) ||
        (!leaf && bits e 9 2 != 0) || (leaf && pa % (4096 * span) != 0) then .fault Cause.ptFormat.code
    else if leaf then .page { vpn := vpn / span * span, span, pa, rd := bit e 2, wr := bit e 3, irrev := bit e 4, ag := bits e 9 6 }
    else if !s.tableAt pa then .fault Cause.ptFormat.code
    else walkFrom s vpn l pa

/-- A whole walk under a die's root register (R385, R386). -/
def walk (s : State) (d p vpn : Nat) : Look :=
  let root := SMap.get 0 (s.xlat d p).ranges 256
  if !root.getLsbD 0 then .fault Cause.transMiss.code
  else
    let t := fld root 51 20 * 2 ^ 20
    if !s.tableAt t then .fault Cause.ptFormat.code else walkFrom s vpn 4 t

/-- A lookup without waiting: the die's range copy, then its page cache (R390); at D2 the range copy alone (R391). -/
def lookup (s : State) (d p vpn : Nat) : Look :=
  let x := s.xlat d p
  match rangeFor x.ranges vpn with
  | some g => .page g
  | none =>
    if (s.part p).level = 2 then .fault Cause.transMiss.code
    else match x.pages.find? fun g => g.covers vpn with
      | some g => .page g
      | none => if (SMap.get 0 x.ranges 256).getLsbD 0 then .miss else .fault Cause.transMiss.code

/-- A lookup that walks at once where it misses: dispatch reads and the hops of ACHASE. -/
def lookupNow (s : State) (d p vpn : Nat) : Look :=
  match lookup s d p vpn with
  | .miss => walk s d p vpn
  | r => r

/-- A lookup on behalf of a waiter: a walk's answer held for it comes first, and a miss joins or starts a walk (R390). A translation engine that has stopped in a halt starts none: the request waits in its engine (R400). -/
def lookupFor (s : State) (who : Waiter) (d p vpn : Nat) : State × Look :=
  match s.grants.find? fun g => g.who == who && g.part == p && (match g.page with
      | some pg => pg.covers vpn
      | none => g.vpn == vpn) with
  | some g => match g.page with
    | some pg => (s, .page pg)
    | none => ({ s with grants := s.grants.filter fun h => h != g }, .fault g.cause)
  | none =>
    match lookup s d p vpn with
    | .miss =>
      let mine (w : PWalk) : Bool := w.die == d && w.part == p && w.vpn == vpn && !w.stale
      if s.walks.any fun w => mine w && w.joined.contains who then (s, .miss)
      else if s.walks.any fun w => w.vpn == vpn && w.part == p && w.die == d && w.joined.contains who then (s, .miss)
      else if s.walks.any mine then
        ({ s with walks := s.walks.map fun w => if mine w then { w with joined := w.joined ++ [who] } else w }, .miss)
      else if !s.works p (unitXlat d) then (s, .miss)
      else ({ s with walks := s.walks ++ [⟨d, p, vpn, [who], false⟩] }, .miss)
    | r => (s, r)

/-- A waiter waits no longer: what walks bring or have brought for it is dropped (R390, R393). -/
def State.forget (s : State) (who : Waiter) : State :=
  { s with grants := s.grants.filter fun g => g.who != who
           walks := s.walks.map fun w => { w with joined := w.joined.filter (· != who) } }

/-- The grants of a waiter are used up. -/
def dropGrants (s : State) (who : Waiter) : State := { s with grants := s.grants.filter fun g => g.who != who }

/-- TRANSLATION_WALK_COMPLETE: walk `k` reads the tables; its result goes to the die's page cache, and to the requests that joined it where it is not cached (R386, R390, R393). Lines read through such a page are not kept in a window, so that no later stream finds them there (R395). DEDUCED: log entry 54. -/
def walkComplete (k : Nat) (s : State) : Option State := do
  let w ← s.walks[k]?
  if s.works w.part (unitXlat w.die) then
    let s1 := { s with walks := dropAt s.walks k }
    match walk s w.die w.part w.vpn with
    | .page g =>
      if w.stale then some { s1 with grants := s1.grants ++ w.joined.map fun j => ⟨j, w.part, w.vpn, some { g with stale := true }, 0⟩ }
      else
        let x := s.xlat w.die w.part
        some (s1.setXlat w.die w.part { x with pages := g :: x.pages })
    | .fault c => some { s1 with grants := s1.grants ++ w.joined.map fun j => ⟨j, w.part, w.vpn, none, c⟩ }
    | .miss => some s1
  else none

/-! ### Checks on the physical address -/

/-- What an access does (R388, check 3). -/
inductive Access where
  | read | write
  /-- An atomic, ARED or JCB operation. -/
  | both
  /-- AOP `.ld` or a hop of ACHASE: an atomic that reads. -/
  | load
  deriving DecidableEq, Repr

/-- An atomic, ARED or JCB operation (R388, check 5). -/
def atomicAccess : Access → Bool
  | .both => true
  | .load => true
  | _ => false

/-- Where an access goes. -/
inductive Target where
  | home (h pa : Nat)
  | cxl (b pa : Nat)
  | host (pa : Nat)
  | core (c a : Nat)
  /-- Through berth `b` to another module, at its physical address. -/
  | remote (b module pa : Nat)
  deriving DecidableEq, Repr

/-- A checked access: its target, its page's IRREV and alias group, and whether its translation is older than an invalidation. -/
structure Access.Ok where
  tgt : Target
  irrev : Bool
  ag : Nat
  stale : Bool
  deriving DecidableEq, Repr

/-- The personality of a berth. -/
def Berth.isUal (b : Berth) : Bool := b.cur == 2
def Berth.isUet (b : Berth) : Bool := b.cur == 3

/-- R444: the berth of module `m`, or the fault. DEDUCED: log entry 73. -/
def route (s : State) (m : Nat) : Nat ⊕ Nat :=
  let r := SMap.get 0 s.mroute m
  let b := fld r 19 16
  if !r.getLsbD 63 then .inr Cause.remoteUnmapped.code
  else if ((s.berth b).isUal || (s.berth b).isUet) && !(s.berth b).down then .inl b
  else .inr Cause.berthGone.code

/-- R388, checks 4 and 5, on an address of this module that another module's window, or a page, gives. `copy` admits the aperture. DEDUCED: log entry 49. -/
def checkLocal (s : State) (p : Nat) (kind : Access) (irrev copy : Bool) (viaRemote : Bool) (pa : Nat) : Target ⊕ Nat :=
  match s.region pa with
  | .reserved => .inr (if viaRemote then Cause.remoteUnmapped.code else Cause.paReserved.code)
  | .mmio => .inr Cause.prot.code
  | .riser => .inr Cause.prot.code
  | .remote _ _ => .inr Cause.remoteUnmapped.code
  | .cxl b a =>
    if (s.berth b).cur ≠ 1 ∨ (s.berth b).down then .inr Cause.berthGone.code
    else if atomicAccess kind then .inr Cause.atomicTarget.code else .inl (.cxl b a)
  | .host a => if atomicAccess kind then .inr Cause.atomicTarget.code else .inl (.host a)
  | .aperture c a =>
    if atomicAccess kind then .inr Cause.atomicTarget.code
    else if copy && (s.part p).holds c then .inl (.core c a) else .inr Cause.prot.code
  | .home h a => if atomicAccess kind && irrev then .inr Cause.atomicTarget.code else .inl (.home h a)

/-- R388, checks 4 and 5. -/
def checkPhys (s : State) (p : Nat) (kind : Access) (irrev copy : Bool) (pa : Nat) : Target ⊕ Nat :=
  match s.region pa with
  | .remote j o =>
    let w := SMap.get 0 (s.part p).rwin j
    let m := fld w 11 0
    let ra := fld w 38 24 * 2 ^ 37 + o
    if !w.getLsbD 63 then .inr Cause.remoteUnmapped.code
    else if m = s.modid then checkLocal s p kind irrev copy true ra
    else match route s m with
      | .inr c => .inr c
      | .inl b =>
        if atomicAccess kind && (irrev || (s.berth b).isUet) then .inr Cause.atomicTarget.code else .inl (.remote b m ra)
  | _ => checkLocal s p kind irrev copy false pa

/-- R388, checks 3 to 5: an access to virtual address `va` through its page. -/
def checkPage (s : State) (p : Nat) (kind : Access) (copy : Bool) (g : Page) (va : Nat) : Access.Ok ⊕ Nat :=
  let need := match kind with
    | .read => g.rd
    | .write => g.wr
    | .both => g.rd && g.wr
    | .load => g.rd
  if !need then .inr Cause.prot.code
  else match checkPhys s p kind g.irrev copy ((va - g.vpn * 4096 + g.pa) % 2 ^ 52) with
    | .inl t => .inl ⟨t, g.irrev, g.ag, g.stale⟩
    | .inr c => .inr c

/-- An access that may have to wait for a walk: its target, a miss, or its fault (R388). -/
inductive Reach where
  | ok (a : Access.Ok)
  | miss
  | fault (cause : Nat)
  deriving DecidableEq, Repr

/-- R388 over a looked-up page. -/
def reachOf (s : State) (p : Nat) (kind : Access) (copy : Bool) (va : Nat) : Look → Reach
  | .miss => .miss
  | .fault c => .fault c
  | .page g => match checkPage s p kind copy g va with
    | .inl a => .ok a
    | .inr c => .fault c

/-- The whole of R388 for an access that waits for its walks. -/
def reach (s : State) (who : Waiter) (d p : Nat) (kind : Access) (copy : Bool) (va : Nat) : State × Reach :=
  if 2 ^ 56 ≤ va then (s, .fault Cause.addrNoncanonical.code)
  else
    let (s, r) := lookupFor s who d p (va / 4096)
    (s, reachOf s p kind copy va r)

/-- The whole of R388 for an access that walks at once. -/
def reachNow (s : State) (d p : Nat) (kind : Access) (va : Nat) : Reach :=
  if 2 ^ 56 ≤ va then .fault Cause.addrNoncanonical.code
  else reachOf s p kind false va (lookupNow s d p (va / 4096))

/-- A pointer translates to HBM4E or LPDDR-6 memory of this module (R352, R371). DEDUCED: log entry 43. -/
def pointsHome (s : State) (d p : Nat) (va : Nat) : Bool :=
  if 2 ^ 56 ≤ va then false
  else match lookupNow s d p (va / 4096) with
    | .page g =>
      let pa := (va - g.vpn * 4096 + g.pa) % 2 ^ 52
      let pa := match s.region pa with
        | .remote j o =>
          let w := SMap.get 0 (s.part p).rwin j
          if w.getLsbD 63 ∧ fld w 11 0 = s.modid then fld w 38 24 * 2 ^ 37 + o else pa
        | _ => pa
      match s.region pa with
      | .home _ _ => true
      | .riser => true
      | _ => false
    | _ => false

end Sys2Proof.Machine
end

