-- ==== Sys2Proof/Machine/Homes.lean ====
section
/-!
DEFINITION. The homes of lines: logged writes with their riser entries (R426 to R428), held writes (R429 to R431), fault injection (R440), the converter's refusal (R374), requests for seals (R432), and the performing of a plain write packet.
-/

namespace Sys2Proof.Machine

namespace State

/-! ### Seal groups -/

/-- The enabled partitions of this module in partition `p`'s group, ascending (R423). -/
def group (s : State) (p : Nat) : List Nat :=
  (List.range 16).filter fun q => (s.part q).en && (s.part q).gid == (s.part p).gid

/-- The partition that keeps the group's requests and its seal: the lowest-numbered member. DEDUCED: log entry 70. -/
def lead (s : State) (p : Nat) : Nat := (s.group p).headD p

/-- Module `m` is in partition `p`'s group (R423). -/
def inGroup (s : State) (p m : Nat) : Bool :=
  let q := s.part p
  if q.gmem = 0 then m == s.modid
  else (ofBytes (s.readPhys (q.gmem + m / 8) 1)).testBit (m % 8)

/-- Records a request for a seal (R432). DEDUCED: log entry 67. -/
def requestSeal (s : State) (p : Nat) (r : SealReq) : State :=
  s.onPart (s.lead p) fun q => { q with reqs := if q.reqs.contains r then q.reqs else q.reqs ++ [r] }

/-- The current pour of `p`'s group now holds a write; a timer that has expired since the last commit asks for its seal (R432). -/
def wroteIn (s : State) (p : Nat) : State :=
  let l := s.lead p
  let q := s.part l
  if q.wrote then s
  else
    let s := s.onPart l fun q => { q with wrote := true }
    if q.timed && q.sealing.all (fun w => w.step != 2) then s.requestSeal l .plain else s

/-! ### Risers -/

/-- A riser's size in bytes (R424). -/
def riserSize (s : State) (h : Nat) : Nat := if h < 8 then s.riser * 2 ^ 30 else lpRiser / 2

/-- The bytes that live entries take (R428). -/
def riserUsed (s : State) (h : Nat) : Nat :=
  (s.risers.getD h []).foldl (fun n e => n + if e.cell then 144 else 80) 0

/-- The groups with live entries in a riser that has reached 75 % ask for a seal (R437). -/
def pressure (s : State) (h : Nat) : State :=
  if 3 * s.riserSize h ≤ 4 * s.riserUsed h then
    (s.risers.getD h []).foldl (fun s e => s.requestSeal e.part .plain) s
  else s

/-- Appends an entry to home `h`'s riser; none while it has no room. -/
def append (s : State) (h : Nat) (e : RiserEntry) : Option State :=
  if s.riserUsed h + (if e.cell then 144 else 80) ≤ s.riserSize h then
    some ({ s with risers := s.risers.set h (s.risers.getD h [] ++ [e]) }.pressure h)
  else none

/-- R427: logs a line in the pour of partition `p`, if that pour has not logged it. -/
def logLine (s : State) (p line : Nat) : Option State :=
  let q := s.part p
  let low := q.cur % 65536
  if SMap.get 0xFFFF s.lmeta line = low then some s
  else (s.append (homeOf (64 * line)) ⟨64 * line, q.cur, false, p, q.gid, s.readMem (64 * line) 64⟩).map fun s =>
    { s with lmeta := SMap.put 0xFFFF s.lmeta line low }

/-- R369: logs a crucible cell of stack `k`, unless the riser already holds its entry of this pour. -/
def logCell (s : State) (p k cell : Nat) : Option State :=
  let q := s.part p
  if (s.risers.getD k []).any fun e => e.cell && e.addr == cell && e.pour == q.cur && e.gid == q.gid then some s
  else s.append k ⟨cell, q.cur, true, p, q.gid, bytesOf (SMap.get 0 (s.stack k).cells cell).toNat 128⟩

/-! ### Faults found at homes -/

/-- The stop-record slot of a fault found at home `h` (R403): the stack, or the engine whose access raised it. -/
def homeUnit (h unit : Nat) : Nat := if h < 8 then unitStack h else unit

/-- An engine's fault, raised once: none if it already stands in the halt. -/
def faultOnce (s : State) (p unit cause tag va count job : Nat) : Option State :=
  match (s.part p).halt with
  | some h => if h.faults.any fun f => f.unit == unit && f.cause == cause && f.tag == tag && f.va == va then none
      else some (s.engineFault p unit cause tag va count job)
  | none => some (s.engineFault p unit cause tag va count job)

/-- An armed injection takes note of the writes of `n` elements to the line of `a` (R440). -/
def inject (s : State) (p n unit a : Nat) : State :=
  if s.inj.getLsbD 63 ∧ fld s.inj 51 48 = p ∧ fld s.inj 47 32 = (s.part p).cur % 65536 then
    { s with injSeen := insertBy (fun x y => decide (x.home < y.home ∨ x.home = y.home ∧ x.line < y.line)) ⟨homeOf a, a / 64, n, unit, p⟩ s.injSeen }
  else s

/-- An armed injection counts one note; at the Nth write it strikes (R440). -/
def injectOne (s : State) (w : InjWrite) : State :=
  if !s.inj.getLsbD 63 then s
  else
    let c := s.injCount + w.n
    let s := { s with injCount := c }
    if fld s.inj 27 0 ≤ c ∧ 0 < fld s.inj 27 0 then
      let s := { s with inj := s.inj &&& 0x7FFFFFFFFFFFFFFF#64 }
      if s.inj.getLsbD 62 then { s with injHeld := some w.part }
      else s.engineFault w.part (homeUnit w.home w.unit) Cause.uncorrectable.code 0 0 0 0
    else s

/-- The writes of a cycle are counted, by home number and then by line address (R440). -/
def countInjected (s : State) : State := s.injSeen.foldl injectOne { s with injSeen := [] }

/-! ### Writes -/

/-- Writes masked bytes into memory. -/
def mergeBytes (m : SMap Byte) : List MByte → SMap Byte
  | [] => m
  | (a, v, k) :: l => mergeBytes (SMap.put 0 m a ((SMap.get 0 m a &&& ~~~k) ||| (v &&& k))) l

/-- R427: a logged write of `n` elements by partition `p` into one line; none while the riser has no room. DESIGN CHOICE: log entry 97. -/
def homeWrite (s : State) (p unit n : Nat) (bs : List MByte) : Option State :=
  match bs with
  | [] => some s
  | (a, _, _) :: _ => (s.logLine p (a / 64)).map fun s =>
    ({ s with mem := mergeBytes s.mem bs }.wroteIn p).inject p n unit a

/-- R427 for whole bytes from `pa` upward, inside one line. -/
def homeStore (s : State) (p unit pa : Nat) (bs : List Byte) : Option State :=
  s.homeWrite p unit 1 (bs.zipIdx.map fun e => (pa + e.2, e.1, 0xFF#8))

/-! ### Held writes -/

/-- The size of a hold buffer (R429). -/
def holdMax : Nat := 8 * 2 ^ 20

/-- The bytes that a hold buffer holds. DEDUCED: log entry 52. -/
def holdBytes (l : List Held) : Nat := l.foldl (fun n e => n + e.bytes.length) 0

/-- The hold buffer of a path: berth `b`, or 16 for the host port. -/
def holdOf (s : State) (b : Nat) : List Held := if b < 16 then (s.berth b).hold else s.hostHold

/-- Replaces a hold buffer. -/
def setHold (s : State) (b : Nat) (l : List Held) : State :=
  if b < 16 then s.onBerth b fun x => { x with hold := l } else { s with hostHold := l }

/-- The hold buffer of path `b` has room for `n` bytes; a full one accepts nothing more (R430). -/
def holdRoom (s : State) (b n : Nat) : Bool := decide (holdBytes (s.holdOf b) + n ≤ holdMax ∧ holdBytes (s.holdOf b) < holdMax)

/-- A write enters a hold buffer (R429); at 75 % every group with writes there asks for a seal (R431). None while there is no room (R430). -/
def holdWrite (s : State) (p b module : Nat) (bs : List MByte) : Option State :=
  let l := s.holdOf b
  if s.holdRoom b bs.length then
    let q := s.part p
    let l := l ++ [⟨p, q.gid, q.cur, module, bs, false⟩]
    let s := (s.setHold b l).wroteIn p
    some (if 3 * holdMax ≤ 4 * holdBytes l then l.foldl (fun s e => s.requestSeal e.part .plain) s else s)
  else none

/-- R429: a write to `t` is held. -/
def mustHold (s : State) (p : Nat) (t : Target) (irrev : Bool) : Bool :=
  match t with
  | .home _ _ => irrev
  | .cxl _ _ => true
  | .host _ => true
  | .core _ _ => false
  | .remote b m _ => irrev || (s.berth b).isUet || !s.inGroup p m

/-- The hold buffer on a target's path; an IRREV page of this module's memory has none of its own, and the host port holds it. -/
def holdAt : Target → Nat
  | .cxl b _ => b
  | .remote b _ _ => b
  | _ => 16

/-- A berth accepts a request now: it is up, its link answers, and its key is not exhausted (R449, R451, R443). -/
def berthOpen (s : State) (b : Nat) : Bool := let x := s.berth b; x.state == 3 && !x.kexh && !x.down && decide (x.ktx < x.klimit)

/-- Berth `b` takes packet `x`, or has taken it before it stopped and still serves it, as far as its key lasts (R449, step 2, R451). DESIGN CHOICE: log entry 105. -/
def berthServes (s : State) (b : Nat) (x : Packet) : Bool :=
  let t := s.berth b
  s.berthOpen b || (x.inside && t.state == 1 && !t.down && !t.kexh && decide (t.ktx < t.klimit))

/-- A reply that berth `b` owes can leave: also while it drains, unless its key is exhausted (R449, R451). -/
def berthReplies (s : State) (b : Nat) : Bool :=
  let t := s.berth b
  (t.state == 3 || t.state == 1) && !t.down && !t.kexh && decide (t.ktx < t.klimit)

/-- Command `tag` of core `c` still waits for a berth: its engine works and has it to send. -/
def awaits (s : State) (c tag : Nat) : Bool :=
  (s.ctx c).any fun x => s.works x.part (unitLanding c) && x.lq.any fun q => q.tag == tag && q.sent.isNone && !q.faulted

/-- No other command has reached berth `b` before command `tag` of core `c` and waits there still (R449, step 5, R452). -/
def firstAt (s : State) (b c tag : Nat) : Bool :=
  (((s.berth b).order.filter fun e => s.awaits e.1 e.2).head?).all fun e => e == (c, tag)

/-- Command `tag` of core `c` waits at berth `b` (R449, step 1). -/
def waitAt (s : State) (b c tag : Nat) : State :=
  s.onBerth b fun x => { x with order := if x.order.contains (c, tag) then x.order else x.order ++ [(c, tag)] }

/-- Command `tag` of core `c` has entered berth `b`. -/
def entered (s : State) (b c tag : Nat) : State := s.onBerth b fun x => { x with order := x.order.filter fun e => e != (c, tag) }

/-- A berth still brings replies: also while it drains, and while its key is exhausted (R449, R451). -/
def berthAnswers (s : State) (b : Nat) : Bool := let x := s.berth b; (x.state == 3 || x.state == 1) && !x.down

/-- A request's flits leave through berth `b`; how many they are is a free value (R451). DESIGN CHOICE: log entry 14. -/
def flit (s : State) (b : Nat) : State :=
  let (u, s) := s.choose
  s.onBerth b fun x => { x with ktx := min x.klimit (x.ktx + Config.flits u) }

end State

/-! ### Plain write packets -/

/-- The module a target lies on. -/
def Target.module (s : State) : Target → Nat
  | .remote _ m _ => m
  | _ => s.modid

/-- The physical address of a target, as its own module names it. -/
def Target.addr : Target → Nat
  | .home _ a => a
  | .cxl _ a => a
  | .host a => a
  | .core _ a => a
  | .remote _ _ a => a

/-- Where a packet to a target travels. -/
def Target.dest : Target → Dest
  | .home h _ => .home h
  | .cxl b _ => .berth b 4096
  | .host _ => .host
  | .core c _ => .core c
  | .remote b m _ => .berth b m

namespace Copy

/-- The elements, from its first on, whose writes a copy has sent. -/
def reach (k : Copy) : Nat := k.bursts.foldl (fun n b => if b.lo ≤ n then max n b.pos else n) k.done

/-- The engine that runs element `i` of a copy. -/
def engineAt (k : Copy) (i : Nat) : Nat := ((k.bursts.find? fun b => decide (b.lo ≤ i ∧ i < b.hi)).map Burst.engine).getD k.engine

/-- The longest run of elements, from its first on, all of whose bytes have been performed, in whole elements of the copy (R330). -/
def performed (s : State) (k : Copy) : Nat :=
  s.fabric.foldl (fun n q => if q.origin = .copy k.id then min n q.elem else n) k.reach / k.unit * k.unit

/-- The bytes of a run of `n` elements of `w` bits. -/
def bytesIn (k : Copy) (n : Nat) : Nat := n * k.w / 8

/-- The bytes completed (R325, R330). -/
def bytes (s : State) (k : Copy) : Nat := k.bytesIn (k.performed s)

end Copy

/-- A copy by its number. -/
def State.copy (s : State) (id : Nat) : Option Copy := s.copies.find? fun k => k.id == id

/-- The unit whose slot reports a fault of a packet's origin, at element `i` of a copy. -/
def Origin.unit (s : State) (i : Nat) : Origin → Nat
  | .land c _ => unitLanding c
  | .flag c _ => unitLanding c
  | .stream c _ => unitStream c
  | .copy id => match s.copy id with
    | some k => unitCopy k.die (k.engineAt i)
    | none => unitCopy 0 0
  | .log p _ => unitDispatch (s.part p).originDie
  | .node p _ _ => unitDispatch (s.part p).originDie
  | .notify p => unitDispatch (s.part p).originDie
  | .berth _ _ => unitRecovery

/-- The unit whose slot reports a fault of a packet. -/
def Packet.owner (s : State) (x : Packet) : Nat := x.origin.unit s x.elem

/-- The command tag of a packet's origin. -/
def Origin.tag (s : State) : Origin → Nat
  | .land _ t => t
  | .flag _ t => t
  | .stream _ j => j
  | .copy id => match (s.copy id).map Copy.by_ with
    | some (.cpy _ _ t _ _) => t
    | _ => 0
  | _ => 0

/-- The stack engines work for a partition through a halt until their bound (R381). -/
def homeWorks (s : State) (p h : Nat) : Bool := s.works p (if h < 8 then unitStack h else unitStack 0)

/-- A packet goes to a home of this module: the addresses of the others are another module's or a device's. -/
def Dest.isHome : Dest → Bool
  | .home _ => true
  | _ => false

/-- The bytes of packets on their way to a line. -/
def Packet.line (k : Packet) : Option Nat :=
  match k.body with
  | .write ((a, _, _) :: _) _ _ => some (a / 64)
  | .read _ _ l => some l
  | _ => none

/-- The core whose stream a packet serves. -/
def Packet.streamCore (k : Packet) : Option Nat :=
  match k.origin with
  | .stream c _ => some c
  | _ => none

/-- The partition whose retirement log a packet writes. -/
def Packet.logPart (k : Packet) : Option Nat :=
  match k.origin with
  | .log p _ => some p
  | _ => none

/-- Packet `k` may go before those ahead of it: none of them comes from the same engine with the same line (R85, R107, R261, R321). -/
def inOrder (s : State) (k : Nat) : Bool :=
  match s.fabric[k]? with
  | none => false
  | some x => (s.fabric.take k).all fun y =>
      !(x.line.isSome && x.line == y.line && y.dest == x.dest &&
        (x.origin == y.origin || (x.streamCore.isSome && x.streamCore == y.streamCore) || (x.logPart.isSome && x.logPart == y.logPart)))

/-- A write of core `c`'s own streams is on its way to a line among the packets `ps`: the core's window shows it already, so no atomic and no copy of the core reads the line before it (R85, R87). A held write is performed at nobody. DESIGN CHOICE: log entry 113. -/
def ownWriteIn (ps : List Packet) (c : Nat) (d : Dest) (line : Nat) : Bool :=
  ps.any fun y => y.streamCore == some c && y.dest == d && y.line == some line && match y.body with
    | .write _ _ held => !held
    | _ => false

/-- The path of a packet still exists (R443, R444, R449): a CXL window's berth is CXL, and a route's is UAL or UET. -/
def pathOk (s : State) (x : Packet) : Bool :=
  match x.dest with
  | .berth b m =>
    let t := s.berth b
    !t.down && (if m = 4096 then t.cur == 1 else t.isUal || t.isUet)
  | _ => true

/-- The bytes completed of the copy that a packet serves (R330), or the elements of the stream (R278): those before the first that a packet still carries. -/
def Origin.count (s : State) : Origin → Nat
  | .copy id => ((s.copy id).map fun k => k.bytes s).getD 0
  | .stream c j => match (s.ctx c).bind fun x => x.stream j with
    | some st => if st.pos = st.sent ∨ (st.mode ≠ .out ∧ st.mode ≠ .drain) then st.pos
      else s.fabric.foldl (fun n q => if q.origin = .stream c j then min n q.elem else n) st.sent
    | none => 0
  | _ => 0

/-- The stream that a packet of `o` serves is stopped in the halt that stands (R278). -/
def Origin.stop (s : State) (p : Nat) : Origin → State
  | .stream c j => s.onPart p fun q => { q with halt := q.halt.map fun h => { h with down := h.down ++ [(c, j)] } }
  | _ => s

/-- The stream that a packet of `o` serves has been stopped by a fault found at a home. -/
def Origin.stopped (s : State) (p : Nat) : Origin → Bool
  | .stream c j => (s.part p).halt.any fun h => h.down.contains (c, j)
  | _ => false

/-- Queue and index of a record, as a stop record gives them (Table 16.3). -/
def Src.detail (r : Src) : Nat := r.queue % 16 + r.index % 2 ^ 32 * 2 ^ 16

/-- Queue and index of the record whose log or copy a packet serves (Table 16.3). DEDUCED: log entry 45. -/
def Origin.detail (s : State) : Origin → Nat
  | .log p i => (((s.part p).logs.find? fun l => l.id == i).map fun l => l.src.detail).getD 0
  | .copy id => match (s.copy id).map Copy.by_ with
    | some (.record src _ _) => src.detail
    | _ => 0
  | _ => 0

/-- A packet of the stream engine. -/
def Origin.isStream : Origin → Bool
  | .stream _ _ => true
  | _ => false

/-- A fault of a packet under its command's tag, with a copy's completed prefix, raised once in a halt. -/
def packetFault (s : State) (x : Packet) (unit cause : Nat) : Option State :=
  let tag := x.origin.tag s
  if x.origin.stopped s x.part || (!x.origin.isStream && (s.part x.part).halt.any fun h => h.faults.any fun f => f.unit == unit && f.cause == cause && f.tag == tag) then none
  else some (x.origin.stop (s.raise x.part { unit, kind := unitKind unit, cause, tag, pc := 0, va := x.va, count := x.origin.count s, detail := x.origin.detail s
                                             job := x.job, syl := 0, slot := 0, cycle := s.cycle }) x.part)

/-- A packet whose path no longer exists faults (R443, R449). -/
def pathFault (s : State) (x : Packet) : Option State := packetFault s x (x.owner s) Cause.berthGone.code

/-- The first of a list of causes that another module gives for an access, or none: what its maps and keys hold is not this module's to say. DESIGN CHOICE: log entry 13. -/
def causeOf (s : State) (cs : List Cause) : Option Nat :=
  (cs.zipIdx.find? fun e => Config.race 512 s.free e.2).map fun e => e.1.code

/-- A read of another module, or a write to it, is refused there with PROT where no partition of it admits the sender's key (R445), and reports REMOTE_UNMAPPED where it falls in that module's remote-module window or in a range that it reserves (R80), and CONVERT_BUSY where a converter works there (R374). DESIGN CHOICE: log entry 13. -/
def remoteCause (s : State) : Option Nat := causeOf s [.prot, .remoteUnmapped, .convertBusy]

/-- What a landing command may be refused for at another module (R80, R81, R128, R345, R353, R374, R445). -/
def LOp.causes : LOp → List Cause
  | .put _ t _ _ _ _ => if bit t 53 then [.prot, .ringRole] else [.prot]
  | .sig _ _ => [.prot]
  | .ared .. => [.prot, .remoteUnmapped, .atomicTarget, .crucibleRange]
  | .aredFin .. => [.prot, .remoteUnmapped, .atomicTarget, .crucibleRange, .convertBusy]
  | .jraise .. => [.prot, .remoteUnmapped, .atomicTarget, .convertBusy, .jcbDone, .jcbOver]
  | .jpost .. => [.prot, .remoteUnmapped, .atomicTarget, .convertBusy, .jcbOver]
  | _ => [.prot, .remoteUnmapped, .atomicTarget, .convertBusy]

/-- What a write that is to be held may be refused for at another module (R80, R81, R445). DESIGN CHOICE: log entry 92. -/
def heldCause (s : State) (x : Packet) : Option Nat :=
  match x.dest with
  | .berth _ m =>
    if m = 4096 ∨ m = s.modid then none
    else match x.origin with
      | .land c t => causeOf s ((((s.ctx c).bind fun y => y.lq.find? fun e => e.tag == t && e.sent.isSome).map fun e => e.op.causes).getD [])
      | _ => remoteCause s
  | _ => none

/-- What another module refuses of a packet to it. DESIGN CHOICE: log entry 13. -/
def remoteMiss (s : State) (x : Packet) : Option Nat :=
  match x.dest with
  | .berth _ m => if m ≠ 4096 then remoteCause s else none
  | _ => none

/-- Physical bytes that BAR2 or BAR4 decodes (Table 18.4). -/
def inBar (pa n : Nat) : Bool := decide (pa + n ≤ 0x008000000000 ∨ (0x010000000000 ≤ pa ∧ pa + n ≤ 0x020000000000))

/-- A host write through BAR2 or BAR4, unlogged and in no pour; outside them it completes as Unsupported Request (R453). -/
def hostWrite (s : State) (pa : Nat) (bs : List Byte) : State :=
  if inBar pa bs.length && bs.zipIdx.all fun e => (s.dram (pa + e.2)).isSome then s.writePhys pa bs else s

/-- What the host reads through BAR2 or BAR4, each byte at its home; nothing where the read completes as Unsupported Request (R453). What a riser's bytes read as is a free value. DESIGN CHOICE: log entry 94. -/
def hostRead (s : State) (pa n : Nat) : Option (List Byte) :=
  if inBar pa n then some ((List.range n).map fun i => match s.dram (pa + i) with
    | some a => SMap.get 0 s.mem a
    | none => Config.remote s.free (pa + i))
  else none

/-- The reply to a request; one from another module is owed through its berth (R377, R449). -/
def replyTo (s : State) (q : Packet) (r : Reply) : State :=
  let d := match q.origin with
    | .berth b _ => Dest.berth b ((q.src - 512) / 512)
    | _ => .core (q.src % 512)
  { s with fabric := s.fabric ++ [{ q with dest := d, body := .reply r, since := none, inside := false }] }

/-- A write of another module has been performed, or turned away: its reply. -/
def replyInbound (s : State) (q : Packet) (r : Reply) : State :=
  match q.origin with
  | .berth _ _ => replyTo s q r
  | _ => s

/-- HOME_LINE_WRITE: a write packet is performed at its home (R427), or leaves through its berth; one that finds an Ultra Ethernet berth there is held (R447). DEDUCED: log entry 56. -/
def homeLineWrite (w : HomeWrite) (s : State) : Option State :=
  match w with
  | .host pa bs => some (hostWrite s pa bs)
  | .fabric k => do
    let x ← s.fabric[k]?
    let s1 := { s with fabric := dropAt s.fabric k }
    match x.body with
    | .write bs n irrev =>
      if !inOrder s k then none
      else if !pathOk s x then pathFault s x
      else match x.dest with
        | .home h =>
          if !homeWorks s x.part h then none
          else if bs.any fun b => s.converting b.1 then match x.origin with
            | .berth _ _ => some (replyTo s1 x (.fault Cause.convertBusy.code x.va h))
            | _ => packetFault s x (State.homeUnit h (x.owner s)) Cause.convertBusy.code
          else if irrev then none
          else (s1.homeWrite x.part (x.owner s) n bs).map fun s => replyInbound s x .done
        | .berth b m =>
          if irrev then none
          else if (s.berth b).isUet && m != 4096 then some { s with fabric := s.fabric.set k { x with body := .write bs n true, since := none } }
          else if !s.berthServes b x then none
          else match remoteMiss s x with
            | some cause => packetFault { s with free := s.free + 1 } x (x.owner s) cause
            | none => some ((s1.flit b).wroteIn x.part)
        | _ => none
    | _ => none

/-- The hold buffer that a held write packet waits for. DEDUCED: log entry 51. -/
def Packet.holdAt (k : Packet) : Option Nat :=
  match k.body, k.dest with
  | .write _ _ true, .berth b _ => some b
  | .write _ _ true, _ => some 16
  | _, _ => none

/-- An engine, by the origins of its packets, has a write to be held that finds no room: it stalls (R430). -/
def State.heldUp (s : State) (mine : Origin → Bool) : Bool :=
  s.fabric.any fun q => mine q.origin && match q.holdAt, q.body with
    | some b, .write bs _ _ => !s.holdRoom b bs.length
    | _, _ => false

/-- HOLD_BUFFER_ENTRY: packet `k` enters its hold buffer, in the order of its engine, while its berth takes requests (R429, R430, R449). DEDUCED: log entry 51. -/
def holdBufferEntry (k : Nat) (s : State) : Option State := do
  let x ← s.fabric[k]?
  let b ← x.holdAt
  let m := match x.dest with
    | .berth _ m => m
    | _ => s.modid
  match x.body with
  | .write bs _ _ =>
    if (s.fabric.take k).any fun y => y.origin == x.origin && y.holdAt.isSome then none
    else if !pathOk s x then pathFault s x
    else if b < 16 && (s.berth b).state != 3 then none
    else match heldCause s x with
    | some cause => packetFault { s with free := s.free + 1 } x (x.owner s) cause
    | none => State.holdWrite { s with fabric := dropAt s.fabric k } x.part b m bs
  | _ => none

end Sys2Proof.Machine
end

