-- ==== Sys2Proof/Machine/Sequencer.lean ====
section
/-!
DEFINITION. The B-slot instructions (R137 to R164), NOP, the empty bundle, and the effects of leaving a team's rendezvous points (R156).
-/

namespace Sys2Proof.Machine

/-- R22: a NOP does nothing. -/
def execNop (_ : Hdr) (s : State) : Out := .next s

/-! ### Control transfer (R137 to R141) -/

/-- Address plus 8 × offset, modulo 2^23 (R139). -/
def target (pc : Nat) (off : BitVec 34) : Nat := modPow 23 ((pc : Int) + 8 * off.toInt)

/-- Transfers control to `a`. -/
def Ctx.goto (x : Ctx) (a : Nat) : Ctx := { x with jump := some a }

def execBr (h : Hdr) (f : FB) (s : State) : Out := syl h s fun _ x => .ok (x.goto (target x.pc f.off))

/-- Bits 13:7 of the control field as a scalar number (Table 5.1). -/
def s13Of (f : FB) : BitVec 7 := f.ctl.extractLsb' 7 7

/-- Bits 12:6 of the control field as a scalar number (R144, R147). -/
def s12Of (f : FB) : BitVec 7 := f.ctl.extractLsb' 6 7

/-- R140. -/
def execBri (h : Hdr) (f : FB) (s : State) : Out :=
  syl h s fun _ x =>
    let a := (x.rs (s13Of f)).toNat
    .need (a % 8 == 0) .misalign (.need (decide (a < 2 ^ 23)) .bounds (.ok (x.goto a)))

/-- R141: pushes the address of the next bundle. -/
def execCall (h : Hdr) (f : FB) (s : State) : Out :=
  syl h s fun _ x => .need (decide (x.ctl.rsp < 16)) .retFull
    (.ok ({ x with ctl := { x.ctl with retstk := SMap.put 0 x.ctl.retstk x.ctl.rsp ((x.pc + s.blen) % 2 ^ 23), rsp := x.ctl.rsp + 1 } }.goto
      (target x.pc f.off)))

/-- R141: pops. -/
def execRet (h : Hdr) (_f : FB) (s : State) : Out :=
  syl h s fun _ x => .need (decide (0 < x.ctl.rsp)) .retEmpty
    (.ok ({ x with ctl := { x.ctl with rsp := x.ctl.rsp - 1 } }.goto (SMap.get 0 x.ctl.retstk (x.ctl.rsp - 1))))

/-! ### Loops (R142 to R149) -/

/-- R144 for a trip count `n`. -/
def loopi (h : Hdr) (n : Nat) (f : FB) (s : State) : Out :=
  syl h s fun _ x =>
    let e := f.ctl.toNat % 64
    let y := { x with ctl := { x.ctl with rrb := 0, lc := n - 1, ec := if 0 < n then e else 0 } }
    .ok (y.send h 1 .p (ones 64 <<< 32) (.now (if 0 < n then 2 ^ 32 else 0) 0))

def execLoopi (h : Hdr) (f : FB) (s : State) : Out :=
  match s.ctx s.cur with
  | some x => loopi h (x.rs (s12Of f)).toNat f s
  | none => loopi h 0 f s

def execLoopiImm (h : Hdr) (f : FB) (s : State) : Out := loopi h f.off.toNat f s

/-- R145: rotates, feeds the logical p32 of the new RRB, and branches while passes remain. DEDUCED: log entry 33. -/
def execLoopb (h : Hdr) (f : FB) (s : State) : Out :=
  syl h s fun _ x =>
    let more := decide (0 < x.ctl.lc)
    let y := { x with ctl := { x.ctl with rrb := (x.ctl.rrb + 191) % 192 } }
    let y := y.putP h 1 32 more
    .ok (if more then ({ y with ctl := { y.ctl with lc := y.ctl.lc - 1 } }).goto (target x.pc f.off)
      else if 0 < y.ctl.ec then ({ y with ctl := { y.ctl with ec := y.ctl.ec - 1 } }).goto (target x.pc f.off)
      else y)

/-- R146. -/
def execLoopx (h : Hdr) (f : FB) (s : State) : Out :=
  syl h s fun _ x =>
    .ok (if 0 < x.ctl.lc then ({ x with ctl := { x.ctl with lc := x.ctl.lc - 1 } }).goto (target x.pc f.off) else x)

/-- R147 for a count `n`. -/
def repeat_ (h : Hdr) (n : Nat) (f : FB) (s : State) : Out :=
  syl h s fun _ x =>
    let e := ((x.pc : Int) + 8 * f.off.toInt).toNat
    .need (x.ctl.repc == 0) .repNest
      (let y := { x with ctl := { x.ctl with repc := n, repStart := x.pc + s.blen, repEnd := e } }
       .ok (if n = 0 then y.goto e else y))

def execRep (h : Hdr) (f : FB) (s : State) : Out :=
  match s.ctx s.cur with
  | some x => repeat_ h (x.rs (s12Of f)).toNat f s
  | none => repeat_ h 0 f s

def execRepImm (h : Hdr) (f : FB) (s : State) : Out := repeat_ h (f.ctl.toNat % 2 ^ 13) f s

/-- R149: n − 1 empty bundles follow. -/
def execNopn (h : Hdr) (f : FB) (s : State) : Out :=
  syl h s fun _ x => .ok { x with ctl := { x.ctl with nopr := f.off.toNat - 1 } }

/-! ### Predicates (R150) -/

/-- A predicate syllable: the operands after SUB's negations. -/
def pred (h : Hdr) (f : F3) (s : State) (op : Bool → Bool → Bool) : Out :=
  syl h s fun _ x => .ok (x.putP h 1 f.a (op (x.rp f.b != f.sub.getLsbD 0) (x.rp f.c != f.sub.getLsbD 1)))

/-- SUB[0] is the value. -/
def execPset (h : Hdr) (f : F3) (s : State) : Out := syl h s fun _ x => .ok (x.putP h 1 f.a (f.sub.getLsbD 0))
def execPand (h : Hdr) (f : F3) (s : State) : Out := pred h f s (· && ·)
def execPor (h : Hdr) (f : F3) (s : State) : Out := pred h f s (· || ·)
def execPxor (h : Hdr) (f : F3) (s : State) : Out := pred h f s (· != ·)
def execPnot (h : Hdr) (f : F3) (s : State) : Out := pred h f s fun a _ => !a
def execPmov (h : Hdr) (f : F3) (s : State) : Out := pred h f s fun a _ => a

/-! ### Rendezvous (R152 to R156) -/

/-- Point `j` of a team. -/
def Team.point (t : Team) (j : Nat) : Point := t.points.getD j ⟨0, 0, 0, none, 0, 0⟩

/-- Changes point `j` of a team. -/
def Team.onPoint (t : Team) (j : Nat) (f : Point → Point) : Team := { t with points := t.points.set j (f (t.point j)) }

/-- The point number of a rendezvous syllable (Table 5.5). -/
def rvPointOf (f : FB) : Nat := f.ctl.toNat / 512

/-- The point's scalar (Table 5.5). -/
def s8Of (f : FB) : BitVec 7 := f.ctl.extractLsb' 2 7

/-- A task's part of a point. -/
def Ctx.rvTask (x : Ctx) (j : Nat) : RvTask := SMap.get ⟨false, 0, false⟩ x.rv j

/-- Changes a task's part of a point. -/
def Ctx.setRv (x : Ctx) (j : Nat) (r : RvTask) : Ctx := { x with rv := SMap.put ⟨false, 0, false⟩ x.rv j r }

/-- R154, RVI. -/
def execRvi (h : Hdr) (f : FB) (s : State) : Out :=
  sylS h s fun _ x =>
    let c := (x.rs (s8Of f)).toNat
    .need (decide (0 < c ∧ c ≤ x.size)) .rvCount
      (.ok (s.onTeam x.part x.team fun t => t.onPoint (rvPointOf f) fun q =>
        if q.arr = 0 then { q with exp := c } else { q with held := some c }))

/-- The arrival of the task on core `c` at point `j` (R154): OUT and AG are set and the arrival is sent; it counts once its release has been performed (R155). DEDUCED: log entry 48. -/
def arrive (s : State) (c j : Nat) (mark : Bool) : State :=
  match s.ctx c with
  | none => s
  | some x =>
    match s.team x.part x.team with
    | none => s
    | some t =>
      (s.setCtx c (x.setRv j ⟨true, (t.point j).gen, mark⟩)).onTeam x.part x.team fun t => { t with arrivals := t.arrivals ++ [⟨j, c, x.bn⟩] }

/-- R154, RVA. DEDUCED: log entry 48. -/
def execRva (h : Hdr) (f : FB) (s : State) : Out :=
  sylS h s fun _ x => .need (!(x.rvTask (rvPointOf f)).out) .rvAgain (.ok (arrive s s.cur (rvPointOf f) false))

/-- The acquire at team scope at the end of a wait on point `j` (R155): the task observes the releases of the arrivals, which the team's tasks made at team scope. -/
def waitEnd (s : State) (c j : Nat) : State :=
  match s.ctx c with
  | none => s
  | some x =>
    let time := match s.team x.part x.team with
      | some t => (t.point j).time
      | none => 0
    (s.setCtx c (x.note time fun sc => sc != 0)).acquire c 1

/-- R154, RVW. -/
def execRvw (h : Hdr) (f : FB) (s : State) : Out :=
  sylS h s fun _ x => .await (!(x.rvTask (rvPointOf f)).out) (.ok (waitEnd s s.cur (rvPointOf f)))

/-- R154, RVAW: the arrival at the first attempt, with the held-arrival mark, and then RVW's wait. -/
def execRvaw (h : Hdr) (f : FB) (s : State) : Out :=
  match s.ctx s.cur with
  | none => .fault .noContext
  | some x =>
    let r := x.rvTask (rvPointOf f)
    if !x.guard h then .next s
    else if !r.mark then
      if r.out then .next (s.issueFault 9 Cause.rvAgain.code 0)
      else .next (arrive s s.cur (rvPointOf f) true).hold
    else if r.out then .next s.hold
    else .next (waitEnd (s.setCtx s.cur (x.setRv (rvPointOf f) { r with mark := false })) s.cur (rvPointOf f))

/-- A generation of a point completes: the held value, then the pending falls (R154). -/
def Point.complete (q : Point) : Point :=
  { q with gen := (q.gen + 1) % 2 ^ 32, arr := 0, exp := (q.held.getD q.exp) - q.fall, held := none, fall := 0 }

/-- Clears OUT of every task of a team whose arrival stands in generation `g` of point `j`. -/
def clearOut (s : State) (t : Team) (j g : Nat) : State :=
  t.cores.foldl (fun s c => s.onCtx c fun x =>
    if x.team = t.id ∧ (x.rvTask j).out ∧ (x.rvTask j).ag = g then x.setRv j { x.rvTask j with out := false } else x) s

/-- Completes a generation of a team's point. -/
def completePoint (s : State) (p t j : Nat) : State :=
  match s.team p t with
  | none => s
  | some tm => clearOut (s.onTeam p t fun m => m.onPoint j Point.complete) tm j (tm.point j).gen

/-- One arrival at a point (R154). -/
def countArrival (s : State) (p t j time : Nat) : State :=
  let s := s.onTeam p t fun m => m.onPoint j fun q => { q with arr := q.arr + 1, time := max q.time time }
  match s.team p t with
  | none => s
  | some tm => if (tm.point j).arr = (tm.point j).exp then completePoint s p t j else s

/-- R156: a task leaves one point. -/
def leavePoint (c : Nat) (s : State) (j : Nat) : State :=
  match s.ctx c with
  | none => s
  | some x =>
    if (x.rvTask j).out then s.onTeam x.part x.team fun t => t.onPoint j fun q => { q with fall := q.fall + 1 }
    else
      let s := s.onTeam x.part x.team fun t => t.onPoint j fun q => { q with exp := q.exp - 1, held := q.held.map (· - 1) }
      match s.team x.part x.team with
      | none => s
      | some t => if (t.point j).arr ≠ 0 ∧ (t.point j).arr = (t.point j).exp then completePoint s x.part x.team j else s

/-- TASK_LEAVE_POINTS: the task on core `c` leaves every point (R156). -/
def leavePoints (s : State) (c : Nat) : State := (List.range 24).foldl (leavePoint c) s

/-! ### Pre-emption points (R157 to R160) -/

/-- The 64-byte record at the address a PHINT names. -/
def liveBytes (k : Core) (x : Ctx) : List Byte := x.load k.mem x.live 64

/-- A field of the liveness record (Table 5.6). -/
def liveField (bs : List Byte) (at_ n : Nat) : Nat := ofBytes ((bs.drop at_).take n)

/-- The ring a stream fills or drains. -/
def Stream.ring (st : Stream) : Option Nat := if st.mode == .fill || st.mode == .drain then some st.view.ring else none

/-- The element width of a view in bits. -/
def Stream.w (st : Stream) : Nat := fmtWidth st.view.fmt

/-- The number of ring slots that a stream's elements fill (R268). -/
def Stream.slotCount (st : Stream) (slot : Nat) : Nat := if slot = 0 then 0 else ((st.view.count * st.w + 7) / 8 + slot - 1) / slot

/-- A fill stream has slots left to commit (R262, R268). -/
def Stream.filling (st : Stream) (slot : Nat) : Bool :=
  st.mode == .fill && decide (st.slots < min (st.slotCount slot) (st.last.getD (st.slotCount slot)))

/-- A drain stream has slots left to free (R268). -/
def Stream.draining (st : Stream) (slot : Nat) : Bool :=
  st.mode == .drain && decide (st.slots < min (st.slotCount slot) (st.last.getD (st.slotCount slot)))

/-- The elements up to the end of ring slot `n`. -/
def Stream.slotEnd (st : Stream) (slot n : Nat) : Nat := min st.view.count (((n + 1) * slot * 8 + st.w - 1) / st.w)

/-- The writes of all elements of a drain stream's next slot have been performed, and it is to free the slot (R268). -/
def Stream.slotDone (st : Stream) (slot : Nat) : Bool := st.draining slot && decide (st.slotEnd slot st.slots ≤ st.pos)

/-- A stream's command is complete: its pattern has ended, and everything that follows from it has been done (R158, R256, R268). A conditional stream has no pattern. -/
def Stream.complete (st : Stream) (slot : Nat) : Bool :=
  match st.mode with
  | .cond => true
  | .inp => decide (st.view.count ≤ st.pos)
  | .out => st.queue.isEmpty && decide (st.view.count ≤ st.pos)
  | .fill => decide (st.view.count ≤ st.pos) && !st.filling slot
  | .drain => decide (st.view.count ≤ st.pos) && !st.draining slot

/-- The ring that a stream fills or drains, or the empty one. -/
def Ctx.ring_ (x : Ctx) (st : Stream) : Ring := SMap.get Ring.zero x.rings st.view.ring

/-- Stream `j` of a context belongs to what the record keeps, or has nothing left to do (R158, condition 4). -/
def streamKept (bs : List Byte) (x : Ctx) (j : Nat) : Bool :=
  match x.stream j with
  | none => true
  | some st =>
    (liveField bs 56 1).testBit j || (st.ring.any fun r => (liveField bs 52 4).testBit r) || st.complete (x.ring_ st).slot

/-- The copies of the context on core `c`. -/
def State.copiesOf (s : State) (c : Nat) : List Copy :=
  s.copies.filter fun k => match k.by_ with
    | .cpy core _ _ _ _ => core == c
    | .record .. => false

/-- A copy with a ring side that the record keeps (R332). -/
def copyKept (bs : List Byte) (k : Copy) : Bool :=
  match k.src, k.dst with
  | .ring r, _ => (liveField bs 52 4).testBit r
  | _, .ring r => (liveField bs 52 4).testBit r
  | _, _ => false

/-- Conditions 2 and 3 of R158: nothing in flight. DESIGN CHOICE: log entry 122. -/
def Ctx.settled (x : Ctx) : Bool :=
  x.results.isEmpty && x.cellRes.isEmpty && x.msteps.isEmpty && x.tchg.isEmpty &&
  x.stores.all (fun p => decide (p.vis ≤ x.bn)) && x.bypass.all (fun e => decide (e.at_ + 2 ≤ x.bn))

/-- Condition 4 of R158. -/
def quiet (s : State) (c : Nat) (x : Ctx) (bs : List Byte) : Bool :=
  x.lq.isEmpty && x.nests.all (fun n => !n.incomplete) && x.vainv == 0 && x.sbal.isEmpty &&
  (List.range 8).all (streamKept bs x) && (s.copiesOf c).all (copyKept bs)

/-- The range entries after a record: up to eight, ended by a zero length (R160). None when they break the rules. DESIGN CHOICE: log entry 100. -/
def liveRanges (k : Core) (x : Ctx) (at_ : Nat) : Nat → Option (List (Nat × Nat))
  | 0 => some []
  | n + 1 =>
    if !inSpad at_ 8 then none
    else
      let e := ofBytes (x.load k.mem at_ 8)
      let a := bits e 31 0
      let l := bits e 63 32
      if l = 0 then some []
      else if a % 4096 ≠ 0 ∨ l % 4096 ≠ 0 ∨ !inSpad a l then none
      else (liveRanges k x (at_ + 8) n).map ((a, l) :: ·)

/-- The record's reserved bits are zero (Table 5.6). -/
def liveOk (bs : List Byte) : Bool :=
  liveField bs 46 2 == 0 && decide (liveField bs 57 1 < 2) && liveField bs 58 6 == 0

/-- Abandons a team's pre-emption (R416): its stopped members go on, PABORT rises, and the request is withdrawn. -/
def abandonBy (s : State) (p t core : Nat) : State :=
  match s.team p t with
  | none => s
  | some tm =>
    let s := tm.cores.foldl (fun s c => s.onCtx c fun x =>
      if x.state = .hinted ∨ x.state = .quiet then { x with state := if s.works p (unitIssue c) then .run else .stopped } else x) s
    let s := s.onTeam p t fun m => { m with request := false, stopped := none }
    let s := s.onPart p fun q => { q with pabort := (q.pabort + 1) % 2 ^ 64 }
    s.blackBox p 7 core 0

/-- A pre-emption is abandoned on no core's account (R416): the event names the team's origin. DEDUCED: log entry 61. -/
def abandon (s : State) (p t : Nat) : State :=
  abandonBy s p t (((s.team p t).map fun m => 32 * m.y + m.x).getD 0)

/-- PHINT (R157 to R160): a one-bundle no-op unless it is a pre-emption point that meets a request. DEDUCED: log entry 23. DEDUCED: log entry 61. DESIGN CHOICE: log entry 99. -/
def execPhint (h : Hdr) (f : FB) (s : State) : Out :=
  sylS h s fun k x =>
    let a := ((x.pc : Int) + 8 * f.off.toInt)
    .need (a % 64 == 0) .misalign (.need (decide (0 ≤ a ∧ a + 64 ≤ 0x800000)) .bounds
      (let x' := { x with live := a.toNat }
       let bs := liveBytes k x'
       let alone := s.blen == 16
       match s.team x.part x.team with
       | none => .ok s
       | some t =>
         if t.request && decide ((s.part x.part).qmin ≤ s.cycle - t.start) && alone && x.settled && quiet s s.cur x bs then
           if liveOk bs && (liveRanges k x' (a.toNat + 64) 8).isSome then
             let s := s.setCtx s.cur { x' with state := .hinted }
             .ok (s.onTeam x.part x.team fun t => { t with stopped := some (t.stopped.getD s.cycle) })
           else
             .ok ((abandonBy s x.part x.team s.cur).onCtx s.cur fun y => { y with pend := y.pend.or (some (Cause.liveRecord.code, 0, 0)) })
         else .ok s))

/-! ### Traps and the end of a task (R161) -/

/-- SW_TRAP at the next bundle boundary. -/
def execTrap (h : Hdr) (f : FB) (s : State) : Out :=
  syl h s fun _ x => .ok { x with pend := some (Cause.swTrap.code, f.off.toNat % 2 ^ 16, 0) }

/-- R257, R262: what is left of a stream that is unbound, or whose task has ended: writes already queued, and slots already reserved. DEDUCED: log entry 36. -/
def Stream.atEnd (rings : SMap Ring) (st : Stream) : Option Stream :=
  match st.mode with
  | .inp => none
  | .cond => none
  | .out => if st.queue.isEmpty ∧ st.pos = st.sent then none else some { st with bound := false }
  | .drain => if st.pos = st.sent ∧ !st.slotDone (SMap.get Ring.zero rings st.view.ring).slot then none else some { st with bound := false }
  | .fill =>
    let r := (SMap.get Ring.zero rings st.view.ring).resv
    if r = 0 then none else some { st with bound := false, last := some (st.slots + r) }

/-- A bound stream with release that ends here, short of its pattern and with nothing left to write: its last write is behind it (R90, R275). -/
def Stream.cutShort (rings : SMap Ring) (st : Stream) : Bool :=
  st.rel && st.mode != .inp && st.mode != .cond && decide (st.pos < st.view.count) && (st.atEnd rings).isNone

/-- The bound streams among `js` are unbound at module time `t` (R257, R262). -/
def Ctx.unbind (x : Ctx) (t : Nat) (js : List Nat) : Ctx :=
  js.foldl (fun x j => match x.stream j with
    | none => x
    | some st =>
      if !st.bound then x
      else
        let y := x.setStream j (st.atEnd x.rings)
        if st.cutShort x.rings then { y with relTime := SMap.put 0 y.relTime st.scope t } else y) x

/-- A task ends after its bundle (R161): it leaves its points and its streams stop. -/
def endTask (s : State) (c : Nat) (code : Option Nat) : State :=
  (leavePoints s c).onCtx c fun x => { x.unbind s.mtime (List.range 8) with state := .ended, tfail := code }

def execTend (h : Hdr) (_f : FB) (s : State) : Out := sylS h s fun _ _ => .ok (endTask s s.cur none)

/-- The task index of a context: its team's iteration. -/
def taskIndex (s : State) (x : Ctx) : Nat :=
  match s.team x.part x.team with
  | some t => t.index
  | none => 0

/-- The lower of two task indices. -/
def lower (a : Option Nat) (n : Nat) : Option Nat := some (min (a.getD n) n)

/-- TFAIL also marks the nest failed and leaves its code in the black box (R161, R117, R464). -/
def execTfail (h : Hdr) (f : FB) (s : State) : Out :=
  sylS h s fun _ x =>
    let code := f.off.toNat % 2 ^ 16
    let i := taskIndex s x
    let s := (endTask s s.cur (some code)).blackBox x.part 2 s.cur (code + i % 2 ^ 24 * 2 ^ 16)
    .ok (s.onPart x.part fun q => { q with nests := q.nests.map fun n =>
      if n.id = x.nest then { n with failed := some (n.failed.getD 4), first := lower n.first i } else n })

/-! ### Context control registers (R162, R163) -/

/-- R162: the value after every write that has landed. -/
def execCrr (h : Hdr) (f : F3) (s : State) : Out :=
  syl h s fun _ x => .ok (x.putS h 1 f.a (BitVec.ofNat 64 (x.ctl.read f.sub.toNat)))

/-- The values a CRW may write (R162, Table 5.7). -/
def ccrOk (n v : Nat) : Bool :=
  match n with
  | 0x00 => true
  | 0x01 => decide (v < 64)
  | 0x02 => decide (v < 192)
  | 0x03 => decide (v < 64)
  | 0x04 => decide (v < 4)
  | 0x05 => decide (v < 2)
  | 0x06 => decide (v < 32)
  | 0x07 => true
  | 0x08 => decide (v < 2 ^ 28) && bits v 15 4 == 0
  | 0x09 => decide (v ≤ 16)
  | 0x0A => true
  | 0x0B => decide (v < 2 ^ 56) && bits v 31 23 == 0 && v % 8 == 0 && bits v 55 32 % 8 == 0 && decide (bits v 55 32 ≤ 0x800000)
  | _ => decide (v < 2 ^ 23) && v % 8 == 0

/-- R162: lands at L = 1. -/
def execCrw (h : Hdr) (f : F3) (s : State) : Out :=
  syl h s fun _ x =>
    let v := (x.rs f.b).toNat
    .need (ccrOk f.sub.toNat v) .ccrRange (.ok (x.send h 1 (.ctl f.sub.toNat) (ones 64) (.now v 0)))

end Sys2Proof.Machine
end

