-- ==== Sys2Proof/Machine/Stream.lean ====
section
/-!
DEFINITION. The stream engine: streams, ports, rings and conditional rings (R255 to R279), the snapshot window (R83 to R86), and the steps of its streams.
-/

namespace Sys2Proof.Machine

/-! ### Rings -/

/-- A ring of a context. -/
def Ctx.ring (x : Ctx) (r : Nat) : Ring := SMap.get Ring.zero x.rings r

/-- Replaces a ring of a context. -/
def Ctx.setRing (x : Ctx) (r : Nat) (v : Ring) : Ctx := { x with rings := SMap.put Ring.zero x.rings r v }

namespace Ring

/-- T − H (Table 10.2). -/
def fill (r : Ring) : Nat := (r.t + 2 ^ 32 - r.h) % 2 ^ 32

/-- N − fill − RESV (Table 10.2). -/
def free (r : Ring) : Nat := r.n - r.fill - r.resv

/-- The address of the slot that pointer `k` names (R263). -/
def at_ (r : Ring) (k : Nat) : Nat := r.base + k % 2 ^ 32 % r.n * r.slot

end Ring

/-! ### Binding (R255 to R257) -/

/-- The mode that SUB selects (Table 10.5). -/
def sModeOf (f : F3) : SMode :=
  if f.sub.getLsbD 2 then .cond else match f.sub.toNat % 4 with
    | 0 => .inp | 1 => .out | 2 => .fill | _ => .drain

/-- The acquire, release and scope of a D-slot command. -/
def acqOf (f : F3) : Bool := f.ord.getLsbD 0
def relOf (f : F3) : Bool := f.ord.getLsbD 1
def scopeOf (f : F3) : Nat := f.rnd.toNat

/-- The virtual lines that a global view touches, without repeats. -/
def View.lines (v : View) : List Nat := ((List.range v.count).map fun i => v.addr i / 64).eraseDups

/-- An acquire at scope `sc`, restricted to what a command reads (R90): the window drops the lines of the view, and TFLOOR rises (R97). -/
def acquireView (s : State) (c sc : Nat) (v : View) : State :=
  (s.dropLines c fun l _ _ => v.global && v.lines.contains l).onCtx c fun x => x.raiseFloor sc

/-- Reads that only an earlier stream `j` of core `c` could use go nowhere (R395). -/
def State.unask (s : State) (c j : Nat) : State :=
  { s with fabric := s.fabric.filter fun q => !(q.once && q.origin == .stream c j) }

/-- R256, R257. DESIGN CHOICE: log entry 125. -/
def execSbind (h : Hdr) (f : F3) (s : State) : Out :=
  sylS h s fun _ x0 =>
    let id := 4 + f.a.toNat % 4
    let j := f.b.toNat
    let mode := sModeOf f
    let cond := mode == .cond
    let x := x0.exchangeIf (f.w && !cond) id
    let v : View := if cond then ⟨0, false, false, 0, 1, false, 0, 0, 0, [], [], 0⟩ else x.view id (x.rs f.c).toInt
    let ring := mode == .fill || mode == .drain
    .need (x.stream j).isNone .streamBusy
      (.need (cond || (decide (1 ≤ v.rank ∧ v.rank ≤ 6) && v.rb == ring && v.b4Ok)) .shapeField
        (.need (cond || v.aligned) .misalign
          (let st : Stream :=
             { mode, view := v, scope := scopeOf f, acq := acqOf f, rel := relOf f, issued := x.bn, pos := 0, sent := 0
               queue := [], count := 0, bound := true, slots := 0, last := none, shadow := [], inbox := [] }
           let s := ((s.setCtx s.cur (x.setStream j (some st))).forget (.stream s.cur j)).unask s.cur j
           .ok (if acqOf f then acquireView s s.cur (scopeOf f) v else s))))

/-- R257. -/
def execSunb (h : Hdr) (f : F3) (s : State) : Out :=
  syl h s fun _ x => .ok (x.unbind s.mtime [f.b.toNat])

/-- An element that entered the engine before bundle `b` still has a write to perform (R276): an entry that has landed, or, where writes are to be at home, one on its way. DEDUCED: log entry 40. -/
def Stream.owes (st : Stream) (b : Nat) (atHome : Bool) : Bool :=
  (st.mode == .out || st.mode == .drain) &&
  (st.queue.any (fun e => e.landed && decide (e.issued < b)) || (atHome && decide (st.pos ≠ st.sent)))

/-- R276. DEDUCED: log entry 40. -/
def execSsync (h : Hdr) (f : F3) (s : State) : Out :=
  sylS h s fun _ x =>
    let js := if f.sub.getLsbD 0 then List.range 8 else [f.b.toNat]
    let owes := js.any fun j => (x.stream j).any fun st => st.bound && st.owes x.bn (relOf f || !st.view.global)
    .await (!owes) (.ok (if relOf f then s.released s.cur (scopeOf f) else s))

/-! ### Ring syllables (R264, R265) -/

/-- The ring configuration word is legal (R264). -/
def ringCfgOk (c : Nat) : Bool :=
  let prod := bits c 43 40
  let cons := bits c 47 44
  let cond := bit c 48
  let slot := bits c 39 20
  bits c 63 49 == 0 && bits c 19 17 == 0 && decide (1 ≤ bits c 16 0 ∧ bits c 16 0 ≤ 65536) &&
  decide (4 ≤ slot) && slot % 4 == 0 && [0, 1, 2, 3].contains prod && [0, 1, 2, 4].contains cons &&
  (!cond || (slot == 4 && prod == 0 && cons == 0))

/-- A put to ring `r` of core `c`, by its target word (Table 13.2). -/
def LOp.fills (s : State) (c r : Nat) : LOp → Bool
  | .put _ t _ _ _ _ => bit t 53 && (bit t 52 || bits t 51 40 == s.modid) && 32 * bits t 35 32 + bits t 28 24 == c && t % 32 == r
  | _ => false

/-- An incomplete landing command names ring `r` of the context `x` on core `c`: a put of its job, or one that has come through a berth (R264). -/
def putNames (s : State) (c : Nat) (x : Ctx) (r : Nat) : Bool :=
  (s.cores.any fun e => e.2.ctx.any fun y => y.part == x.part && y.job == x.job && y.lq.any fun q => q.op.fills s c r) ||
  s.fabric.any fun q => q.dest == .core c && match q.body with
    | .put _ _ ring addr _ _ _ _ _ => ring && addr % 32 == r
    | _ => false

/-- Something still uses ring `r` of the context on core `c` (R264). -/
def ringInUse (s : State) (c : Nat) (x : Ctx) (r : Nat) : Bool :=
  (x.ring r).busy || putNames s c x r ||
  x.streams.any (fun o => o.any fun st => st.bound && st.ring == some r) ||
  x.nests.any (fun n => n.incomplete && (n.a.ring == r || n.b.ring == r)) ||
  (s.copiesOf c).any fun k => k.src == .ring r || k.dst == .ring r

/-- Ring `r` starts anew under what is left of unbound streams: a fill stream has no slot left to commit, and a drain stream none to free. DESIGN CHOICE: log entry 126. -/
def Ctx.leaveRing (x : Ctx) (r : Nat) : Ctx :=
  { x with streams := x.streams.map fun o => o.bind fun st =>
      if st.ring != some r then some st
      else if st.mode == .fill || st.pos == st.sent then none
      else some { st with last := some st.slots } }

/-- R264. -/
def execGinit (h : Hdr) (f : F3) (s : State) : Out :=
  syl h s fun _ x =>
    let b := (x.rs f.b).toNat
    let c := (x.rs f.c).toNat
    let n := bits c 16 0
    let slot := bits c 39 20
    .need (ringCfgOk c) .ringConfig (.need (b % 32 == 0) .misalign (.need (inSpad b (n * slot)) .bounds
      (.need (!ringInUse s s.cur x f.a.toNat) .ringBusy
        (.ok ((x.leaveRing f.a.toNat).setRing f.a.toNat
          { init := true, base := b, n, slot, prod := bits c 43 40, cons := bits c 47 44, cond := bit c 48
            h := 0, t := 0, resv := 0, busy := false, advs := [] })))))

/-- The count of a ring syllable (Table 10.5). -/
def ringN (x : Ctx) (f : F3) : Nat :=
  if f.sub.getLsbD 0 then (f.b ++ f.c ++ f.d).toNat else (x.rs f.b).toNat

/-- The checks of R265 that every ring syllable but GSTAT makes. -/
def withRing (x : Ctx) (f : F3) (go : Ring → Nat → Act Ctx) : Act Ctx :=
  let r := x.ring f.a.toNat
  .need r.init .ringMisuse (.need (!r.busy) .ringBusy (go r (ringN x f)))

def execGwf (h : Hdr) (f : F3) (s : State) : Out :=
  syl h s fun _ x => withRing x f fun r n => .need (decide (n ≤ r.n)) .ringMisuse (.await (decide (n ≤ r.fill)) (.ok x))

def execGwe (h : Hdr) (f : F3) (s : State) : Out :=
  syl h s fun _ x => withRing x f fun r n => .need (decide (n ≤ r.n)) .ringMisuse (.await (decide (n ≤ r.free)) (.ok x))

def execGadvh (h : Hdr) (f : F3) (s : State) : Out :=
  syl h s fun _ x => withRing x f fun r n => .need (r.cons == 0 && !r.cond && decide (n ≤ r.fill)) .ringMisuse
    (.ok (x.setRing f.a.toNat { r with h := (r.h + n) % 2 ^ 32 }))

def execGadvt (h : Hdr) (f : F3) (s : State) : Out :=
  syl h s fun _ x => withRing x f fun r n => .need (r.prod == 0 && !r.cond && decide (n ≤ r.free)) .ringMisuse
    (.ok (x.setRing f.a.toNat (r.advance x.bn n)))

/-- R265: the counts, or the pointers; zero on a ring that is not initialised. -/
def execGstat (h : Hdr) (f : F3) (s : State) : Out :=
  syl h s fun _ x =>
    let r := x.ring f.a.toNat
    let v := if !r.init then 0 else if f.sub.getLsbD 0 then r.h + r.t * 2 ^ 32 else r.fill + r.free * 2 ^ 32
    .ok (x.putS h 2 f.b (BitVec.ofNat 64 v))

/-! ### Conditional streams (R269, R270) -/

/-- R269: the enabled lanes as records, stored as the ring's new slots. -/
def execSpushc (h : Hdr) (f : F3) (s : State) : Out :=
  syl h s fun _ x =>
    let r := x.ring f.a.toNat
    let km := x.rk (f.sub.toNat % 16)
    vframe x [f.b] [] false
      (fun y =>
        let lanes := ((List.range 128).filter km.getLsbD).map fun l => bits (y.rvec f.b).toNat (32 * l + 31) (32 * l)
        .need (r.init && r.cond) .ringMisuse (.need (!r.busy) .ringBusy
          (.need (decide (lanes.length ≤ r.free)) .ringMisuse (.ok lanes)))) fun y _ lanes =>
      let y := y.store h 3 (lanes.zipIdx.flatMap fun (v, i) =>
        (bytesOf v 4).zipIdx.map fun (b, k) => (r.at_ (r.t + i) + k, b))
      y.setRing f.a.toNat { r with t := (r.t + lanes.length) % 2 ^ 32 }

/-- R270: up to 128 records into one entry of a conditional port. -/
def execSpopc (h : Hdr) (f : F3) (s : State) : Out :=
  syl h s fun k x =>
    let r := x.ring f.a.toNat
    let j := f.c.toNat
    match x.stream j with
    | none => .fault Cause.streamMisuse.code 0
    | some st =>
      let c := min r.fill 128
      .need (st.mode == .cond && st.bound) .streamMisuse (.need (r.init && r.cond) .ringMisuse (.need (!r.busy) .ringBusy
        (.await (decide (st.queue.length < 4))
          (let v := (List.range c).foldl (fun v i => v ||| ofBytes (engineRead x k.mem x.bn (r.at_ (r.h + i)) 4) <<< (32 * i)) 0
           let x := x.setRing f.a.toNat { r with h := (r.h + c) % 2 ^ 32 }
           let x := x.setStream j (some { st with
             queue := st.queue ++ [⟨st.count, x.bn, BitVec.ofNat 4096 v, true, x.bn⟩], count := st.count + 1 })
           .ok (x.putS h 2 f.b (BitVec.ofNat 64 c))))))

/-! ### SBAL (R271, R272) -/

/-- R271: the task joins, and its ring is BUSY. -/
def execSbal (h : Hdr) (f : F3) (s : State) : Out :=
  syl h s fun _ x =>
    let r := x.ring f.a.toNat
    .need (!r.busy) .ringBusy
      (.ok { x.setRing f.a.toNat { r with busy := true } with sbal := x.sbal ++ [⟨f.a.toNat, f.d.toNat, false, false, x.bn⟩] })

/-- The context has an SBAL on ring `r` that has not run. -/
def Ctx.joins (x : Ctx) (r : Nat) : Option SBal := x.sbal.find? fun b => b.ring == r && !b.ran

/-- Slots at the head of ring `r` that were committed before bundle `b`. -/
def Ring.committed (r : Ring) (b : Nat) : Nat := ((List.range r.fill).takeWhile fun i => decide (r.advancedAt (r.h + i) < b)).length

/-- A global write that bundles before `b` issued through stream `st` is still to be performed (R89): an entry reserved before, or a slot that a bound drain stream found committed before, or a write on its way. A result that no bundle brings on while its context waits at issue is not waited for. DEDUCED: log entry 112. -/
def Ctx.writeOwed (x : Ctx) (st : Stream) (b : Nat) : Bool :=
  let r := x.ring st.view.ring
  st.view.global && match st.mode with
  | .out => decide (st.pos ≠ st.sent) || st.queue.any fun e => decide (e.born < b) && (e.landed || x.state != .held)
  | .drain => decide (st.pos ≠ st.sent) || (st.bound && decide (st.issued < b) && (x.state != .held || x.stores.all fun p => p.late.isEmpty) &&
      decide (st.sent < min st.view.count ((st.slots + r.committed b) * r.slot * 8 / st.w)))
  | _ => false

/-- Every global write that the task issued before bundle `b` has been performed, up to the commands `before` in its queue (R89). DEDUCED: log entry 112. -/
def writesDone (s : State) (c : Nat) (x : Ctx) (b : Nat) (before : List LCmd) : Bool :=
  x.streams.all (fun o => o.all fun st => !x.writeOwed st b) &&
  (s.fabric.all fun q => match q.origin with
    | .flag c' _ => c' != c
    | _ => true) &&
  ((s.copiesOf c).all fun k => !(k.rel && decide (k.issued < b))) &&
  before.all fun q => q.applied || match q.op with
    | .sig _ _ => true
    | .achase .. => true
    | .cross true false => true
    | _ => false

/-- The writes that the context's task issued before bundle `b` have been performed, those of its queue among them. -/
def Ctx.drained (s : State) (x : Ctx) (b : Nat) : Bool := writesDone s x.core x b (x.lq.filter fun q => decide (q.issued < b))

/-- The records of a ring in order. -/
def ringRecords (k : Core) (r : Ring) : List (List Byte) := (List.range r.fill).map fun i => k.engineRead ((k.ctx.map Ctx.bn).getD 0) (r.at_ (r.h + i)) 4

/-- SBAL_RUN for a team (R271): every live task has joined one ring; the records are shared out, or the rings do not match. -/
def sbalRun (p t : Nat) (s : State) : Option State := do
  let tm ← s.team p t
  let xs := tm.cores.filterMap fun c => (s.ctx c).map fun x => (c, x)
  let r ← (List.range 32).find? fun r => xs.any (fun e => (e.2.joins r).isSome) &&
    xs.all fun e => e.2.state == .ended || (e.2.joins r).isSome
  let ps := xs.filter fun e => (e.2.joins r).isSome
  if !ps.all fun e => e.2.drained s (((e.2.joins r).map SBal.issued).getD 0) && s.works p (unitStream e.1) then none
  else
    let rings := ps.map fun e => e.2.ring r
    if rings.any fun g => !g.init || !g.cond || g.n != (rings.headD Ring.zero).n then
      let s' := ps.foldl (fun s e => (s.faultOnce p (unitStream e.1) Cause.ringMismatch.code r 0 0 e.2.job).getD s) s
      if s' = s then none else some s'
    else
      let recs := ps.flatMap fun e => ringRecords (s.core e.1) (e.2.ring r)
      let n := recs.length
      let m := ps.length
      let shares : List Share := ps.zipIdx.map fun (e, q) =>
        ⟨e.1, ((e.2.joins r).map SBal.ln).getD 0, ((recs.drop (q * n / m)).take ((q + 1) * n / m - q * n / m)).flatten⟩
      let s := ps.foldl (fun s e => (s.released e.1 1).onCtx e.1 fun x =>
        { x with sbal := x.sbal.map fun b => if b.ring = r then { b with ran := true } else b }) s
      some (s.onTeam p t fun m => { m with sbals := m.sbals ++ [⟨r, false, shares⟩] })

/-- One participant's share lands (R271, R272). -/
def landShare (r time : Nat) (s : State) (h : Share) : State :=
  match s.ctx h.core with
  | none => s
  | some x =>
    let g := x.ring r
    let n := h.recs.length / 4
    let k := (List.range n).foldl (fun k i => k.engineWrite (g.at_ (g.h + i)) ((h.recs.drop (4 * i)).take 4)) (s.core h.core)
    let s := (s.setCore h.core k).onCtx h.core fun x =>
      { x.setRing r { g with t := (g.h + n) % 2 ^ 32, busy := false } with
        sbal := x.sbal.filter (fun b => b.ring != r) }.note time fun sc => sc != 0
    (s.acquire h.core 1).bump h.core h.ln

/-- SBAL_COMPLETE for a team (R271). -/
def sbalComplete (p t : Nat) (s : State) : Option State := do
  let tm ← s.team p t
  let o ← tm.sbals.head?
  if o.shares.all fun h => s.works p (unitStream h.core) then
    let time := o.shares.foldl (fun n h => max n (((s.ctx h.core).map fun x => SMap.get 0 x.relTime 1).getD 0)) 0
    some ((o.shares.foldl (landShare o.ring time) s).onTeam p t fun m => { m with sbals := m.sbals.drop 1 })
  else none

/-! ### Reads (R83 to R85, R261) -/

/-- A scratchpad byte as a stream reads it (R71). DESIGN CHOICE: log entry 12. -/
def streamByte (k : Core) (x : Ctx) (st : Stream) (a : Nat) : Byte :=
  match if st.acq then st.shadow.find? (fun e => e.1 == a) else none with
  | some e => e.2
  | none => engineByte x k.mem (seeAs st.acq st.rel st.issued) a

/-- A crossing with release, or ALIASF, that was issued before bundle `b` and has not been performed holds back the writes and counts of what was issued in bundle `b` (R89, R357). -/
def Ctx.heldBack (x : Ctx) (b : Nat) : Bool :=
  x.lq.any fun q => decide (q.issued < b) && match q.op with
    | .cross _ rel => rel
    | .alias_ _ => true
    | _ => false

/-- A crossing with acquire, or ALIASF, that was issued before bundle `b` and has not been performed holds back the global reads of a command of bundle `b` (R89, R357). -/
def Ctx.readHeld (x : Ctx) (b : Nat) : Bool :=
  x.lq.any fun q => decide (q.issued < b) && match q.op with
    | .cross acq _ => acq
    | .alias_ _ => true
    | _ => false

/-- A lookup that starts no walk: what a waiter's grants and the die hold. -/
def peek (s : State) (who : Waiter) (d p vpn : Nat) : Look :=
  match s.grants.find? fun g => g.who == who && g.part == p && g.page.any fun pg => pg.covers vpn with
  | some g => (g.page.map Look.page).getD .miss
  | none => lookup s d p vpn

/-- R388 for an access that has its translation. -/
def peekReach (s : State) (who : Waiter) (d p : Nat) (kind : Access) (copy : Bool) (va : Nat) : Reach :=
  if 2 ^ 56 ≤ va then .fault Cause.addrNoncanonical.code else reachOf s p kind copy va (peek s who d p (va / 4096))

/-- The line that holds a virtual address, as the core's stream engine has it: in its window, or in the stream's inbox (R83, R84). -/
def heldLine (k : Core) (st : Stream) (p ag line : Nat) : Option SnapLine :=
  let mine (l : SnapLine) : Bool := l.line == line && l.part == p && l.group == ag
  (k.window.find? mine).or (st.inbox.find? mine)

/-- The code of element `i` of a stream on core `c`, where it can be read now. -/
def streamElem (s : State) (c j : Nat) (x : Ctx) (st : Stream) (i : Nat) : Option Nat :=
  let v := st.view
  let nib := modPow 1 (v.bitAddr i / 4)
  let n := max 1 (st.w / 8)
  let cut (bs : List Byte) : Nat := if st.w < 8 then ofBytes bs >>> (4 * nib) % 16 else ofBytes bs
  let a := v.addr i
  if v.global then
    if x.readHeld st.issued then none else match peekReach s (.stream c j) (dieOf c) x.part .read false a with
    | .ok g => (heldLine (s.core c) st x.part g.ag (a / 64)).map fun l => cut ((l.data.drop (a % 64)).take n)
    | _ => none
  else if inSpad a n && !x.undecided (seeAs st.acq st.rel st.issued) a n then some (cut ((List.range n).map fun b => streamByte (s.core c) x st (a + b)))
  else none

/-- The elements that a stream needs next: those of the next port entry or ring slot. -/
def Stream.want (st : Stream) (slot : Nat) : List Nat :=
  let total := st.view.count
  match st.mode with
  | .inp => if st.bound ∧ st.queue.length < 4 then
      let n := 4096 / st.w
      range ((st.count + st.queue.length) * n) (min total ((st.count + st.queue.length + 1) * n))
    else []
  | .fill => range (st.slots * slot * 8 / st.w) (min total (((st.slots + 1) * slot * 8 + st.w - 1) / st.w))
  | _ => []

/-- A fill stream's ring is its own to fill (R266). -/
def ringRoleOk (x : Ctx) (st : Stream) : Bool :=
  match st.mode with
  | .fill => (x.ring st.view.ring).init && (x.ring st.view.ring).prod == 1
  | .drain => (x.ring st.view.ring).init && (x.ring st.view.ring).cons == 1
  | _ => true

/-- Stream `j` of core `c` has reported a fault in the halt that stands: it is stopped (R278). A mismatch of SBAL is a ring's fault (R271). DEDUCED: log entry 35. -/
def streamDown (s : State) (c j p : Nat) : Bool :=
  match (s.part p).halt with
  | some h => h.down.contains (c, j) || h.faults.any fun f => f.unit == unitStream c && f.tag == j && f.cause != Cause.ringMismatch.code
  | none => false

/-- Stream `j` of core `c` works: its engine does, no fault has stopped it, and no quiesce marker has returned (R278, R400, R412). -/
def streamWorks (s : State) (c j p : Nat) : Bool :=
  s.works p (unitStream c) && !streamDown s c j p && (s.ctx c).all fun x => x.state != .quiet

/-- A stream's fault, reported with its elements completed (R278). It stops the stream, which reports no second one. DEDUCED: log entry 35. -/
def streamFault (s : State) (c j : Nat) (x : Ctx) (st : Stream) (cause va : Nat) : Option State :=
  if streamDown s c j x.part then none else s.faultOnce x.part (unitStream c) cause j va st.pos x.job

/-- A packet of the stream engine of a core. -/
def streamPacket (c j : Nat) (x : Ctx) (dest : Dest) (body : Body) : Packet :=
  { origin := .stream c j, part := x.part, dest, src := c, seq := 0, floor := 0, time := x.relTime, job := x.job, body, since := none }

/-- One element of a stream that wants it: its translation is asked for, and its line is requested if the core does not hold it and has not asked (R83, R390). -/
def wantElem (c j : Nat) (s : State) (i : Nat) : State :=
  match s.ctx c with
  | none => s
  | some x =>
    match x.stream j with
    | none => s
    | some st =>
      let a := st.view.addr i
      if st.view.global then
        let (s, r) := reach s (.stream c j) (dieOf c) x.part .read false a
        match r with
        | .miss => s
        | .fault cause => (streamFault s c j x st cause a).getD s
        | .ok g =>
          let body := Body.read (a / 64) g.ag (g.tgt.addr / 64)
          if (heldLine (s.core c) st x.part g.ag (a / 64)).isSome then s
          else if s.fabric.any fun q => q.streamCore == some c && q.body == body && (!q.once || q.origin == .stream c j) then s
          else { s with fabric := s.fabric ++ [{ streamPacket c j x g.tgt.dest body with fto := s.mgmt.fto, once := g.stale }] }
      else if inSpad a (max 1 (st.w / 8)) then s
      else (streamFault s c j x st Cause.bounds.code 0).getD s

/-- What a stream asks for on its core's turn: a slot is reserved where a fill stream has room (R266), and lines are requested. -/
def streamAsk (c : Nat) (s : State) (j : Nat) : State :=
  match s.ctx c with
  | none => s
  | some x =>
    match x.stream j with
    | none => s
    | some st =>
      let r := x.ring st.view.ring
      if st.view.global && x.readHeld st.issued && st.mode != .drain then s
      else if !ringRoleOk x st then
        if st.view.count = 0 then s else (streamFault s c j x st Cause.ringRole.code 0).getD s
      else if st.mode = .fill then
        if !st.filling r.slot then s
        else
          let s := if r.resv = 0 ∧ 0 < r.free ∧ st.bound then s.setCtx c (x.setRing st.view.ring { r with resv := 1 }) else s
          if r.resv = 0 ∧ (r.free = 0 ∨ !st.bound) then s else (st.want r.slot).foldl (wantElem c j) s
      else (st.want 1).foldl (wantElem c j) s

/-- Masked bytes laid over the data of a line. -/
def mergeLine (data : List Byte) (bs : List MByte) : List Byte :=
  bs.foldl (fun d b => d.modify (b.1 % 64) fun o => (o &&& ~~~b.2.2) ||| (b.2.1 &&& b.2.2)) data

/-- The data of a line under the writes of the core's own streams that are still on their way to it (R85). A held write is performed at nobody (R429). -/
def ownWrites (s : State) (c : Nat) (d : Dest) (line : Nat) (data : List Byte) : List Byte :=
  s.fabric.foldl (fun data q => match q.body with
    | .write bs _ false => if q.streamCore == some c && q.dest == d then mergeLine data (bs.filter fun b => b.1 / 64 == line) else data
    | _ => data) data

/-- A line arrives for a core's streams: the window keeps it, or, once the phase has needed an 8,193rd distinct line, only the stream that asked gets it (R83, R84). PHOVF is set by the line that is the 8,193rd. A line that the window is not to keep is not counted (R395). -/
def snapFill (s : State) (c j : Nat) (once : Bool) (l : SnapLine) : State :=
  let k := s.core c
  let phase := if k.full || k.phase.contains (l.line, l.group) then k.phase else k.phase ++ [(l.line, l.group)]
  if once then s.onCtx c fun x => { x with streams := x.streams.modify j fun o => o.map fun st => { st with inbox := st.inbox ++ [l] } }
  else if !k.full && decide (phase.length ≤ 8192) then s.setCore c { k with phase, window := k.window ++ [l] }
  else (s.setCore c { k with phase, full := true }).onCtx c fun x =>
    { x with ctl := if k.full then x.ctl else { x.ctl with lstat := x.ctl.lstat ||| lstatPhovf }
             streams := x.streams.modify j fun o => o.map fun st => { st with inbox := st.inbox ++ [l] } }
where
  /-- LSTAT.PHOVF (Table 5.8). -/
  lstatPhovf : Nat := 1

/-- The data of a line read: memory, or what another module answers. -/
def lineData (s : State) (d : Dest) (line : Nat) : List Byte :=
  match d with
  | .berth _ m => if m = 4096 then s.readMem (64 * line) 64 else (List.range 64).map (Config.remote s.free)
  | _ => s.readMem (64 * line) 64

/-- An atomic of core `c` to a line has gone ahead of packet `k` and its result has not come back: a read of the line waits for it, so that the core's reads of one location never go back (R86, R87). One that still travels behind the packet is itself held back by the core's writes before it. -/
def atomicAhead (s : State) (k c : Nat) (d : Dest) (line : Nat) : Bool :=
  s.reqs.any fun r => r.core == c && (r.packets.any fun q => q.dest == d && match q.body with
    | .op pa _ _ => pa / 64 == line
    | .chase _ pa => pa / 64 == line
    | _ => false) && !(s.fabric.drop (k + 1)).any fun q => q.src == c && q.seq == r.seq && match q.body with
    | .op .. => true
    | .chase .. => true
    | _ => false

/-- HOME_LINE_READ: packet `k` is read at its home, after the core's own earlier writes and atomics to the line, and its line returns (R83, R85, R87). A read of another module is answered through its berth (R445). -/
def homeLineRead (k : Nat) (s : State) : Option State := do
  let q ← s.fabric[k]?
  match q.body, q.origin with
  | .read vline ag line, .stream c j =>
    let s1 := { s with fabric := dropAt s.fabric k, free := s.free + 1 }
    match (s.ctx c).bind fun x => x.stream j with
    | none => some s1
    | some _ =>
      if !inOrder s k || atomicAhead s k c q.dest line then none
      else
        let up := match q.dest with
          | .home h => homeWorks s q.part h
          | .berth b _ => s.berthServes b q && s.works q.part (unitStream c)
          | .host => s.hostUp && s.works q.part (unitStream c)
          | _ => false
        if !pathOk s q then pathFault s q
        else if !up then none
        else if q.dest.isHome && (List.range 64).any fun i => s.converting (64 * line + i) then
          packetFault s { q with va := 64 * vline } (State.homeUnit (homeOf (64 * line)) (unitStream c)) Cause.convertBusy.code
        else match remoteMiss s q with
          | some cause => packetFault s { q with va := 64 * vline } (unitStream c) cause
          | none => some ((snapFill (match q.dest with
            | .berth b _ => s1.flit b
            | _ => s1) c j q.once ⟨vline, q.part, ag, ownWrites s c q.dest line (lineData s q.dest line)⟩).onCtx c fun x => x.reads s.far)
  | .read _ _ line, .berth _ _ => match q.dest with
    | .home h =>
      let s1 := { s with fabric := dropAt s.fabric k }
      if !homeWorks s q.part h then none
      else some (replyTo s1 q (if (List.range 64).any fun i => s.converting (64 * line + i) then .fault Cause.convertBusy.code 0 h else .ret (s.readMem (64 * line) 64)))
    | _ => none
  | _, _ => none

/-- All of a list, if every one is there. -/
def allPresent {α : Type} : List (Option α) → Option (List α)
  | [] => some []
  | o :: os => match o, allPresent os with
    | some a, some l => some (a :: l)
    | _, _ => none

/-- PORT_ENTRY_ARRIVAL: the next entry of an in stream is complete (R256, R261). -/
def portEntryArrival (c j : Nat) (s : State) : Option State := do
  let x ← s.ctx c
  let st ← x.stream j
  let want := st.want 1
  if want.isEmpty || st.mode != .inp || !streamWorks s c j x.part then none
  else
    let es ← allPresent (want.map (streamElem s c j x st))
    let e : Entry := ⟨st.count + st.queue.length, x.bn, BitVec.ofNat 4096 (ofElems st.w es), true, x.bn⟩
    let st := { st with queue := st.queue ++ [e], pos := st.pos + want.length, inbox := [] }
    some (dropGrants (s.setCtx c { x.setStream j (some st) with free := x.free + 1 }) (.stream c j))

/-- The bytes of codes packed one after another. -/
def packCodes (w : Nat) (es : List Nat) : List Byte := bytesOf (ofElems w es) ((w * es.length + 7) / 8)

/-- A stream with nothing left is gone once it is no longer bound; its release, if it has one, is performed at its last write, be that the last of its pattern or the last that it makes (R90, R262, R275). -/
def settleStream (s : State) (c j : Nat) : State :=
  match s.ctx c with
  | none => s
  | some x =>
    match x.stream j with
    | none => s
    | some st =>
      let slot := (x.ring st.view.ring).slot
      let excess := match st.mode with
        | .out => st.queue.isEmpty && decide (st.pos = st.sent)
        | .drain => decide (st.pos = st.sent) && !st.slotDone slot
        | .fill => !st.filling slot
        | _ => false
      let last := decide (st.pos = st.view.count) || !st.bound
      let s := if st.rel && excess && last then s.released c st.scope else s
      if excess && !st.bound then s.onCtx c fun x => x.setStream j none else s

/-- RING_SLOT_COMMIT: a fill stream packs and commits its next slot (R266, R268). DESIGN CHOICE: log entry 97. -/
def ringSlotCommit (c j : Nat) (s : State) : Option State := do
  let x ← s.ctx c
  let st ← x.stream j
  let r := x.ring st.view.ring
  if st.mode != .fill || !st.filling r.slot || !ringRoleOk x st || r.resv == 0 || !streamWorks s c j x.part then none
  else
    let want := st.want r.slot
    let es ← allPresent (want.map (streamElem s c j x st))
    let first := want.headD 0
    let skip := st.slots * r.slot - first * st.w / 8
    let bs := ((packCodes st.w es).drop skip).take r.slot
    let bs := bs ++ List.replicate (r.slot - bs.length) 0
    let s := s.setCore c ((s.core c).engineWrite (r.at_ r.t) bs)
    let x ← s.ctx c
    let done := min st.view.count ((st.slots + 1) * r.slot * 8 / st.w)
    let st := { st with slots := st.slots + 1, pos := done, inbox := [] }
    let x := (x.setStream j (some st)).setRing st.view.ring { r with t := (r.t + 1) % 2 ^ 32, resv := r.resv - 1 }
    some (settleStream (dropGrants (s.setCtx c { x with free := x.free + 1 }) (.stream c j)) c j)

/-! ### Writes (R259, R261, R268) -/

/-- The masked bytes of one element at a byte address. -/
def elemBytes (w nib a code : Nat) : List MByte :=
  if w < 8 then [(a, BitVec.ofNat 8 ((code % 16) <<< (4 * nib)), BitVec.ofNat 8 (0xF <<< (4 * nib)))]
  else (bytesOf code (w / 8)).zipIdx.map fun e => (a + e.2, e.1, 0xFF#8)

/-- Adds masked bytes to a line's list; the later element wins (R261). -/
def addBytes (l : List MByte) (bs : List MByte) : List MByte :=
  bs.foldl (fun l b => match l.find? fun e => e.1 == b.1 with
    | some e => l.map fun f => if f.1 = b.1 then (b.1, (e.2.1 &&& ~~~b.2.2) ||| (b.2.1 &&& b.2.2), e.2.2 ||| b.2.2) else f
    | none => l ++ [b]) l

/-- A write of one line on its way: destination, virtual line and group, bytes, elements and the first of them, and whether it is held. -/
structure LineWrite where
  dest : Dest
  vline : Nat
  ag : Nat
  bytes : List MByte
  count : Nat
  elem : Nat
  held : Bool
  deriving DecidableEq, Repr

/-- The virtual address of its first byte. -/
def LineWrite.va (w : LineWrite) : Nat := 64 * w.vline + (w.bytes.head?.map fun b => b.1 % 64).getD 0

/-- Adds an element's bytes to the writes of its line. -/
def addLine (ws : List LineWrite) (w : LineWrite) : List LineWrite :=
  match ws.findIdx? fun v => v.dest == w.dest && v.vline == w.vline && v.ag == w.ag && v.held == w.held &&
      v.bytes.head?.map (fun b => b.1 / 64) == w.bytes.head?.map (fun b => b.1 / 64) with
  | some i => ws.modify i fun v => { v with bytes := addBytes v.bytes w.bytes, count := v.count + w.count }
  | none => ws ++ [w]

/-- What sending elements gives: the writes by line, or a wait for a translation, or a fault after so many elements. -/
inductive Sending where
  | ok (ws : List LineWrite)
  | wait
  | fault (n cause va : Nat) (ws : List LineWrite)
  deriving DecidableEq, Repr

/-- The bytes from `a` to `a + n` by the lines they lie in: the address and length of each piece. An element of SPACE = 1 need not be aligned (R322). -/
def pieces (a n : Nat) : List (Nat × Nat) :=
  if a % 64 + n ≤ 64 then [(a, n)] else [(a, 64 - a % 64), (a + 64 - a % 64, a % 64 + n - 64)]

/-- The pieces of element `i` of a view, with addresses modulo `m`. -/
def View.pieces (v : View) (m i : Nat) : List (Nat × Nat) := Machine.pieces (v.addr i % m) (max 1 (v.w / 8))

/-- The first piece of an element that has no place yet, with its address. -/
def firstBar (s : State) (who : Waiter) (d p : Nat) (kind : Access) (copy : Bool) : List (Nat × Nat) → Option (Reach × Nat)
  | [] => none
  | q :: qs => match peekReach s who d p kind copy q.1 with
    | .ok _ => firstBar s who d p kind copy qs
    | r => some (r, q.1)

/-- The writes of the pieces of one element: of its masked bytes `bs`, counted from its first, those from `off` on. Each piece is a write to its line (R440). -/
def addPieces (s : State) (who : Waiter) (d p : Nat) (copy : Bool) (i : Nat) (bs : List MByte) :
    Nat → List (Nat × Nat) → List LineWrite → List LineWrite
  | _, [], ws => ws
  | off, q :: qs, ws => addPieces s who d p copy i bs (off + q.2) qs (match peekReach s who d p .write copy q.1 with
    | .ok g =>
      let mine := bs.filter fun b => decide (off ≤ b.1 ∧ b.1 < off + q.2)
      addLine ws ⟨g.tgt.dest, q.1 / 64, g.ag, mine.map fun b => (g.tgt.addr + b.1 - off, b.2), 1, i, s.mustHold p g.tgt g.irrev⟩
    | _ => ws)

/-- The writes of a list of elements, in element order, with addresses modulo `m`. -/
def sendElems (s : State) (who : Waiter) (d p : Nat) (copy : Bool) (v : View) (m n : Nat) : List (Nat × Nat) → List LineWrite → Sending
  | [], ws => .ok ws
  | (i, code) :: es, ws =>
    match firstBar s who d p .write copy (v.pieces m i) with
    | some (.fault c, a) => .fault n c a ws
    | some _ => .wait
    | none => sendElems s who d p copy v m (n + 1) es
        (addPieces s who d p copy i (elemBytes v.w (modPow 1 (v.bitAddr i / 4)) 0 code) 0 (v.pieces m i) ws)

/-- Asks for the translations of numbered addresses; the first that has failed is the fault, with its number and address (R388, R390). -/
def askList (s : State) (who : Waiter) (d p : Nat) : List (Nat × Nat) → State × Option (Nat × Nat × Nat)
  | [] => (s, none)
  | (i, a) :: as =>
    if 2 ^ 56 ≤ a then askList s who d p as
    else
      let (s, r) := lookupFor s who d p (a / 4096)
      match r with
      | .fault cause => (s, some (i, cause, a))
      | _ => askList s who d p as

/-- Asks for the translations of elements that are to be read or written. -/
def askAll (s : State) (who : Waiter) (d p : Nat) (v : View) (m : Nat) (is : List Nat) : State × Option (Nat × Nat × Nat) :=
  askList s who d p (is.flatMap fun i => (v.pieces m i).map fun q => (i, q.1))

/-- R85: the core's own window takes the bytes of its stream write, unless the write is held (R429). -/
def updateWindow (k : Core) (p : Nat) (w : LineWrite) : Core :=
  if w.held then k
  else { k with window := k.window.map fun l =>
      if l.line = w.vline ∧ l.part = p ∧ l.group = w.ag then { l with data := mergeLine l.data w.bytes } else l }

/-- Elements of a stream leave: into the scratchpad at once, where they are then performed, or as write packets (R85, R261). Answers the state, the elements sent, and those performed. A fault is reported once the elements before it are performed, so that its count is exact (R278). -/
def sendStream (s : State) (c j : Nat) (x : Ctx) (st : Stream) (es : List (Nat × Nat)) : Option (State × Nat × Nat) :=
  let v := st.view
  let fails (s : State) (cause va : Nat) : Option (State × Nat × Nat) :=
    if st.pos = st.sent then (streamFault s c j x st cause va).map fun s => (s, 0, 0) else some (s, 0, 0)
  if v.global then
    match askAll s (.stream c j) (dieOf c) x.part v (2 ^ 64) (es.map Prod.fst) with
    | (s, miss) =>
      let put (s : State) (ws : List LineWrite) : State :=
        ws.foldl (fun s w => { s.setCore c (updateWindow (s.core c) x.part w) with
          fabric := s.fabric ++ [{ streamPacket c j x w.dest (.write w.bytes w.count w.held) with va := w.va, elem := w.elem }] }) s
      let sure := match miss with
        | some (i, _, _) => es.takeWhile fun e => e.1 != i
        | none => es
      match sendElems s (.stream c j) (dieOf c) x.part false v (2 ^ 64) 0 sure [] with
      | .wait => some (s, 0, 0)
      | .fault n cause va ws => if n = 0 then fails s cause va else some (put s ws, n, 0)
      | .ok ws => match sure, miss with
        | [], some (_, cause, va) => fails s cause va
        | _, _ => some (put s ws, sure.length, 0)
  else
    let n := (es.takeWhile fun e => inSpad (v.addr e.1) (max 1 (v.w / 8))).length
    if n = 0 ∧ es ≠ [] then fails s Cause.bounds.code 0
    else
      let k := (es.take n).foldl (fun (k : Core) e =>
        (elemBytes v.w (modPow 1 (v.bitAddr e.1 / 4)) (v.addr e.1) e.2).foldl (fun (k : Core) b =>
          k.engineWrite b.1 [(k.newest b.1 &&& ~~~b.2.2) ||| (b.2.1 &&& b.2.2)]) k) (s.core c)
      some (s.setCore c k, n, n)

/-- A stream's elements have left: those sent, and those performed; what it then has nothing more to do for is settled. -/
def Stream.moved (st : Stream) (sent done : Nat) : Stream := { st with sent := st.sent + sent, pos := st.pos + done }

/-- What a port-out stream sends on its core's turn: the head entry, once it has landed (R259). -/
def sendOut (s : State) (c j : Nat) (x : Ctx) (st : Stream) : Option State :=
  match st.queue.head? with
  | some e =>
    if !e.landed || x.heldBack e.born then none
    else
      let n := 4096 / st.w
      let first := e.id * n
      let cs := elemsOf st.w e.data.toNat n
      let todo := ((range first (min st.view.count (first + n))).zip cs).drop (st.sent - first)
      (sendStream s c j x st todo).map fun (s, m, d) =>
        let s := s.onCtx c fun x => x.setStream j (some { st.moved m d with queue := if m = todo.length then st.queue.drop 1 else st.queue })
        if d = 0 ∧ m ≠ todo.length then s else settleStream s c j
  | none => none

/-- What a drain stream sends on its core's turn: the elements of the slot at its head (R268). -/
def sendDrain (s : State) (c j : Nat) (x : Ctx) (st : Stream) : Option State :=
  let r := x.ring st.view.ring
  if !st.bound || !ringRoleOk x st || st.pos != st.sent || r.slot == 0 then none
  else
    let upto := min (st.slotEnd r.slot st.slots) ((st.slots + r.fill) * r.slot * 8 / st.w)
    let since := r.advancedAt r.h
    if upto ≤ st.sent || x.heldBack (max st.issued since) then none
    else
      let at_ (b : Nat) : Nat := r.at_ (r.h + b / r.slot - st.slots) + b % r.slot
      let see := seeRing st.acq st.rel st.issued since
      let byte (b : Nat) : Byte := engineByte x (s.core c).mem see (at_ b)
      let code (i : Nat) : Nat :=
        if st.w < 8 then (byte (i / 2)).toNat >>> (4 * (i % 2)) % 16
        else ofBytes ((List.range (st.w / 8)).map fun b => byte (i * st.w / 8 + b))
      if x.undecided see (r.at_ r.h) r.slot then none
      else (sendStream s c j x st ((range st.sent upto).map fun i => (i, code i))).map fun (s, m, d) =>
        let s := s.onCtx c fun x => x.setStream j (some (st.moved m d))
        if d = 0 then s else settleStream s c j

/-- The turn of stream `j` of core `c`. The engine stalls while a write that it holds finds no room (R430). -/
def streamTurn (c : Nat) (s : State) (j : Nat) : State :=
  match s.ctx c with
  | none => s
  | some x =>
    match x.stream j with
    | none => s
    | some st =>
      if !streamWorks s c j x.part || s.heldUp (fun o => match o with
        | .stream d _ => d == c
        | _ => false) then s
      else match st.mode with
        | .out => (sendOut s c j x st).getD s
        | .drain => (sendDrain (streamAsk c s j) c j x st).getD (streamAsk c s j)
        | .cond => s
        | _ => streamAsk c s j

/-- STREAM_WRITE_PERFORMED: the writes that a stream has sent are performed (R276). -/
def streamWritePerformed (c j : Nat) (s : State) : Option State := do
  let x ← s.ctx c
  let st ← x.stream j
  if (st.mode ≠ .out ∧ st.mode ≠ .drain) ∨ st.pos = st.sent ∨ s.fabric.any fun q => q.origin == .stream c j then none
  else
    let s := s.setCtx c (x.setStream j (some { st with pos := st.sent }))
    some (settleStream (dropGrants s (.stream c j)) c j)

/-- RING_SLOT_FREE: a drain stream frees the slot whose elements are all written (R268). -/
def ringSlotFree (c j : Nat) (s : State) : Option State := do
  let x ← s.ctx c
  let st ← x.stream j
  let r := x.ring st.view.ring
  if st.mode != .drain || !ringRoleOk x st || r.fill == 0 || !streamWorks s c j x.part || st.view.count == 0 then none
  else if st.slotDone r.slot then
    let x := (x.setStream j (some { st with slots := st.slots + 1 })).setRing st.view.ring { r with h := (r.h + 1) % 2 ^ 32 }
    some (settleStream (s.setCtx c x) c j)
  else none

def execSbalRun (p t : Nat) (s : State) : Out := engine (sbalRun p t) s
def execSbalComplete (p t : Nat) (s : State) : Out := engine (sbalComplete p t) s
def execPortEntryArrival (c j : Nat) (s : State) : Out := engine (portEntryArrival c j) s
def execStreamWritePerformed (c j : Nat) (s : State) : Out := engine (streamWritePerformed c j) s
def execRingSlotCommit (c j : Nat) (s : State) : Out := engine (ringSlotCommit c j) s
def execRingSlotFree (c j : Nat) (s : State) : Out := engine (ringSlotFree c j) s
def execHomeLineRead (k : Nat) (s : State) : Out := engine (homeLineRead k) s
def execHomeLineWrite (w : HomeWrite) (s : State) : Out := engine (homeLineWrite w) s

end Sys2Proof.Machine
end

