-- ==== Sys2Proof/Machine/CopyEngine.lean ====
section
/-!
DEFINITION. The copy engines: CPY, CPYW and CPYQ (R318 to R327), bursts and their gather packets (R318, R364), completion (R323) and faults (R330).
-/

namespace Sys2Proof.Machine

/-! ### The syllables -/

/-- A copy tag of a context. -/
def Ctx.copyTag (x : Ctx) (t : Nat) : CopyTag := SMap.get ⟨false, 0⟩ x.copies t

/-- Replaces a copy tag. -/
def Ctx.setCopyTag (x : Ctx) (t : Nat) (v : CopyTag) : Ctx := { x with copies := SMap.put ⟨false, 0⟩ x.copies t v }

/-- Every element of a scratchpad view lies in the scratchpad (R322, check 5). -/
def View.inBounds (v : View) : Bool := (List.range v.count).all fun i => inSpad (v.addr i) (max 1 (v.w / 8))

/-- The side that a view describes (R321). -/
def View.side (v : View) : Side := if v.rb then .ring v.ring else .view v

/-- The place of address `a` of a view in the core's own scratchpad, by SPACE = 0 or through the aperture (R79). -/
def ownAddr (s : State) (x : Ctx) (v : View) (a : Nat) : Option Nat :=
  if !v.global then some a
  else if 2 ^ 56 ≤ a then none
  else match reachOf s x.part .read true a (lookupNow s (dieOf x.core) x.part (a / 4096)) with
    | .ok g => match g.tgt with
      | .core c b => if c = x.core then some b else none
      | _ => none
    | _ => none

/-- What an acquiring copy of `n` elements sees of its core's own scratchpad: the slot stores of earlier bundles, and no others (R326), by address, or by its place in the source where a ring's committed slots are the source. A byte whose rounding is still open is left out, and waits. DEDUCED: log entry 37. -/
def acquired (s : State) (k : Core) (x : Ctx) (v : View) (n : Nat) : SMap Byte :=
  let see := seeAs true false x.bn
  let keep (m : SMap Byte) (key a : Nat) : SMap Byte :=
    if (m.any fun e => e.1 == key) || x.undecided see a 1 then m
    else insertBy (fun p q => decide (p.1 < q.1)) (key, engineByte x k.mem see a) m
  if v.rb then
    let r := x.ring v.ring
    (List.range (min (r.fill * r.slot) ((n * v.w + 7) / 8))).foldl (fun m b => keep m b (r.at_ (r.h + b / r.slot) + b % r.slot)) []
  else (List.range v.count).foldl (fun m i => (v.pieces (2 ^ 64) i).foldl (fun m q => match ownAddr s x v q.1 with
    | some a => (List.range q.2).foldl (fun m b => keep m (a + b) (a + b)) m
    | none => m) m) []

/-- R321, R322. -/
def execCpy (h : Hdr) (f : F3) (s : State) : Out :=
  sylS h s fun k x0 =>
    let si := 4 + f.d.toNat % 4
    let di := 4 + f.d.toNat / 4 % 4
    let x1 := x0.exchangeIf f.w si
    let x := if si = di then x1 else x1.exchangeIf f.w di
    let a := x.view si (x.rs f.b).toInt
    let b := x.view di (x.rs f.c).toInt
    let n := if a.rb then b.count else a.count
    let rt := f.d.getLsbD 5
    let ln := if f.d.getLsbD 6 then some f.sub.toNat else none
    let t := f.a.toNat
    .need (!(x.copyTag t).busy) .copyBusy
      (.need (a.shapeOk && b.shapeOk) .shapeField
        (.need (!(a.rb && b.rb) && a.w == b.w && (a.rb || b.rb || a.count == b.count) && decide (n * a.w / 8 < 2 ^ 48)) .copyShape
          (.need ((a.global || a.rb || a.aligned) && (b.global || b.rb || b.aligned)) .misalign
            (.need ((a.global || a.rb || a.inBounds) && (b.global || b.rb || b.inBounds)) .bounds
              (let c : Copy :=
                 { id := s.nextId, die := dieOf s.cur, engine := (s.copyEngines x.part (dieOf s.cur)).headD 0, part := x.part, job := x.job
                   by_ := .cpy s.cur x.team t ln rt, scope := scopeOf f, acq := acqOf f, rel := relOf f, issued := x.bn
                   w := a.w, n, unit := 1, src := a.side, dst := b.side, done := 0, upto := 0, bursts := []
                   fault := none, slots := 0, rtWait := none, stopped := false
                   shadow := if acqOf f then acquired s k x a n else [], since := none }
               let s := s.setCtx s.cur x
               let s := if acqOf f then s.onCtx s.cur fun y => y.raiseFloor (scopeOf f) else s
               let done (s : State) : State :=
                 let s := if relOf f then s.released s.cur (scopeOf f) else s
                 match ln with
                 | some l => s.bump s.cur l
                 | none => s
               .ok (if n = 0 ∧ !rt then done (s.onCtx s.cur fun y => y.setCopyTag t ⟨false, 0⟩)
                 else { s.onCtx s.cur fun y => y.setCopyTag t ⟨true, 0⟩ with copies := s.copies ++ [c], nextId := s.nextId + 1 }))))))

/-- R324. -/
def execCpyw (h : Hdr) (f : F3) (s : State) : Out :=
  syl h s fun _ x =>
    let ts := if f.sub.getLsbD 0 then List.range 16 else [f.a.toNat]
    .await (ts.all fun t => !(x.copyTag t).busy) (.ok x)

/-- The incomplete copy of tag `t` of the context on core `c`. -/
def State.tagged (s : State) (c t : Nat) : Option Copy := (s.copiesOf c).find? fun k => match k.by_ with
  | .cpy _ _ u _ _ => u == t
  | .record .. => false

/-- The bytes that the last copy of tag `t` has completed (R325). -/
def tagBytes (s : State) (c : Nat) (x : Ctx) (t : Nat) : Nat :=
  if (x.copyTag t).busy then ((s.tagged c t).map fun k => k.bytes s).getD 0 else (x.copyTag t).bytes

/-- R325. -/
def execCpyq (h : Hdr) (f : F3) (s : State) : Out :=
  syl h s fun _ x =>
    let t := f.a.toNat
    .ok (x.putS h 2 f.b (BitVec.ofNat 64 (tagBytes s s.cur x t + b2n (x.copyTag t).busy * 2 ^ 63)))

/-! ### Bursts -/

/-- Changes a copy. -/
def State.onCopy (s : State) (id : Nat) (g : Copy → Copy) : State :=
  { s with copies := s.copies.map fun k => if k.id = id then g k else k }

namespace Copy

/-- Addresses are taken modulo 2^56 for a record (R328), and modulo 2^64 for a CPY (R207). -/
def modulus (k : Copy) : Nat := match k.by_ with
  | .cpy .. => 2 ^ 64
  | .record .. => 2 ^ 56

/-- The core whose context issued the copy. -/
def core (k : Copy) : Option Nat := match k.by_ with
  | .cpy c _ _ _ _ => some c
  | .record .. => none

/-- The tag under which a fault is reported (R330). -/
def tag (k : Copy) : Nat := match k.by_ with
  | .cpy _ _ t _ _ => t
  | .record .. => 0

/-- Queue and index of a record copy, as a stop record gives them (Table 16.3). -/
def detail (k : Copy) : Nat := match k.by_ with
  | .cpy .. => 0
  | .record src _ _ => src.detail

/-- Elements in a burst (R318). -/
def burst (k : Copy) : Nat := 2048 * 8 / k.w

/-- The ring of the copy, of the context that issued it. -/
def ring (k : Copy) : Option Nat := match k.src, k.dst with
  | .ring r, _ => some r
  | _, .ring r => some r
  | _, _ => none

/-- RT of a CPY. -/
def isRt (k : Copy) : Bool := match k.by_ with
  | .cpy _ _ _ _ rt => rt
  | .record .. => false

/-- The end of what may be sent: the element of a fault, or the last. -/
def limit (k : Copy) : Nat := (k.fault.map CopyFault.elem).getD k.n

/-- Burst `b` of the copy, changed. -/
def onBurst (k : Copy) (b : Burst) (g : Burst → Burst) : Copy :=
  { k with bursts := k.bursts.map fun c => if c.lo = b.lo then g c else c }

/-- A fault at element `i`, for the slot of `unit`: the first in element order is the copy's. -/
def meetAt (k : Copy) (unit i cause va : Nat) : Copy :=
  let i := i / k.unit * k.unit
  if k.fault.all fun f => decide (i < f.elem) then { k with fault := some ⟨i, cause, va, unit⟩ } else k

end Copy

/-- Copy `id` meets a fault at element `i`, for the slot of `unit` (R330). Of two, the later in element order is not reported; an uncorrectable error goes to recovery all the same (R365). -/
def State.meetAt (s : State) (id unit i cause va : Nat) : State :=
  match s.copy id with
  | none => s
  | some k =>
    let t := s.onCopy id fun k => k.meetAt unit i cause va
    let lost := k.fault.map fun f => if decide (i / k.unit * k.unit < f.elem) then f else ⟨i, cause, va, unit⟩
    match lost with
    | some f => if f.cause = Cause.uncorrectable.code then t.engineFault k.part f.unit f.cause k.tag f.va (k.bytes s) k.job else t
    | none => t

/-- A fault at element `i`, in burst `b` of copy `k`. -/
def State.meet (s : State) (k : Copy) (b : Burst) (i cause va : Nat) : State := s.meetAt k.id (unitCopy k.die b.engine) i cause va

/-- A copy's fault, reported with its completed prefix (R330). The copy stops. -/
def copyFault (s : State) (k : Copy) (unit cause va : Nat) : State :=
  (s.raise k.part { unit, kind := 4, cause, tag := k.tag, pc := 0, va, count := k.bytes s, detail := k.detail
                    job := k.job, syl := 0, slot := 0, cycle := s.cycle }).onCopy k.id fun c => { c with stopped := true, fault := none }

/-- Where the bytes from an address on are: their target, or that they wait, or their fault. -/
inductive Spot where
  | pad (a : Nat)
  | at_ (g : Access.Ok)
  | wait
  | fault (cause va : Nat)
  deriving DecidableEq, Repr

/-- The place of the bytes of a view from address `a` on. -/
def spotAt (s : State) (k : Copy) (kind : Access) (v : View) (a : Nat) : Spot :=
  if !v.global then .pad a
  else match peekReach s (.copy k.id) k.die k.part kind true a with
    | .miss => .wait
    | .fault c => .fault c a
    | .ok g =>
      if s.converting g.tgt.addr && (match g.tgt with
        | .home _ _ => true
        | _ => false) then .fault Cause.convertBusy.code a else .at_ g

/-- The place of the first byte of element `i` of a view. -/
def spotOf (s : State) (k : Copy) (kind : Access) (v : View) (i : Nat) : Spot := spotAt s k kind v (v.addr i % k.modulus)

/-- The first element of a list that has no place yet: it waits or faults. -/
def firstBad (s : State) (k : Copy) (kind : Access) (v : View) : List Nat → Option (Nat × Spot)
  | [] => none
  | i :: is =>
    match (v.pieces k.modulus i).findSome? fun q => match spotAt s k kind v q.1 with
      | .wait => some Spot.wait
      | .fault c a => some (.fault c a)
      | _ => none with
    | some w => some (i, w)
    | none => firstBad s k kind v is

/-- The first bad element over both sides; the source comes first. -/
def burstBad (s : State) (k : Copy) (is : List Nat) : Option (Nat × Spot) :=
  let one (kind : Access) : Side → Option (Nat × Spot)
    | .view v => firstBad s k kind v is
    | .ring _ => none
  match one .read k.src, one .write k.dst with
  | some a, some b => some (if b.1 < a.1 then b else a)
  | a, b => a.or b

/-- Asks for the translations of one side of elements; the first that fails comes with its element (R389, R390). -/
def askSide (s : State) (k : Copy) (is : List Nat) : Side → State × Option (Nat × Nat × Nat)
  | .view v => if v.global then askAll s (.copy k.id) k.die k.part v k.modulus is else (s, none)
  | .ring _ => (s, none)

/-- Asks for the translations of both sides of elements. -/
def askSides (s : State) (k : Copy) (is : List Nat) : State × Option (Nat × Nat × Nat) :=
  let (s, a) := askSide s k is k.src
  let (s, b) := askSide s k is k.dst
  (s, match a, b with
    | some x, some y => some (if y.1 < x.1 then y else x)
    | x, y => x.or y)

/-- The addresses that RT looks at: those of the pieces of the destination's elements, or BASE where there are none (R322, R323). -/
def Copy.rtAddrs (k : Copy) : List Nat :=
  match k.dst with
  | .ring _ => []
  | .view v => if !v.global then [] else if k.n = 0 then [v.base % 2 ^ 64]
    else (List.range k.n).flatMap fun i => (v.pieces k.modulus i).map Prod.fst

/-- The core whose aperture holds the whole destination, where its translations are there (R323). -/
def rtCore (s : State) (k : Copy) : Option Nat :=
  let cores := k.rtAddrs.map fun a =>
    match peekReach s (.copy k.id) k.die k.part .write true a with
    | .ok g => match g.tgt with
      | .core c _ => some c
      | _ => none
    | _ => none
  match cores with
  | some c :: cs => if cs.all fun d => d == some c then some c else none
  | _ => none

/-- RT's destination has a translation still to come (R323). -/
def rtWaits (s : State) (k : Copy) : Bool :=
  k.rtAddrs.any fun a => match peekReach s (.copy k.id) k.die k.part .write true a with
    | .miss => true
    | _ => false

/-- The context of a copy, where it is resident. -/
def Copy.ctx (s : State) (k : Copy) : Option Ctx := k.core.bind s.ctx

/-- The elements that ring slots hold, or that ring room takes: the others wait (R266). -/
def ringEnd (s : State) (k : Copy) : Nat :=
  match k.ctx s, k.src, k.dst with
  | some x, .ring r, _ => (k.slots + (x.ring r).fill) * (x.ring r).slot * 8 / k.w
  | some x, _, .ring r => (k.slots + (x.ring r).free + (x.ring r).resv) * (x.ring r).slot * 8 / k.w
  | _, _, _ => k.n

/-- A copy's ring is its own to use (R266). -/
def copyRole (s : State) (k : Copy) : Bool :=
  match k.ctx s, k.src, k.dst with
  | some x, .ring r, _ => (x.ring r).init && (x.ring r).cons == 2 && decide (0 < (x.ring r).slot)
  | some x, _, .ring r => (x.ring r).init && (x.ring r).prod == 2 && decide (0 < (x.ring r).slot)
  | _, _, _ => true

/-- A copy may go on: it has not stopped, and of the crossings and alias fences before it none is outstanding (R89, R356, R357); a context whose markers have returned keeps its copies stopped (R412). -/
def copyFree (s : State) (k : Copy) : Bool :=
  !k.stopped && match k.core with
    | none => true
    | some c => (s.ctx c).all fun x => !x.heldBack k.issued && !x.readHeld k.issued && x.state != .quiet

/-- The stack and address of an element that a gather engine reads: its bytes lie in one page of HBM4E (R364). -/
def gatherAt (s : State) (k : Copy) (v : View) (i : Nat) : Option (Nat × Nat × Nat) :=
  let a := v.addr i % k.modulus
  if !v.global || decide (4096 < a % 4096 + max 1 (v.w / 8)) then none
  else match spotAt s k .read v a with
    | .at_ g => match g.tgt with
      | .home h b => if h < 8 then some (h, i, b) else none
      | _ => none
    | _ => none

/-- The gather packets of a burst: per stack, up to 64 elements of the copy each, in element order (R364). -/
def gatherOf (s : State) (k : Copy) (v : View) (is : List Nat) : List (Nat × List (Nat × Nat)) :=
  let es := is.filterMap (gatherAt s k v)
  let m := 64 * k.unit
  (List.range 8).flatMap fun h =>
    let mine := (es.filter fun e => e.1 == h).map Prod.snd
    (chunks m ((mine.length + m - 1) / m) mine).filterMap fun c => if c.isEmpty then none else some (h, c)

/-- The engines of a copy's pool that run no burst (R318, R319). -/
def freeEngines (s : State) (k : Copy) : List Nat :=
  (s.copyEngines k.part k.die).filter fun i => !s.copies.any fun c => c.die == k.die && c.bursts.any fun b => b.engine == i && !b.ended

/-- The engine that takes a copy's next burst: at D2 the one that became free first, and the lowest of them (R318, R333). DESIGN CHOICE: log entry 38. -/
def nextEngine (s : State) (k : Copy) : Option Nat :=
  let since (i : Nat) : Nat := SMap.get 0 s.engFree (unitCopy k.die i)
  if (s.part k.part).level = 2 then firstBy (fun i j => decide (since i < since j ∨ since i = since j ∧ i < j)) (freeEngines s k)
  else (freeEngines s k).head?

/-- The next burst of a copy goes to an engine. -/
def Copy.take (k : Copy) (i : Nat) : Copy :=
  { k with engine := i, upto := min k.n (k.upto + k.burst)
           bursts := k.bursts ++ [⟨i, k.upto, min k.n (k.upto + k.burst), k.upto, false, [], [], false⟩] }

/-- The bursts of a copy go to free engines, in order, `n` of them at most (R318). None starts in a halt, past a fault, or before RT's destination is known to lie in one aperture (R323, R331). DESIGN CHOICE: log entry 38. -/
def handOut (id : Nat) : Nat → State → State
  | 0, s => s
  | n + 1, s =>
    match s.copy id with
    | none => s
    | some k =>
      if (s.part k.part).halt.isSome || k.fault.isSome || decide (k.n ≤ k.upto) then s
      else match nextEngine s k with
        | none => s
        | some i => handOut id n (s.onCopy id fun c => c.take i)

/-- A code cut from bytes. -/
def cutCode (w nib : Nat) (bs : List Byte) : Nat := if w < 8 then ofBytes bs >>> (4 * nib) % 16 else ofBytes bs

/-- The nibble of element `i` of a view. -/
def View.nib (v : View) (i : Nat) : Nat := modPow 1 (v.bitAddr i / 4)

/-- A byte of a core's scratchpad as a copy reads it (R71, R326). DESIGN CHOICE: log entry 12. DEDUCED: log entry 37. -/
def copyByte (s : State) (k : Copy) (c a : Nat) : Byte :=
  match if k.core = some c ∧ k.acq then k.shadow.find? (fun e => e.1 == a) else none with
  | some e => e.2
  | none => match s.ctx c with
    | some x => engineByte x (s.core c).mem (if k.core = some c then seeAs k.acq k.rel k.issued else fun _ => none) a
    | none => SMap.get 0 (s.core c).mem a

/-- A byte from `a` on of the copy's own core is still to be rounded by a store that it must see (R302). DEDUCED: log entry 90. -/
def copyWaits (s : State) (k : Copy) (c a n : Nat) : Bool :=
  k.core == some c && (s.ctx c).any fun x => x.undecided (seeAs k.acq k.rel k.issued) a n

/-- The bytes that a copy reads at a place, where its path is open. -/
def spotBytes (s : State) (k : Copy) (salt n : Nat) : Spot → Option (List Byte)
  | .pad a => k.core.bind fun c => if copyWaits s k c a n then none else some ((List.range n).map fun b => copyByte s k c (a + b))
  | .at_ g => match g.tgt with
    | .core c a => if copyWaits s k c a n then none else some ((List.range n).map fun b => copyByte s k c (a + b))
    | .remote b _ a => if s.berthOpen b && !mine g.tgt a then some ((List.range n).map fun i => Config.remote s.free (salt + i)) else none
    | .cxl b a => if s.berthOpen b && !mine g.tgt a then some (s.readMem a n) else none
    | .host a => if s.hostUp then some (s.readMem a n) else none
    | .home _ a => if mine g.tgt a then none else some (s.readMem a n)
  | _ => none
where
  /-- A write of the core's own streams is on its way to the line (R87). -/
  mine (t : Target) (a : Nat) : Bool := k.core.any fun c => ownWriteIn s.fabric c t.dest (a / 64)

/-- The code of element `i`, where it can be read now: as a gather engine has returned it, or from its place. -/
def readElem (s : State) (k : Copy) (got : List (Nat × Nat)) (i : Nat) : Option Nat :=
  match k.src with
  | .ring r => do
    let c ← k.core
    let x ← s.ctx c
    let g := x.ring r
    let see (b : Nat) : PStore → Option Bool := seeRing k.acq k.rel k.issued (g.advancedAt (g.h + b / g.slot - k.slots))
    let at_ (b : Nat) : Nat := g.at_ (g.h + b / g.slot - k.slots) + b % g.slot
    let byte (b : Nat) : Option Byte :=
      match if k.acq then k.shadow.find? (fun e => e.1 == b) else none with
      | some e => some e.2
      | none => if x.undecided (see b) (at_ b) 1 then none else some (engineByte x (s.core c).mem (see b) (at_ b))
    (allPresent ((List.range (max 1 (k.w / 8))).map fun b => byte (i * k.w / 8 + b))).map (cutCode k.w (i % 2))
  | .view v =>
    match got.find? fun e => e.1 == i with
    | some e => some e.2
    | none => (allPresent ((v.pieces k.modulus i).map fun q => spotBytes s k (8 * i) q.2 (spotAt s k .read v q.1))).map fun bs =>
        cutCode v.w (v.nib i) bs.flatten

/-- Writes masked bytes into a core's scratchpad. -/
def padWrite (s : State) (c : Nat) (bs : List MByte) : State :=
  bs.foldl (fun s b =>
    let k := s.core c
    s.setCore c (k.engineWrite b.1 [(k.newest b.1 &&& ~~~b.2.2) ||| (b.2.1 &&& b.2.2)])) s

/-- One line write of a copy: into a scratchpad at once, or as a packet. A read or write of another module may be unmapped there (R80). -/
def sendLine (k : Copy) (s : State) (w : LineWrite) : State :=
  match w.dest with
  | .core c => padWrite s c w.bytes
  | d => { s with fabric := s.fabric ++ [{ origin := .copy k.id, part := k.part, dest := d, src := k.core.getD 0, seq := 0, floor := 0
                                           job := k.job, body := .write w.bytes w.count w.held, va := w.va, elem := w.elem, since := none }] }

/-- Elements of a copy are written: scratchpad bytes at once, the others as packets of their lines (R321, R323). -/
def writeElems (s : State) (k : Copy) (es : List (Nat × Nat)) : State :=
  match k.dst, k.core with
  | .ring r, some c =>
    match s.ctx c with
    | none => s
    | some x =>
      let g := x.ring r
      let put (s : State) (b : MByte) : State := padWrite s c [(g.at_ (g.t + b.1 / g.slot - k.slots) + b.1 % g.slot, b.2)]
      es.foldl (fun s e => (elemBytes k.w (e.1 % 2) (e.1 * k.w / 8) e.2).foldl put s) s
  | .ring _, none => s
  | .view v, co =>
    if !v.global then match co with
      | some c => es.foldl (fun s e => padWrite s c (elemBytes v.w (v.nib e.1) (v.addr e.1) e.2)) s
      | none => s
    else match sendElems s (.copy k.id) k.die k.part true v k.modulus 0 es [] with
      | .ok ws => ws.foldl (sendLine k) s
      | _ => s

/-- Reserves the slots of a copy's ring that its first `upto` elements fill (R266). -/
def reserveFor (s : State) (k : Copy) (upto : Nat) : State :=
  match k.core, k.dst with
  | some c, .ring r => s.onCtx c fun x =>
      let g := x.ring r
      x.setRing r { g with resv := (upto * k.w / 8 + g.slot - 1) / g.slot - k.slots }
  | _, _ => s

/-- A read of another module by a copy may be refused there (R80, R445): its element, cause and address. DESIGN CHOICE: log entry 13. -/
def copyMiss (s : State) (k : Copy) (is : List Nat) : Option (Nat × Nat × Nat) :=
  match k.src, remoteCause s with
  | .view v, some cause => is.findSome? fun i => match spotOf s k .read v i with
      | .at_ g => match g.tgt with
        | .remote _ _ _ => some (i, cause, v.addr i % k.modulus)
        | _ => none
      | _ => none
  | _, _ => none

/-- The requests for elements that a copy has read through berths take flits there (R451). -/
def copyFlits (s : State) (k : Copy) (is : List Nat) : State :=
  match k.src with
  | .ring _ => s
  | .view v => (is.filterMap fun i => match spotOf s k .read v i with
    | .at_ g => match g.tgt.dest with
      | .berth b _ => some b
      | _ => none
    | _ => none).eraseDups.foldl State.flit s

/-- A copy has read memory: its core's context has the values (R91, R97). DESIGN CHOICE: log entry 91. -/
def readsFor (s : State) (k : Copy) : State :=
  match k.core, k.src with
  | some c, .view v => if v.global then s.onCtx c fun x => x.reads s.far else s
  | _, _ => s

/-- The turn of burst `b` of copy `k`: its translations are asked for, its gather packets are sent, and once they are back, and every element before it has been sent, its elements are read and written (R318, R321, R364). -/
def burstTurn (s : State) (k : Copy) (b : Burst) : State :=
  let hi := min b.hi k.limit
  if hi ≤ b.pos || !s.works k.part (unitCopy k.die b.engine) then s
  else
    let is := range b.pos hi
    let (s, miss) := askSides s k is
    match miss with
    | some (i, c, a) => s.meet k b i c a
    | none => match burstBad s k is with
      | some (_, .wait) => s
      | some (i, .fault c a) => s.meet k b i c a
      | _ =>
        if !b.begun then s.onCopy k.id fun k => k.onBurst b fun b => { b with begun := true, gather := match k.src with
          | .view v => gatherOf s k v is
          | .ring _ => [] }
        else if !b.gather.isEmpty || decide (k.reach < b.lo) then s
        else
          let upto := min hi (ringEnd s k)
          if upto ≤ b.pos then s
          else match copyMiss s k (range b.pos upto) with
            | some (i, c, a) => { s with free := s.free + 1 }.meet k b i c a
            | none => match allPresent ((range b.pos upto).map fun i => (readElem s k b.got i).map fun c => (i, c)) with
              | none => s
              | some es =>
                let s := readsFor (writeElems (reserveFor (copyFlits { s with free := s.free + 1 } k (range b.pos upto)) k upto) k es) k
                s.onCopy k.id fun k => k.onBurst b fun b => { b with pos := upto }

/-- The ring slots that a copy commits or frees once `done` elements are complete (R266, R268). -/
def copySlots (s : State) (k : Copy) (done : Nat) : State :=
  match k.core, k.ring with
  | some c, some r => match s.ctx c with
    | none => s
    | some x =>
      let g := x.ring r
      let b := done * k.w / 8
      let n := if done = k.n then (b + g.slot - 1) / g.slot else b / g.slot
      if n = k.slots then s
      else
        let s := s.onCopy k.id fun c => { c with slots := n }
        match k.src with
        | .ring _ => s.onCtx c fun x => x.setRing r { g with h := (g.h + (n - k.slots)) % 2 ^ 32 }
        | .view _ =>
          let pad := n * g.slot - b
          let s := if done = k.n then (List.range pad).foldl (fun s i =>
            padWrite s c [(g.at_ (g.t + (b + i) / g.slot - k.slots) + (b + i) % g.slot, 0, 0xFF#8)]) s else s
          s.onCtx c fun x => x.setRing r { g with t := (g.t + (n - k.slots)) % 2 ^ 32, resv := if done = k.n then 0 else g.resv - (n - k.slots) }
  | _, _ => s

/-- What RT's look at its destination gives. -/
inductive RtLook where
  | ok
  | wait
  | fault (cause va : Nat)
  deriving DecidableEq, Repr

/-- RT looks at its whole destination before any byte is written (R323). A destination that cannot be translated, or that its translation does not permit, is that fault and not COPY_RT (R79, R330, R388). DESIGN CHOICE: log entry 114. -/
def rtLook (s : State) (k : Copy) : State × RtLook :=
  let (s, miss) := askList s (.copy k.id) k.die k.part (k.rtAddrs.map fun a => (0, a))
  let barred := k.rtAddrs.findSome? fun a => match peekReach s (.copy k.id) k.die k.part .write true a with
    | .fault c => some (c, a)
    | _ => none
  (s, match (miss.map Prod.snd).or barred with
    | some (c, a) => .fault c a
    | none => if rtWaits s k then .wait else if (rtCore s k).isSome then .ok else .fault Cause.copyRt.code 0)

/-- The turn of a copy: its fault is reported once what comes before it is performed (R330); else its bursts go to engines, and each does what it can. -/
def copyTurn (s : State) (id : Nat) : State :=
  match s.copy id with
  | none => s
  | some k =>
    if !copyFree s k then s
    else match k.fault with
      | some f =>
        if s.works k.part f.unit && decide (f.elem ≤ k.performed s) then copyFault s k f.unit f.cause f.va
        else bursts s k
      | none =>
        let unit := unitCopy k.die k.engine
        if !s.works k.part unit then bursts s k
        else if !copyRole s k && decide (k.upto < k.n) then copyFault s k unit Cause.ringRole.code 0
        else if k.isRt && decide (k.upto = 0 ∨ k.done = k.n) then
          match rtLook s k with
          | (s, .wait) => s
          | (s, .fault c a) => copyFault s k unit c a
          | (s, .ok) => bursts s k
        else bursts s k
where
  /-- Bursts start and move, and the ring follows what is complete. -/
  bursts (s : State) (k : Copy) : State :=
    let s := handOut k.id 32 s
    let los := ((s.copy k.id).map fun k => k.bursts.map Burst.lo).getD []
    let s := los.foldl (fun s lo => match s.copy k.id with
      | some k => match k.bursts.find? fun c => c.lo == lo with
        | some b => burstTurn s k b
        | none => s
      | none => s) s
    match s.copy k.id with
    | some k => if k.ring.isSome then copySlots s k (k.performed s) else s
    | none => s

/-- GATHER_PACKET: stack `t` reads the elements that a packet of copy `k` lists and returns them (R364). One whose bytes its converter works on is refused (R374). -/
def gatherPacket (k t : Nat) (s : State) : Option State := do
  let c ← s.copies[k]?
  let b ← c.bursts.find? fun b => b.gather.any fun g => g.1 == t
  let i ← b.gather.findIdx? fun g => g.1 == t
  let g ← b.gather[i]?
  match c.src with
  | .ring _ => none
  | .view v =>
    if !homeWorks s c.part t then none
    else
      let n := max 1 (v.w / 8)
      let busy (a : Nat) : Bool := (List.range n).any fun i => s.converting (a + i)
      let mine (a : Nat) : Bool := c.core.any fun o => ownWriteIn s.fabric o (.home t) (a / 64) || ownWriteIn s.fabric o (.home t) ((a + n - 1) / 64)
      if g.2.any fun e => mine e.2 then none
      else
        let es := (g.2.filter fun e => !busy e.2).map fun (e, a) => (e, cutCode v.w (v.nib e) (s.readMem a n))
        let s := readsFor (s.onCopy c.id fun c => c.onBurst b fun b => { b with gather := dropAt b.gather i, got := b.got ++ es }) c
        some (match g.2.find? fun e => busy e.2 with
          | some (e, _) => s.meetAt c.id (unitStack t) e Cause.convertBusy.code (v.addr e % c.modulus)
          | none => s)

/-- What a record copy's completion tells the dispatch engine: kept in the state until it is taken up. -/
def copyOver (s : State) (k : Copy) : State := ({ s with copies := s.copies.filter fun c => c.id != k.id }).forget (.copy k.id)

/-- A CPY completes (R323): its release, its count, its tag. The count brings what its sender has released (R91, R327). -/
def finishCpy (s : State) (k : Copy) (c t : Nat) (ln : Option Nat) (bumpAt : Nat) : State :=
  let s := if k.rel then s.released c k.scope else s
  let s := match ln, s.ctx c with
    | some l, some y => (s.onCtx bumpAt fun x => x.observes y y.relTime).bump bumpAt l
    | some l, none => s.bump bumpAt l
    | none, _ => s
  copyOver (s.onCtx c fun x => x.setCopyTag t ⟨false, k.bytesIn k.n⟩) k

/-- The context of a copy's job is resident on core `c` and can take an increment (R323). -/
def takesCount (s : State) (k : Copy) (c : Nat) : Bool :=
  (s.part k.part).holds c && ((s.ctx c).any fun x => x.part == k.part && x.job == k.job && x.state != .loading && x.state != .hinted && x.state != .quiet)

/-- The completion of a CPY whose elements are all done. -/
def completeCpy (s : State) (k : Copy) : Option State :=
  if !copyFree s k || !s.works k.part (unitCopy k.die k.engine) then none
  else match k.by_ with
  | .record .. => none
  | .cpy c _ t ln rt =>
    if !rt then some (finishCpy s k c t ln c)
    else match rtCore s k with
      | none => none
      | some d =>
        if takesCount s k d then some (finishCpy s k c t ln d)
        else some (s.onCopy k.id fun c => { c with rtWait := some s.cycle, fto := s.mgmt.fto })

/-- Burst `b` of copy `k` is performed. -/
def burstDone (s : State) (k : Copy) (b : Burst) : Bool :=
  !b.ended && decide (b.pos = b.hi) && !s.fabric.any fun q => q.origin == .copy k.id && decide (b.lo ≤ q.elem ∧ q.elem < b.hi)

/-- The bursts at the front that are performed lie behind a copy. -/
def Copy.pass (k : Copy) : Copy :=
  let behind := k.bursts.takeWhile Burst.ended
  { k with done := (behind.getLast?.map Burst.hi).getD k.done, bursts := k.bursts.drop behind.length }

/-- COPY_BURST_DONE: a burst of copy `k` is performed and its engine is free; a CPY whose last byte is performed completes (R318, R323, R330). A record copy's completion is the dispatch engine's to take up. -/
def copyBurstDone (k : Nat) (s : State) : Option State := do
  let c ← s.copies[k]?
  if c.stopped || c.rtWait.isSome then none
  else match c.bursts.find? fun b => burstDone s c b && s.works c.part (unitCopy c.die b.engine) with
    | some b =>
      let s := s.onCopy c.id fun c => (c.onBurst b fun b => { b with ended := true }).pass
      let s := { s with engFree := SMap.put 0 s.engFree (unitCopy c.die b.engine) s.cycle }
      let d ← s.copies[k]?
      let s := copySlots s d (d.performed s)
      let d ← s.copies[k]?
      if d.done = d.n then some ((completeCpy s d).getD s) else some s
    | none => if c.done = c.n then completeCpy s c else none

/-- COPY_RT_INCREMENT_RETRY: a refused remote count is tried again 256 cycles later; at the fabric timeout the copy faults (R323). -/
def copyRtRetry (k : Nat) (s : State) : Option State := do
  let c ← s.copies[k]?
  let since ← c.rtWait
  match c.by_ with
  | .record .. => none
  | .cpy co _ t ln _ =>
    if !copyFree s c || !s.works c.part (unitCopy c.die c.engine) then none
    else match rtCore s c with
      | none => none
      | some d =>
        if takesCount s c d && decide (256 ≤ s.cycle - since) then some (finishCpy s c co t ln d)
        else if decide (s.usCycles c.fto ≤ s.cycle - since) then some (copyFault s c (unitCopy c.die c.engine) Cause.landAbsent.code 0)
        else none

/-! ### Stopping and starting again (R330 to R332) -/

/-- A packet that cannot be performed for now: its path is gone or closed, there is no room for it, or its line is under conversion. -/
def packetBarred (s : State) (x : Packet) : Bool :=
  x.since.isSome || !pathOk s x ||
  (match x.dest with
    | .berth b _ => !s.berthServes b x
    | .host => !s.hostUp
    | .home h => !homeWorks s x.part h
    | _ => false) ||
  x.dest.isHome && match x.body with
  | .write bs _ _ => bs.any fun b => s.converting b.1
  | .read _ _ l => s.converting (64 * l)
  | .op pa _ _ => s.converting pa
  | _ => false

/-- A packet is barred, or is to be held behind one of the same engine that is (R429, R430). -/
def packetStuck (s : State) (x : Packet) : Bool :=
  packetBarred s x || (x.holdAt.isSome && (s.fabric.takeWhile fun y => y != x).any fun y => y.origin == x.origin && y.holdAt.isSome && packetBarred s y)

/-- Copy engine `i` of die `d` is at a burst boundary for partition `p`: of its bursts, no write can still be performed. What has not been sent has not begun. DEDUCED: log entry 57. -/
def copyBoundary (s : State) (p d i : Nat) : Bool :=
  !s.copies.any fun k => k.die == d && k.part == p && k.bursts.any fun b => b.engine == i && !b.ended &&
    s.fabric.any fun q => q.origin == .copy k.id && decide (b.lo ≤ q.elem ∧ q.elem < b.hi) && !packetStuck s q

/-- Burst `b` of a copy whose first `n` elements are performed, as if what it has not performed of them had not begun. -/
def Burst.back (n : Nat) (b : Burst) : Burst :=
  if b.ended || decide (b.hi ≤ n) then b else { b with pos := max b.lo n, begun := false, got := [], gather := [] }

/-- The bursts of a copy that `gone` names lose the writes they still have under way; each keeps its place, and goes on, if it does, from the completed prefix (R331). -/
def dropBursts (s : State) (gone : Copy → Burst → Bool) : State :=
  let hit (q : Packet) : Bool := s.copies.any fun k => q.origin == .copy k.id && k.bursts.any fun b =>
    gone k b && !b.ended && decide (b.lo ≤ q.elem ∧ q.elem < b.hi)
  { s with
    copies := s.copies.map fun k => { k with bursts := k.bursts.map fun b => if gone k b then b.back (k.performed s) else b }
    fabric := s.fabric.filter fun q => !hit q }

/-- A copy stands at its completed prefix, with no burst on an engine (R331, R332). -/
def parkCopy (s : State) (k : Copy) : Copy :=
  { k with done := k.performed s, upto := k.performed s, bursts := [], fault := none }

/-- A stopped copy starts again at the first element outside its prefix (R330), and one whose remote count was refused asks again. DEDUCED: log entry 58. -/
def resumeCopy (s : State) (k : Copy) : Copy := { parkCopy s k with stopped := false, rtWait := none }

/-- All copies that `mine` names start again. -/
def resumeCopies (s : State) (mine : Copy → Bool) : State :=
  let t := dropBursts s fun k _ => mine k
  { t with copies := t.copies.map fun k => if mine k then resumeCopy t k else k }

/-- The pending gather read of a partition's copy that an error in a line meets, with its burst and its element (R365). -/
def struckGather (s : State) (pa p : Nat) : Option (Copy × Burst × Nat) :=
  let line := (s.dram pa).getD pa / 64
  s.copies.findSome? fun k => if k.part ≠ p ∨ k.stopped then none else k.bursts.findSome? fun b => b.gather.findSome? fun g =>
    (g.2.find? fun e => e.2 / 64 == line).map fun e => (k, b, e.1)

/-- A gather read meets an uncorrectable error: the element is not returned, the others are, and the copy's prefix ends before it (R365). -/
def gatherError (s : State) (k : Copy) (b : Burst) (pa i : Nat) : State :=
  (s.onCopy k.id fun k => k.onBurst b fun b => { b with gather := b.gather.map fun g => (g.1, g.2.filter fun e => e.1 != i) }).meetAt
    k.id (unitStack (homeOf ((s.dram pa).getD pa))) i Cause.uncorrectable.code (match k.src with
      | .view v => v.addr i % k.modulus
      | .ring _ => 0)

def execCopyBurstDone (k : Nat) (s : State) : Out := engine (copyBurstDone k) s
def execCopyRtIncrementRetry (k : Nat) (s : State) : Out := engine (copyRtRetry k) s
def execGatherPacket (k t : Nat) (s : State) : Out := engine (gatherPacket k t) s

end Sys2Proof.Machine
end

