-- ==== Sys2Proof/Machine/Landing.lean ====
section
/-!
DEFINITION. The landing engine's syllables (R334 to R361, R441, R392) and the sending of its commands.
-/

namespace Sys2Proof.Machine

/-! ### Landing counts (R334, R335) -/

/-- A landing count as a syllable sees it (R334). -/
def Ctx.lnc (x : Ctx) (n : Nat) : Nat := SMap.get 0 x.lnSeen n

/-- Sets a landing count; the increments of this cycle are applied after it (R335). -/
def Ctx.setLn (x : Ctx) (n v : Nat) : Ctx :=
  { x with ln := SMap.put 0 x.ln n ((v + (SMap.get 0 x.ln n + 2 ^ 32 - x.lnc n)) % 2 ^ 32), lnSeen := SMap.put 0 x.lnSeen n (v % 2 ^ 32) }

/-- The immediate of LWAIT and LSET in bits 40:20 (Table 13.1). -/
def lnImm (f : F3) : Nat := (f.b ++ f.c ++ f.d).toNat

/-- The scalar operand of LWAIT and LSET, bits 31:0 (R335). -/
def lnReg (x : Ctx) (f : F3) : Nat := (x.rs f.b).toNat % 2 ^ 32

/-- The operand of LSET in either form. -/
def lnOperand (x : Ctx) (f : F3) : Nat := if f.sub.getLsbD 0 then lnImm f else lnReg x f

def execLwait (h : Hdr) (f : F3) (s : State) : Out :=
  syl h s fun _ x => .await (decide (lnImm f ≤ x.lnc f.a.toNat)) (.ok x)

def execLwaitScalar (h : Hdr) (f : F3) (s : State) : Out :=
  syl h s fun _ x => .await (decide (lnReg x f ≤ x.lnc f.a.toNat)) (.ok x)

def execLset (h : Hdr) (f : F3) (s : State) : Out :=
  syl h s fun _ x => .ok (x.setLn f.a.toNat (lnOperand x f))

def execLsetSub (h : Hdr) (f : F3) (s : State) : Out :=
  syl h s fun _ x => .ok (x.setLn f.a.toNat (x.lnc f.a.toNat + 2 ^ 32 - lnOperand x f % 2 ^ 32))

/-! ### The command stream (R336 to R338) -/

/-- A command that takes a queue entry. -/
def LCmd.counts (q : LCmd) : Bool := match q.op with
  | .alias_ _ => false
  | _ => true

/-- A landing command at issue: LAND_FULL, then its own checks, then its place in the queue with the next tag (R336). -/
def land (h : Hdr) (f : F3) (s : State) (go : Ctx → Act LOp) : Out :=
  syl h s fun _ x =>
    .need (decide ((x.lq.filter LCmd.counts).length < 256)) .landFull ((go x).bind fun op =>
      .ok { x with ltag := (x.ltag + 1) % 2 ^ 16
                   lq := x.lq ++ [⟨x.ltag, x.bn, scopeOf f, relOf f, op, none, false, false⟩] })

/-- The reserved bits of a target word are zero (Table 13.2). -/
def targetOk (t : Nat) : Bool :=
  bits t 63 54 == 0 && bits t 39 36 == 0 && bits t 31 29 == 0 && !bit t 23 && (!bit t 53 || bits t 22 5 == 0)

/-- The reserved bits of a source word are zero and its length is one that a put may have (R341). -/
def sourceOk (w : Nat) : Bool := bits w 31 23 == 0 && decide (bits w 63 32 ≤ 1048576) && bits w 63 32 % 8 == 0

/-- The checks of R341 and R345 on a put. -/
def putChecks (t w flag : Nat) (k : Act LOp) : Act LOp :=
  let n := bits w 63 32
  let rg := bit t 53
  .need (targetOk t && sourceOk w) .landOperand
    (.need ((rg || bits t 22 0 % 8 == 0) && bits w 22 0 % 8 == 0 && flag % 8 == 0) .misalign
      (.need ((rg || inSpad (bits t 22 0) n) && inSpad (bits w 22 0) n) .bounds k))

/-- R342. -/
def execLput (h : Hdr) (f : F3) (s : State) : Out :=
  land h f s fun x =>
    let t := (x.rs f.b).toNat
    let w := (x.rs f.c).toNat
    putChecks t w 0 (.ok (.put f.a.toNat t (bits w 22 0) (bits w 63 32) (if f.d.getLsbD 6 then some (f.d.toNat % 64) else none) none))

/-- R343. -/
def execLputf (h : Hdr) (f : F3) (s : State) : Out :=
  land h f s fun x =>
    let t := (x.rs f.b).toNat
    let w := (x.rs f.c).toNat
    let g := (x.rs f.d).toNat
    putChecks t w g (.ok (.put f.a.toNat t (bits w 22 0) (bits w 63 32) none (some (g % 2 ^ 56, bits g 63 56))))

/-- R344: ADDR is ignored. -/
def execLsig (h : Hdr) (f : F3) (s : State) : Out :=
  land h f s fun x =>
    let t := (x.rs f.b).toNat
    .need (targetOk t && !bit t 53) .landOperand (.ok (.sig f.a.toNat t))

/-- The alignment of an operand, then the bounds of a scratchpad operand (R347). -/
def opChecks (va unit : Nat) (pads : List (Nat × Nat × Nat)) (k : Act LOp) : Act LOp :=
  .need (va % unit == 0 && pads.all fun p => p.1 % p.2.1 == 0) .misalign
    (.need (pads.all fun p => inSpad p.1 p.2.2) .bounds k)

/-- R348: an atomic that returns. -/
def execAop (h : Hdr) (f : F3) (s : State) : Out :=
  land h f s fun x =>
    let va := (x.rs f.b).toNat
    let ret := (x.rs f.d).toNat
    let wide := f.sub.getLsbD 4
    let n := if wide then 8 else 4
    opChecks va n [(ret, n, n)] (.ok (.aop f.a.toNat va (f.sub.toNat % 16) wide (x.rs f.c) (some ret)))

/-- R348: an atomic without return. -/
def execAopn (h : Hdr) (f : F3) (s : State) : Out :=
  land h f s fun x =>
    let va := (x.rs f.b).toNat
    let wide := f.sub.getLsbD 4
    opChecks va (if wide then 8 else 4) [] (.ok (.aop f.a.toNat va (f.sub.toNat % 16) wide (x.rs f.c) none))

/-- R350. -/
def execAcas (h : Hdr) (f : F3) (s : State) : Out :=
  land h f s fun x =>
    let va := (x.rs f.b).toNat
    let blk := (x.rs f.c).toNat
    let wide := f.sub.getLsbD 4
    opChecks va (if wide then 8 else 4) [(blk, 8, 24)] (.ok (.acas f.a.toNat va wide blk))

/-- R350: one to four words of one line. -/
def execAcasw (h : Hdr) (f : F3) (s : State) : Out :=
  land h f s fun x =>
    let va := (x.rs f.b).toNat
    let blk := (x.rs f.c).toNat
    let n := f.sub.toNat % 4 + 1
    .need (decide (va % 64 + 8 * n ≤ 64)) .misalign (opChecks va 8 [(blk, 8, 96)] (.ok (.acasw f.a.toNat va n blk)))

/-- R351. -/
def execAenq (h : Hdr) (f : F3) (s : State) : Out :=
  land h f s fun x =>
    let va := (x.rs f.b).toNat
    let ret := (x.rs f.d).toNat
    opChecks va 4096 [(ret, 8, 8)] (.ok (.aenq f.a.toNat va (x.rs f.c) ret))

/-- R352. -/
def execAchase (h : Hdr) (f : F3) (s : State) : Out :=
  land h f s fun x =>
    let va := (x.rs f.b).toNat
    let c := (x.rs f.c).toNat
    let ret := (x.rs f.d).toNat
    .need (decide (c < 2 ^ 14)) .landOperand
      (opChecks va 8 [(ret, 8, 16)] (.ok (.achase f.a.toNat va (bits c 5 0 + 1) (8 * bits c 13 6) ret)))

/-- R353: an add. -/
def execAred (h : Hdr) (f : F3) (s : State) : Out :=
  land h f s fun x =>
    let va := (x.rs f.b).toNat
    let cell := (x.rs f.d).toNat
    .need (decide (cell < 65536)) .landOperand
      (opChecks va (fmtWidth f.fmt.toNat / 8) [] (.ok (.ared f.a.toNat va f.fmt.toNat (x.rs f.c) cell)))

/-- R353: a finalisation. -/
def execAredFin (h : Hdr) (f : F3) (s : State) : Out :=
  land h f s fun x =>
    let va := (x.rs f.b).toNat
    let cell := (x.rs f.d).toNat
    .need (decide (cell < 65536)) .landOperand
      (opChecks va (fmtWidth f.fmt.toNat / 8) [] (.ok (.aredFin f.a.toNat va f.fmt.toNat (f.sub.toNat % 8) cell)))

/-- R89, R356: the release form. -/
def execCrossRel (h : Hdr) (f : F3) (s : State) : Out := land h f s fun _ => .ok (.cross false true)
/-- R89, R356: the acquire form. -/
def execCrossAcq (h : Hdr) (f : F3) (s : State) : Out := land h f s fun _ => .ok (.cross true false)
/-- R89, R356: both. -/
def execCrossAr (h : Hdr) (f : F3) (s : State) : Out := land h f s fun _ => .ok (.cross true true)

/-- R357: a place in the command stream without a queue entry. -/
def execAliasf (h : Hdr) (f : F3) (s : State) : Out :=
  syl h s fun _ x =>
    .ok { x with lq := x.lq ++ [⟨0, x.bn, 0, false, .alias_ (if f.sub.getLsbD 4 then none else some (f.sub.toNat % 16)), none, false, false⟩] }

/-- The target of a command lies on another module, as far as its operands and translations tell (R358). -/
def LCmd.away (s : State) (x : Ctx) (q : LCmd) : Bool :=
  let far (t : Nat) : Bool := !bit t 52 && bits t 51 40 != s.modid
  let va (a : Nat) : Bool := match peekReach s (.land x.core q.tag) (dieOf x.core) x.part .read false a with
    | .ok g => match g.tgt with
      | .remote _ _ _ => true
      | _ => false
    | _ => false
  match q.op with
  | .put _ t _ _ _ _ => far t
  | .sig _ t => far t
  | .aop _ a _ _ _ _ => va a
  | .acas _ a _ _ => va a
  | .acasw _ a _ _ => va a
  | .aenq _ a _ _ => va a
  | .achase _ a _ _ _ => va a
  | .ared _ a _ _ _ => va a
  | .aredFin _ a _ _ _ => va a
  | .jraise _ j _ _ => va j
  | .jpost _ j _ _ => va j
  | _ => false

/-- The status record of Table 13.4. -/
def fenceRecord (x : Ctx) (sys : Bool) : List Byte :=
  let ms := if sys then x.lost.take 24 else []
  bytesOf (if ms.isEmpty then 0 else 1) 8 ++ bytesOf (if sys then x.lost.length else 0) 2 ++ List.replicate 6 0 ++
  ms.flatMap (fun m => bytesOf m 2) ++ List.replicate (48 - 2 * ms.length) 0xFF#8

/-- R358. -/
def execFence (h : Hdr) (f : F3) (s : State) : Out :=
  syl h s fun _ x =>
    let sys := f.rnd.toNat == 4
    let a := (x.rs f.b).toNat
    let st := f.sub.getLsbD 0
    .need (!st || a % 64 == 0) .misalign (.need (!st || inSpad a 64) .bounds
      (.await (x.lq.all fun q => !q.counts || (!sys && q.away s x))
        (let y := if st then x.store h 1 ((fenceRecord x sys).zipIdx.map fun e => (a + e.2, e.1)) else x
         .ok (if sys then { y with lost := [] } else y))))

/-! ### Commands of other chapters that use the queue -/

/-- R441. -/
def execSealreq (h : Hdr) (f : F3) (s : State) : Out := land h f s fun _ => .ok (.sealreq f.a.toNat)

/-- R129: a raise to the JCB that this context has posted to sends nothing. DEDUCED: log entry 42. -/
def execJraise (h : Hdr) (f : F3) (s : State) : Out :=
  land h f s fun x =>
    let j := (x.rs f.b).toNat
    .need (j % 64 == 0) .misalign (.ok (.jraise f.a.toNat j (x.rs f.c) (x.ctl.jpa != 0 && j == x.ctl.jpa)))

/-- R129: a post; the first one names the JCB of the context in JPA. DEDUCED: log entry 42. -/
def execJpost (h : Hdr) (f : F3) (s : State) : Out :=
  syl h s fun _ x =>
    let j := (x.rs f.b).toNat
    .need (decide ((x.lq.filter LCmd.counts).length < 256)) .landFull (.need (j % 64 == 0) .misalign
      (let bad := x.ctl.jpa != 0 && j != x.ctl.jpa
       .ok { x with ltag := (x.ltag + 1) % 2 ^ 16
                    ctl := if x.ctl.jpa = 0 then { x.ctl with jpa := j } else x.ctl
                    lq := x.lq ++ [⟨x.ltag, x.bn, scopeOf f, relOf f, .jpost f.a.toNat j (x.rs f.c) bad, none, false, false⟩] }))

/-- R130. -/
def execNlaunch (h : Hdr) (f : F3) (s : State) : Out :=
  land h f s fun x =>
    let r := (x.rs f.b).toNat
    .need (r % 128 == 0) .misalign (.need (inSpad r 128) .bounds (.ok (.nlaunch f.a.toNat r (x.rs f.c).toNat)))

/-- A VAINV at issue (R392): its place among the invalidations. -/
def vainv (h : Hdr) (f : F3) (s : State) (all : Bool) : Out :=
  sylS h s fun _ x =>
    let va := (x.rs f.b).toNat
    let len := (x.rs f.c).toNat
    let st := f.sub.getLsbD 1
    let a := (x.rs f.d).toNat
    .need (decide (x.vainv < 4)) .vainvFull
      (.need (all || decide (va < 2 ^ 56 ∧ va + len ≤ 2 ^ 56)) .vainvOperand
        (.need (!st || a % 8 == 0) .misalign (.need (!st || inSpad a 8) .bounds
          (let v : Inval :=
             { part := x.part, by_ := some (s.cur, x.team, f.a.toNat, if st then some a else none), all
               lo := va / 4096, hi := (va + len - 1) / 4096, empty := !all && len == 0, released := false, issued := x.bn
               todo := (s.part x.part).dies, waiting := [], resets := [] }
           .ok { s.setCtx s.cur { x with vainv := x.vainv + 1 } with invals := s.invals ++ [v] }))))

def execVainv (h : Hdr) (f : F3) (s : State) : Out := vainv h f s false
def execVainvAll (h : Hdr) (f : F3) (s : State) : Out := vainv h f s true

end Sys2Proof.Machine
end

