-- ==== Sys2Proof/Machine/Atomics.lean ====
section
/-!
DEFINITION. What a home does with a request: the atomics of Table 13.3 (R348, R349), ACAS and ACASW (R350), AENQ (R351), the crucible (R353, R366 to R369), and raises and posts of a JCB (R127, R128).
-/

namespace Sys2Proof.Machine

/-- FP32 NaN (R349). -/
def isNan32 (c : Nat) : Bool := (decodeV 0 c).bad

/-- R349: the maximum, or with `mn` the minimum, of the word in memory and an operand. -/
def numPick (mn : Bool) (m v : Nat) : Nat :=
  if isNan32 m && isNan32 v then 0x7FC00000
  else if isNan32 v then m
  else if isNan32 m then v
  else
    let x := decodeV 0 m
    let y := decodeV 0 v
    let c := cmpV y x
    if mn then (if decide (c < 0) || (c == 0 && y.sign && !x.sign) then v else m)
    else (if decide (0 < c) || (c == 0 && !y.sign && x.sign) then v else m)

/-- Table 13.3: the new word of `w` bits. -/
def aopNew (op w old v : Nat) : Nat :=
  match op with
  | 0 => (old + v) % 2 ^ w
  | 1 => (old + 2 ^ w - v) % 2 ^ w
  | 2 => old &&& v
  | 3 => old ||| v
  | 4 => old ^^^ v
  | 5 => if sext w old ≤ sext w v then old else v
  | 6 => if sext w old ≤ sext w v then v else old
  | 7 => min old v
  | 8 => max old v
  | 9 => v
  | 10 => old
  | 11 => (encodeV 0 (sumV false [decodeV 0 old, decodeV 0 v]).1 0 false false 0).1
  | 12 => numPick false old v
  | _ => numPick true old v

/-- A word at a home. -/
def homeWord (s : State) (pa n : Nat) : Nat := ofBytes (s.readMem pa n)

/-- R348: an AOP or AOPN at its home; none while the riser has no room. The old word, and the state. -/
def applyAop (s : State) (p unit pa op n v : Nat) : Option (State × Nat) :=
  let old := homeWord s pa n
  if op = 10 then some (s, old)
  else (s.homeStore p unit pa (bytesOf (aopNew op (8 * n) old (v % 2 ^ (8 * n))) n)).map fun s => (s, old)

/-- R350: compare and swap of one word. -/
def applyCas (s : State) (p unit pa n cmp new : Nat) : Option (State × Nat) :=
  let old := homeWord s pa n
  if old = cmp % 2 ^ (8 * n) then (s.homeStore p unit pa (bytesOf new n)).map fun s => (s, old) else some (s, old)

/-- R350: compare and swap of `n` words of one line, all or none. -/
def applyCasw (s : State) (p unit pa n : Nat) (cmp new : List Byte) : Option (State × List Byte) :=
  let old := s.readMem pa (8 * n)
  if old = cmp then (s.homeStore p unit pa new).map fun s => (s, old) else some (s, old)

/-- R351: the list at `pa` is well formed and has room. -/
def enqOpen (s : State) (pa : Nat) : Bool := decide (homeWord s (pa + 8) 8 ≤ 504 ∧ homeWord s pa 8 < homeWord s (pa + 8) 8)

/-- R351: the entry and the count of a list; two lines are logged. -/
def applyEnq (s : State) (p unit pa : Nat) (v : Word) : Option (State × Nat) :=
  let count := homeWord s pa 8
  let cap := homeWord s (pa + 8) 8
  if cap = 0 ∨ 504 < cap ∨ cap < count then some (s, 0xFFFFFFFFFFFFFFFE)
  else if count = cap then some (s, 0xFFFFFFFFFFFFFFFF)
  else
    let e := pa + 64 + 8 * count
    ((s.homeStore p unit e (bytesOf v.toNat 8)).bind fun s => s.homeStore p unit pa (bytesOf (count + 1) 8)).map fun s => (s, count)

/-- The crucible stack of an address (R353). -/
def crucibleOf (pa : Nat) : Nat := if pa < 2 ^ 39 then homeOf pa else bits (pa - lpBase) 16 12 % 8

/-- R353, R366: the cell lies in the partition's allocation. -/
def crucibleOk (s : State) (p k cell : Nat) : Bool :=
  let a := SMap.get 0 (s.stack k).cralloc p
  decide (bits a 15 0 ≤ cell ∧ cell < bits a 15 0 + bits a 32 16)

/-- R353, R367: an add. -/
def crucibleAdd (s : State) (p k fmt cell : Nat) (v : Word) : Option State :=
  (s.logCell p k cell).map fun s =>
    let x := decodeV fmt (v.toNat % 2 ^ fmtWidth fmt)
    (s.onStack k fun y => { y with cells := SMap.put 0 y.cells cell (quireAdd (SMap.get 0 y.cells cell) x).1 }).wroteIn p

/-- R353, R367: a finalisation: the word, then the cell is zero. -/
def crucibleFin (s : State) (p unit k pa fmt mode cell : Nat) : Option State :=
  let v := quireV (SMap.get 0 (s.stack k).cells cell)
  let w := (encodeV fmt v mode false false (dither 0 0)).1
  ((s.logCell p k cell).bind fun s => s.homeStore p unit pa (bytesOf w (fmtWidth fmt / 8))).map fun s =>
    s.onStack k fun y => { y with cells := SMap.put 0 y.cells cell 0 }

/-- A write of 8 bytes on behalf of a partition's dispatch engine: a NOTIFY word, a status record's line, a SIGNAL (R107, R122, R128): the packet, or the fault DISPATCH_WRITE (R136). -/
def dispatchWrite (s : State) (p : Nat) (o : Origin) (va : Nat) (bs : List Byte) (detail job : Nat) : State :=
  match reachNow s (s.part p).originDie p .write va with
  | .ok g => { s with fabric := s.fabric ++ [{ origin := o, part := p, dest := g.tgt.dest, src := 0, seq := 0, floor := 0, time := [(4, s.mtime)], job
                                               body := .write (bs.zipIdx.map fun e => (g.tgt.addr + e.2, e.1, 0xFF#8)) 1 (s.mustHold p g.tgt g.irrev)
                                               since := none }] }
  | _ => s.raise p { unit := unitDispatch (s.part p).originDie, kind := 6, cause := Cause.dispatchWrite.code, tag := 0, pc := 0, va, count := 0
                     detail, job, syl := 0, slot := 0, cycle := s.cycle }

/-- R128: a raise; the fault, if it has one. -/
def applyRaise (s : State) (p unit pa : Nat) (c : Word) : Option (State × Option Cause) :=
  let total := homeWord s pa 8
  if (homeWord s (pa + 16) 8).testBit 0 then some (s, some .jcbDone)
  else if 2 ^ 64 ≤ total + c.toNat then some (s, some .jcbOver)
  else (s.homeStore p unit pa (bytesOf (total + c.toNat) 8)).map fun s => (s, none)

/-- R128: the NOTIFY of the JCB at `va`: its address is written to `n`. Where that write faults (R136), a resume attempts it again (R409): until then it waits at the dispatch engine under `n`, with DETAIL in the packet's sequence number. DEDUCED: log entry 44. -/
def notifyWrite (s : State) (p n va detail job : Nat) : State :=
  let bs := bytesOf va 8
  let t := dispatchWrite s p (.notify p) n bs detail job
  match reachNow s (s.part p).originDie p .write n with
  | .ok _ => t
  | _ => { t with fabric := t.fabric ++ [{ origin := .notify p, part := p, dest := .dispatch, src := 0, seq := detail, floor := 0, time := [(4, s.mtime)], job
                                           body := .write (bs.zipIdx.map fun e => (n + e.2, e.1, 0xFF#8)) 1 false, since := none }] }

/-- R128: a post under the address `va`; JCB_OVER is reported with the post applied. DEDUCED: log entry 45. -/
def applyPost (s : State) (p unit pa va : Nat) (c : Word) (job detail : Nat) : Option (State × Bool) :=
  let total := homeWord s pa 8
  let d := (homeWord s (pa + 8) 8 + c.toNat) % 2 ^ 64
  let fl := homeWord s (pa + 16) 8
  let excess := decide (total < d)
  let full := decide (d = total) && !fl.testBit 0
  let fl' := (if excess then fl ||| 2 else fl) ||| (if full then 1 else 0)
  (s.homeStore p unit (pa + 8) (bytesOf d 8 ++ bytesOf fl' 8)).map fun s =>
    let n := homeWord s (pa + 24) 8
    (if full ∧ n ≠ 0 then notifyWrite s p n va detail job else s, excess)

end Sys2Proof.Machine
end

