-- ==== Sys2Proof/Machine/Requests.lean ====
section
/-!
DEFINITION. The landing engine's requests: their sending in command order (R336 to R338, R354), their arrival at homes and targets behind the replay filters (R355, R375, R376), replies, retries, timeouts (R346, R359) and releases (R377), crossings (R356) and ALIASF (R357).
-/

namespace Sys2Proof.Machine

/-! ### Crossings -/

/-- The first crossing or ALIASF of a queue, with the commands before it. -/
def splitCross : List LCmd → List LCmd → Option (List LCmd × LCmd × List LCmd)
  | _, [] => none
  | before, q :: qs => match q.op with
    | .cross _ _ => some (before.reverse, q, qs)
    | .alias_ _ => some (before.reverse, q, qs)
    | _ => splitCross (q :: before) qs

/-- CROSS_PERFORMED on core `c`: the first crossing of the queue, or ALIASF, has its effect (R89, R356, R357). -/
def crossPerformed (c : Nat) (s : State) : Option State := do
  let x ← s.ctx c
  let (before, q, rest) ← splitCross [] x.lq
  if !s.works x.part (unitLanding c) then none
  else
    let gone (s : State) : State := s.onCtx c fun x => { x with lq := before ++ rest }
    match q.op with
    | .cross acq rel =>
      if rel && !writesDone s c x q.issued before then none
      else
        let s := gone s
        let s := if rel then s.released c q.scope else s
        some (if acq then s.acquireCross c q.scope else s)
    | .alias_ g =>
      if !writesDone s c x q.issued before || (s.copiesOf c).any fun k => decide (k.issued < q.issued) then none
      else some ((gone s).dropLines c fun _ _ a => g.all (· == a % 16))
    | _ => none

/-! ### Sending -/

/-- The landing count that a command increments on completion, if it has one. -/
def LOp.ln : LOp → Option Nat
  | .put _ _ _ _ ak _ => ak
  | .sig _ _ => none
  | .aop l _ _ _ _ _ => some l
  | .acas l _ _ _ => some l
  | .acasw l _ _ _ => some l
  | .aenq l _ _ _ => some l
  | .achase l _ _ _ _ => some l
  | .ared l _ _ _ _ => some l
  | .aredFin l _ _ _ _ => some l
  | .jraise l _ _ _ => some l
  | .jpost l _ _ _ => some l
  | .nlaunch l _ _ => some l
  | .sealreq l => some l
  | .cross _ _ => none
  | .alias_ _ => none

/-- Removes a completed command and increments its count. -/
def completeCmd (s : State) (c : Nat) (q : LCmd) : State :=
  let s := (s.onCtx c fun x => { x with lq := x.lq.filter fun r => !(r.tag == q.tag && r.counts) }).forget (.land c q.tag)
  match q.op.ln with
  | some l => s.bump c l
  | none => s

/-- Changes a command of the queue. -/
def onCmd (s : State) (c tag : Nat) (g : LCmd → LCmd) : State :=
  s.onCtx c fun x => { x with lq := x.lq.map fun q => if q.tag = tag ∧ q.counts then g q else q }

/-- A fault under a command's tag; the command waits for resume (R336, R409). -/
def cmdFault (s : State) (c : Nat) (x : Ctx) (q : LCmd) (unit cause va : Nat) : State :=
  onCmd (s.engineFault x.part unit cause q.tag va 0 x.job) c q.tag fun q => { q with faulted := true, sent := none, applied := false }

/-- The lowest sequence number of a core that still awaits a reply, or the next one (R375). -/
def floorOf (s : State) (c : Nat) : Nat := (((s.reqs.find? fun r => r.core == c).map Req.seq).getD (s.core c).seq)

/-- The packets of a command under the core's next sequence number (R354). -/
def numbered (s : State) (c : Nat) (x : Ctx) (q : LCmd) (va : Nat) (ps : List (Dest × Body)) : List Packet :=
  ps.map fun (d, b) =>
    { origin := .land c q.tag, part := x.part, dest := d, src := c, seq := (s.core c).seq, floor := floorOf s c
      time := ((s.ctx c).map Ctx.relTime).getD [], job := x.job, body := b, va, since := none }

/-- The command is sent: it takes the core's next sequence number. -/
def takeSeq (s : State) (c : Nat) (q : LCmd) : State :=
  let n := (s.core c).seq
  onCmd (s.setCore c { s.core c with seq := (n + 1) % 2 ^ 16 }) c q.tag fun q => { q with sent := some n }

/-- Sends one request under the core's next sequence number (R354). -/
def sendReq (s : State) (c : Nat) (x : Ctx) (q : LCmd) (module : Nat) (ps : List (Dest × Body)) : State :=
  let pk := numbered s c x q 0 ps
  takeSeq { s with fabric := s.fabric ++ pk
                   reqs := s.reqs ++ [{ core := c, part := x.part, tag := q.tag, seq := (s.core c).seq, cycle := s.cycle, time := s.mtime
                                        fto := s.mgmt.fto, retries := 0, refused := none, turned := false, module, packets := pk }] } c q

/-- Sends a command that a hold buffer takes, through berth `b` to module `m` (R429, R447): it is complete once it has entered the buffer. -/
def sendHeld (s : State) (c : Nat) (x : Ctx) (q : LCmd) (b m va : Nat) (bs : List MByte) : State :=
  takeSeq { s with fabric := s.fabric ++ numbered s c x q va [(.berth b m, .write bs 1 true)] } c q

/-- The bytes of a flag word at `pa` (R343). -/
def flagBytes (pa v : Nat) : List MByte := (bytesOf v 8).zipIdx.map fun e => (pa + e.2, e.1, 0xFF#8)

/-- The flag of an LPUTF over Ultra Ethernet follows its data into the hold buffer of berth `b` (R343, R447); one that cannot be written faults under the command's tag. DESIGN CHOICE: log entry 115. -/
def holdFlag (s : State) (c : Nat) (x : Ctx) (q : LCmd) (b : Nat) (ps : List Packet) (va v : Nat) : State :=
  match reachNow s (dieOf c) x.part .write va with
  | .ok g => { s with fabric := s.fabric ++ ps.map fun k => { k with dest := .berth b (g.tgt.module s), va, body := .write (flagBytes g.tgt.addr v) 1 true } }
  | .miss => s.engineFault x.part (unitLanding c) Cause.transMiss.code q.tag va 0 x.job
  | .fault cause => s.engineFault x.part (unitLanding c) cause q.tag va 0 x.job

/-- The packets of a put (R342): 128 bytes each, one for a put without bytes. -/
def putPackets (s : State) (c issued : Nat) (lnT t src len : Nat) (flag : Option (Nat × Nat)) (d : Dest) : List (Dest × Body) :=
  let n := max 1 ((len + 127) / 128)
  (List.range n).map fun i =>
    let m := min 128 (len - 128 * i)
    (d, .put i n (bit t 53) (bits t 22 0) (128 * i) ((s.core c).engineRead issued (src + 128 * i) m) len lnT flag)

/-- A put or signal leaves for another module: over UALink as one request, over Ultra Ethernet as a held send (R429, R447). None where it waits. -/
def sendAway (s : State) (c : Nat) (x : Ctx) (q : LCmd) (m : Nat) (body : Body) (bytes : List Byte) : Option State :=
  match route s m with
  | .inr cause => some (cmdFault s c x q (unitLanding c) cause 0)
  | .inl b =>
    if (s.berth b).isUet then
      let t := sendHeld s c x q b m 0 (bytes.zipIdx.map fun e => (e.2, e.1, 0xFF#8))
      some (match body with
        | .put _ _ _ _ _ _ _ _ (some (va, v)) => holdFlag t c x q b (numbered s c x q va [(.berth b m, body)]) va v
        | _ => t)
    else if s.berthOpen b && s.firstAt b c q.tag then some ((sendReq s c x q m [(.berth b m, body)]).entered b c q.tag)
    else some (s.waitAt b c q.tag)

/-- A put or a signal goes to its target (R340, R346). -/
def sendTo (s : State) (c : Nat) (x : Ctx) (q : LCmd) (t : Nat) (ps : Dest → List (Dest × Body)) (whole : Body) (bytes : List Byte) : Option State :=
  let m := bits t 51 40
  if bit t 52 || m == s.modid then
    let d := 32 * bits t 35 32 + bits t 28 24
    if (s.part x.part).holds d then some (sendReq s c x q s.modid (ps (.core d)))
    else some (cmdFault s c x q (unitLanding c) Cause.prot.code 0)
  else sendAway s c x q m whole bytes

/-- The bytes at `pa` that an operation would write at a home of another module, in a hold buffer (R426, R429). What they will hold that home decides. -/
def LOp.heldBytes (pa : Nat) : LOp → List MByte
  | .aop _ _ _ wide v _ => (bytesOf v.toNat (if wide then 8 else 4)).zipIdx.map fun e => (pa + e.2, e.1, 0xFF#8)
  | .acas _ _ wide _ => (List.range (if wide then 8 else 4)).map fun i => (pa + i, 0, 0xFF#8)
  | .acasw _ _ n _ => (List.range (8 * n)).map fun i => (pa + i, 0, 0xFF#8)
  | .ared _ _ fmt v _ => (bytesOf v.toNat (fmtWidth fmt / 8)).zipIdx.map fun e => (pa + e.2, e.1, 0xFF#8)
  | .aredFin _ _ fmt _ _ => (List.range (fmtWidth fmt / 8)).map fun i => (pa + i, 0, 0xFF#8)
  | _ => (List.range 8).map fun i => (pa + i, 0, 0xFF#8)

/-- An atomic that writes (R426). -/
def LOp.writes : LOp → Bool
  | .aop _ _ op _ _ _ => op != 10
  | .achase .. => false
  | _ => true

/-- An add to a crucible, or a finalisation. -/
def LOp.isAred : LOp → Bool
  | .ared .. => true
  | .aredFin .. => true
  | _ => false

/-- The crucibles are there: in reduced service they are absent (R468). -/
def State.hasCrucibles (s : State) : Bool := decide (5 ≤ s.mgmt.phase)

/-- An atomic, ARED, JCB operation or walk is translated and goes to its home; the core's window drops its line first (R86, R347). One that writes outside the group is held (R429). None where it waits. -/
def sendAtomic (s : State) (c : Nat) (x : Ctx) (q : LCmd) (va : Nat) (kind : Access) (body : Nat → Body) : Option State :=
  let (s, r) := reach s (.land c q.tag) (dieOf c) x.part kind false va
  match r with
  | .miss => some s
  | .fault cause => some (cmdFault s c x q (unitLanding c) cause va)
  | .ok g =>
    let s := s.dropLines c fun l p a => l == va / 64 && p == x.part && a % 16 == g.ag % 16
    match g.tgt with
    | .home _ a =>
      if q.op.isAred && !s.hasCrucibles then some (cmdFault s c x q (unitLanding c) Cause.atomicTarget.code va)
      else some (sendReq s c x q s.modid [(g.tgt.dest, body a)])
    | .remote b m a =>
      if q.op.writes && !s.inGroup x.part m then some (sendHeld s c x q b m va (q.op.heldBytes a))
      else if s.berthOpen b && s.firstAt b c q.tag then some ((sendReq s c x q m [(g.tgt.dest, body a)]).entered b c q.tag)
      else some (s.waitAt b c q.tag)
    | _ => some (cmdFault s c x q (unitLanding c) Cause.atomicTarget.code va)

/-- Reads its target alone (R388): AOP `.ld`. -/
def aopAccess (op : Nat) : Access := if op = 10 then .load else .both

/-- The scratchpad bytes, from an address on, that a command takes its operands from (R337). -/
def LOp.source : LOp → Nat × Nat
  | .put _ _ src len _ _ => (src, len)
  | .acas _ _ _ blk => (blk, 16)
  | .acasw _ _ _ blk => (blk, 64)
  | .nlaunch _ r _ => (r, 128)
  | _ => (0, 0)

/-- Sends command `q` of core `c` (R336). None where it waits. -/
def sendCmd (s : State) (c : Nat) (x : Ctx) (q : LCmd) : Option State :=
  if x.undecided (seeBefore q.issued) q.op.source.1 q.op.source.2 then none else match q.op with
  | .put l t src len _ flag =>
    let bs := (s.core c).engineRead q.issued src len
    sendTo s c x q t (putPackets s c q.issued l t src len flag) (.put 0 1 (bit t 53) (bits t 22 0) 0 bs len l flag) bs
  | .sig l t => sendTo s c x q t (fun d => [(d, .sig l)]) (.sig l) []
  | .aop _ va op _ _ _ => sendAtomic s c x q va (aopAccess op) fun a => .op a (homeOf a) q.op
  | .acas _ va _ _ => sendAtomic s c x q va .both fun a => .op a (homeOf a) q.op
  | .acasw _ va _ _ => sendAtomic s c x q va .both fun a => .op a (homeOf a) q.op
  | .aenq _ va _ _ => sendAtomic s c x q va .both fun a => .op a (homeOf a) q.op
  | .ared _ va _ _ _ => sendAtomic s c x q va .both fun a => .op a (crucibleOf a) q.op
  | .aredFin _ va _ _ _ => sendAtomic s c x q va .both fun a => .op a (crucibleOf a) q.op
  | .achase _ va lim off _ => sendAtomic s c x q ((va + off) % 2 ^ 64) .load fun a => .chase ⟨va, 0, lim, off, homeOf a⟩ a
  | .jraise _ j _ bad =>
    if bad then some (cmdFault s c x q (unitLanding c) Cause.jcbLate.code j) else sendAtomic s c x q j .both fun a => .op a (homeOf a) q.op
  | .jpost _ j _ bad =>
    if bad then some (cmdFault s c x q (unitLanding c) Cause.jcbMulti.code j) else sendAtomic s c x q j .both fun a => .op a (homeOf a) q.op
  | .nlaunch _ r n =>
    if 15 < n then some (cmdFault s c x q (unitLanding c) Cause.queueRange.code 0)
    else
      let bs := (s.core c).engineRead q.issued r 128
      let bs := bs.take 88 ++ bytesOf x.job 4 ++ bs.drop 92
      some (sendReq (s.released c 4) c x q s.modid [(.dispatch, .nlaunch n bs)])
  | .sealreq _ => some (completeCmd (s.requestSeal x.part .plain) c q)
  | .cross _ _ => none
  | .alias_ _ => none

/-- The commands that may be sent before the first crossing, with those before each. -/
def sendable : List LCmd → List LCmd → List (List LCmd × LCmd)
  | _, [] => []
  | before, q :: qs => match q.op with
    | .cross _ _ => []
    | .alias_ _ => []
    | _ => if q.sent.isSome || q.faulted then sendable (before ++ [q]) qs else [(before, q)]

/-- Where a command's return is written (R337). -/
def retAt : LOp → Option Nat
  | .aop _ _ _ _ _ ret => ret
  | .acas _ _ _ blk => some (blk + 16)
  | .acasw _ _ _ blk => some (blk + 64)
  | .aenq _ _ _ ret => some ret
  | .achase _ _ _ _ ret => some ret
  | .nlaunch _ r _ => some (r + 120)
  | _ => none

/-- The command performs a release before it is sent (R130, R338). -/
def LCmd.releases (q : LCmd) : Bool := q.rel || match q.op with
  | .nlaunch .. => true
  | _ => false

/-- A command that a hold buffer has taken is complete (R429, R347). What it would return, another module alone could tell: a free value. DESIGN CHOICE: log entry 92. -/
def finishHeld (s : State) (c : Nat) (x : Ctx) : State :=
  match x.lq.find? fun q => q.counts && q.sent.any fun n =>
      !(s.reqs.any fun r => r.core == c && r.seq == n) && !s.fabric.any fun k => k.origin == .land c q.tag && k.seq == n with
  | none => s
  | some q =>
    let bs : List Byte := match q.op with
      | .aop _ _ _ wide _ (some _) => (List.range (if wide then 8 else 4)).map (Config.remote s.free)
      | .acasw _ _ n _ => (List.range (8 * n)).map (Config.remote s.free)
      | .acas .. => (List.range 8).map (Config.remote s.free)
      | .aenq .. => (List.range 8).map (Config.remote s.free)
      | _ => []
    let s := match retAt q.op with
      | some a => { s.setCore c ((s.core c).engineWrite a bs) with free := s.free + 1 }
      | none => s
    completeCmd s c q

/-- The landing engine's turn on core `c`: the next command of the queue is sent, in order, while fewer than 64 requests await replies (R336, R354) and no write that it holds finds no room (R430). DEDUCED: log entry 46. -/
def landTurn (s : State) (c : Nat) : State :=
  match s.ctx c with
  | none => s
  | some x =>
    let s := if s.works x.part (unitLanding c) then finishHeld s c x else s
    if !s.works x.part (unitLanding c) || s.heldUp (fun o => match o with
      | .land d _ => d == c
      | _ => false) || decide (64 ≤ (s.reqs.filter fun r => r.core == c).length) then s
    else match sendable [] x.lq with
      | (before, q) :: _ =>
        if q.releases && !writesDone s c x q.issued before then s
        else
          let s := if q.rel then s.released c q.scope else s
          (sendCmd s c x q).getD s
      | [] => s

/-! ### Replay filters (R375, R376) -/

/-- The entry of a source at a home or target. -/
def State.filter (s : State) (at_ src : Nat) : Option Filter := s.filters.find? fun e => e.at_ == at_ && e.src == src

/-- The number of entries that a table may hold. -/
def filterMax (at_ : Nat) : Nat := if at_ < 10 then 2048 else 256

/-- A number precedes FLOOR (R376). -/
def precedes (n floor : Nat) : Bool := let d := (floor + 2 ^ 16 - n % 2 ^ 16) % 2 ^ 16; decide (1 ≤ d ∧ d ≤ 2 ^ 15)

/-- Records a reply under a number. -/
def State.record (s : State) (at_ : Nat) (q : Packet) (r : Reply) : State :=
  let old := ((s.filter at_ q.src).map Filter.nums).getD []
  let nums := old.filter fun n => !precedes n.1 q.floor
  { s with filters := (s.filters.filter fun e => !(e.at_ == at_ && e.src == q.src)) ++ [⟨at_, q.src, q.part, nums ++ [(q.seq, r)]⟩] }

/-- A request of a source, as against what a home or target sends or what has gone on from one. -/
def Body.isRequest : Body → Bool
  | .put .. => true
  | .sig _ => true
  | .op .. => true
  | .chase w _ => w.h == 0
  | .nlaunch .. => true
  | .release => true
  | _ => false

/-- No request of the same source to the same place is ahead of packet `k`: the packets of one virtual channel keep their order (R377). The packets of one put land in any order (R342). -/
def firstOfSource (s : State) (k : Nat) (q : Packet) : Bool :=
  (s.fabric.take k).all fun y => !(y.src == q.src && y.dest == q.dest && y.part == q.part && y.body.isRequest && y.seq != q.seq)

/-- The table at `at_` takes the number of packet `q`: it has or can have an entry for the source, with fewer than 64 numbers in it (R375, R376). DESIGN CHOICE: log entry 93. -/
def State.filterOpen (s : State) (at_ : Nat) (q : Packet) : Bool :=
  match s.filter at_ q.src with
  | none => decide ((s.filters.filter fun e => e.at_ == at_).length < filterMax at_)
  | some e => decide ((e.nums.filter fun n => !precedes n.1 q.floor).length < 64)

/-- The filter at a home or target holds a request's number: its reply is cached there (R376). -/
def State.answered (s : State) (at_ : Nat) (q : Packet) : Bool :=
  (s.filter at_ q.src).any fun e => e.nums.any fun n => n.1 == q.seq && !precedes n.1 q.floor

/-- R376: request `k` arrives at a home or target, in its source's order: refused where the table is full, answered from the cache where its number is known, else applied. `go` answers none where the request has to wait. Every reply but a refusal is recorded. -/
def arriveAt (s : State) (k : Nat) (q : Packet) (at_ : Nat) (go : State → Option (State × Reply)) : Option State :=
  let s1 := { s with fabric := dropAt s.fabric k }
  if !firstOfSource s k q then none
  else match (s.filter at_ q.src).bind fun e => e.nums.find? fun n => n.1 == q.seq && !precedes n.1 q.floor with
    | some n => some (replyTo s1 q n.2)
    | none =>
      if !s.filterOpen at_ q then some (replyTo s1 q .refused)
      else (go s1).map fun (s, r) => replyTo (if r = .refused then s else s.record at_ q r) q r

/-- The unit of the core that issued a request. -/
def Packet.unit (q : Packet) : Nat := unitLanding (q.src % 512)

/-- A packet with the operation at its home, behind its core's own stream writes to the line (R87). -/
def homeOp (k : Nat) (s : State) : Option (Packet × Nat × Nat × Nat × LOp) := do
  let q ← s.fabric[k]?
  match q.body, q.dest with
  | .op pa st op, .home h => if homeWorks s q.part h && !ownWriteIn (s.fabric.take k) q.src q.dest (pa / 64) then some (q, h, pa, st, op) else none
  | _, _ => none

/-- The virtual address that a command names (Table 16.3). -/
def LOp.va : LOp → Nat
  | .aop _ a _ _ _ _ => a
  | .acas _ a _ _ => a
  | .acasw _ a _ _ => a
  | .aenq _ a _ _ => a
  | .achase _ a _ o _ => (a + o) % 2 ^ 64
  | .ared _ a _ _ _ => a
  | .aredFin _ a _ _ _ => a
  | .jraise _ j _ _ => j
  | .jpost _ j _ _ => j
  | _ => 0

/-- An operation at a home, behind the converter's check (R374). -/
def atHome (s : State) (k : Nat) (q : Packet) (h pa va : Nat) (go : State → Option (State × Reply)) : Option State :=
  arriveAt s k q h fun s => if s.converting pa then some (s, .fault Cause.convertBusy.code va h) else go s

/-- The bundle that issued the command of a request of this module. -/
def issuedOf (s : State) (q : Packet) : Nat :=
  ((s.ctx q.src).bind fun x => (x.lq.find? fun e => e.sent == some q.seq && e.counts).map LCmd.issued).getD 0

/-- A command's operand block in its core's scratchpad (R337); a request of another module carries it. -/
def block (s : State) (q : Packet) (a n : Nat) : List Byte :=
  if q.src < 512 then (s.core q.src).engineRead (issuedOf s q) a n else (q.block ++ List.replicate n 0).take n

/-- ATOMIC_APPLY: an AOP, AOPN or ACAS (R348, R350). -/
def atomicApply (k : Nat) (s : State) : Option State := do
  let (q, h, pa, _, op) ← homeOp k s
  match op with
  | .aop _ _ o wide v ret =>
    let n := if wide then 8 else 4
    atHome s k q h pa op.va fun s => (applyAop s q.part q.unit pa o n v.toNat).map fun (s, old) =>
      (s, if ret.isSome || q.src ≥ 512 then .ret (bytesOf old n) else .done)
  | .acas _ _ wide blk =>
    let n := if wide then 8 else 4
    let b := block s q blk 16
    atHome s k q h pa op.va fun s => (applyCas s q.part q.unit pa n (ofBytes (b.take 8)) (ofBytes (b.drop 8))).map fun (s, old) =>
      (s, .ret (bytesOf old 8))
  | _ => none

/-- OPERATION_PACKET: an ACASW or AENQ (R350, R351, R370). -/
def operationPacket (k : Nat) (s : State) : Option State := do
  let (q, h, pa, _, op) ← homeOp k s
  match op with
  | .acasw _ _ n blk =>
    let b := block s q blk 64
    atHome s k q h pa op.va fun s => (applyCasw s q.part q.unit pa n (b.take (8 * n)) ((b.drop 32).take (8 * n))).map fun (s, old) => (s, .ret old)
  | .aenq _ _ v _ => atHome s k q h pa op.va fun s =>
      (if s.converting (pa + 64 + 8 * homeWord s pa 8) && enqOpen s pa then some (s, .fault Cause.convertBusy.code op.va h)
      else (applyEnq s q.part q.unit pa v).map fun (s, r) => (s, .ret (bytesOf r 8)))
  | _ => none

/-- CRUCIBLE_ADD (R353, R367). An add touches no byte of memory, so a conversion does not turn it away. DEDUCED: log entry 80. -/
def crucibleAddStep (k : Nat) (s : State) : Option State := do
  let (q, h, _, st, op) ← homeOp k s
  match op with
  | .ared _ _ fmt v cell => arriveAt s k q h fun s =>
      (if crucibleOk s q.part st cell then (crucibleAdd s q.part st fmt cell v).map fun s => (s, .done)
      else some (s, .fault Cause.crucibleRange.code op.va h))
  | _ => none

/-- CRUCIBLE_FINALISE (R353, R367). -/
def crucibleFinStep (k : Nat) (s : State) : Option State := do
  let (q, h, pa, st, op) ← homeOp k s
  match op with
  | .aredFin _ _ fmt mode cell => atHome s k q h pa op.va fun s =>
      (if crucibleOk s q.part st cell then (crucibleFin s q.part q.unit st pa fmt mode cell).map fun s => (s, .done)
      else some (s, .fault Cause.crucibleRange.code op.va h))
  | _ => none

/-- JCB_RAISE_APPLY (R128). -/
def jcbRaiseApply (k : Nat) (s : State) : Option State := do
  let (q, h, pa, _, op) ← homeOp k s
  match op with
  | .jraise _ j n _ => atHome s k q h pa op.va fun s => (applyRaise s q.part q.unit pa n).map fun (s, f) => (s, match f with
      | some c => .fault c.code j h
      | none => .done)
  | _ => none

/-- JCB_POST_APPLY: a task's post (R128). -/
def jcbPostApply (k : Nat) (s : State) : Option State := do
  let (q, h, pa, _, op) ← homeOp k s
  match op with
  | .jpost _ j n _ => atHome s k q h pa op.va fun s => (applyPost s q.part q.unit pa j n q.job 0).map fun (s, excess) =>
      (s, if excess then .excess Cause.jcbOver.code j h else .done)
  | _ => none

/-- The reply that ends a walk (R352). -/
def walkReply (w : Walk) (st : Nat) : Reply := .ret (bytesOf w.p 8 ++ [BitVec.ofNat 8 w.h, BitVec.ofNat 8 st] ++ List.replicate 6 0)

/-- ACHASE_HOP: the home of the walk's word reads it; the walk goes on to the next home or ends at its first one (R352, R371). DEDUCED: log entry 43. -/
def achaseHop (k : Nat) (s : State) : Option State := do
  let q ← s.fabric[k]?
  match q.body, q.dest with
  | .chase w pa, .home h =>
    if !homeWorks s q.part h || (w.h == 0 && !firstOfSource s k q) || ownWriteIn (s.fabric.take k) q.src q.dest (pa / 64) then none
    else if w.h = 0 ∧ ((s.filter w.first q.src).any fun e => e.nums.any fun n => n.1 == q.seq) then
      arriveAt s k q w.first fun s => some (s, .done)
    else if s.converting pa then arriveAt s k q w.first fun s => some (s, .fault Cause.convertBusy.code ((w.p + w.off) % 2 ^ 64) h)
    else
      let v := homeWord s pa 8
      let w := { w with h := w.h + 1 }
      let ends (st : Nat) (w : Walk) : Option State := arriveAt s k q w.first fun s => some (s, walkReply w st)
      if v = 0 then ends 0 w
      else if v % 8 ≠ 0 then ends 3 w
      else
        let d := if h < 8 then h else (s.part q.part).originDie
        if !pointsHome s d q.part v then ends 2 w
        else
          let w := { w with p := v }
          if w.h = w.limit then ends 1 w
          else
            let a := (v + w.off) % 2 ^ 64
            let fail (c : Nat) : Option State := arriveAt s k q w.first fun s => some (s, .fault c a 10)
            match reachNow s d q.part .load a with
            | .ok g => match g.tgt with
              | .home h' b => some { s with fabric := s.fabric.set k { q with dest := .home h', body := .chase w b } }
              | _ => ends 2 w
            | .fault c => fail c
            | .miss => fail Cause.transMiss.code
  | _, _ => none

/-! ### Puts and signals at their target (R342 to R346) -/

/-- The target context takes arrivals (R346, R361). -/
def takesPuts (s : State) (c part job : Nat) : Bool :=
  s.works part (unitLanding c) && (s.ctx c).any fun x => x.part == part && x.job == job && x.state != .loading && x.state != .hinted && x.state != .quiet

/-- An increment of packet `q` arrives: it brings its sender's releases, those that cover the receiver (R88, R91, R97, R344). A sender of another module releases at sys scope to this one. -/
def observe (s : State) (q : Packet) (c n : Nat) : State :=
  (s.onCtx c fun x => match if q.src < 512 then s.ctx q.src else none with
    | some y => x.observes y q.time
    | none => x.note (SMap.get 0 q.time 4) fun sc => sc == 4).bump c n

/-- The flag of an LPUTF leaves the target (R343), or the cause for which it cannot. That of another module comes translated. DESIGN CHOICE: log entry 115. -/
def sendFlag (s : State) (q : Packet) (c va v : Nat) : State ⊕ Nat :=
  if 512 ≤ q.src then match checkLocal s q.part .write false false true va with
    | .inl (.home h a) => .inl { s with fabric := s.fabric ++ [{ q with origin := .flag 512 0, dest := .home h, va, since := none, body := .write (flagBytes a v) 1 false }] }
    | _ => .inr Cause.prot.code
  else match reachNow s (dieOf c) q.part .write va with
  | .ok g =>
    let k : Packet := { q with
      origin := .flag (q.src % 512) (q.origin.tag s), dest := g.tgt.dest, va, since := none
      body := .write (flagBytes g.tgt.addr v) 1 (s.mustHold q.part g.tgt g.irrev) }
    .inl { s with fabric := s.fabric ++ [k] }
  | .miss => .inr Cause.transMiss.code
  | .fault cause => .inr cause

/-- The put's last byte is in: its slot is committed, its count rises, its flag follows, and it is acknowledged (R342, R343, R345). -/
def putDone (s : State) (q : Packet) (c lnT len : Nat) (ring : Option (Nat × Nat)) (flag : Option (Nat × Nat)) : State × Reply :=
  let s := match ring with
    | some (r, _) => match s.ctx c with
      | some x =>
        let g := x.ring r
        let k := (s.core c).engineWrite (g.at_ g.t + len) (List.replicate (g.slot - len) 0)
        (s.setCore c k).onCtx c fun x => x.setRing r { g with t := (g.t + 1) % 2 ^ 32, resv := g.resv - 1 }
      | none => s
    | none => s
  let s := observe s q c lnT
  let s := { s with puts := s.puts.filter fun p => !(p.core == c && p.src == q.src && p.seq == q.seq) }
  match flag with
  | none => (s, .done)
  | some (va, v) =>
    match sendFlag s q c va v with
    | .inl s' => (s', .done)
    | .inr cause => (s, .excess cause va 10)

/-- PUT_PACKET_ARRIVAL: one packet of a put at its target (R342, R345, R346, R355). DEDUCED: log entry 39. DESIGN CHOICE: log entry 97. -/
def putPacketArrival (k : Nat) (s : State) : Option State := do
  let q ← s.fabric[k]?
  match q.body, q.dest with
  | .put i n isRing addr off bs len lnT flag, .core c =>
    let s1 := { s with fabric := dropAt s.fabric k }
    let known := s.answered (10 + c) q
    let old := s.puts.find? fun p => p.core == c && p.src == q.src && p.seq == q.seq
    if !firstOfSource s k q then none
    else if known then (if i = 0 then arriveAt s k q (10 + c) fun s => some (s, .done) else some s1)
    else if !takesPuts s c q.part q.job || !s.filterOpen (10 + c) q then some (if i = 0 then replyTo s1 q .refused else s1)
    else
      let x ← s.ctx c
      let r := addr % 32
      let g := x.ring r
      if isRing && (!g.init || g.cond || g.prod != 3 || decide (g.slot < len)) then
        some (if i = 0 then replyTo (s1.record (10 + c) q (.fault Cause.ringRole.code 0 10)) q (.fault Cause.ringRole.code 0 10) else s1)
      else if isRing && old.isNone && (g.busy || g.free == 0) then some (if i = 0 then replyTo s1 q .refused else s1)
      else
        let slot := match old with
          | some p => p.slot
          | none => if isRing then some ((g.t + g.resv) % 2 ^ 32) else none
        let got := insertNat i ((old.map PutIn.got).getD [])
        let last := got.length == n
        if isRing && last && slot != some g.t then none
        else
          let s := if isRing && old.isNone then s1.onCtx c fun x => x.setRing r { g with resv := g.resv + 1 } else s1
          let at_ := match slot with
            | some j => g.at_ j + off
            | none => addr + off
          let s := s.setCore c ((s.core c).engineWrite at_ bs)
          if last then
            let (s, rep) := putDone s q c lnT len (slot.map fun j => (r, j)) flag
            some (replyTo (s.record (10 + c) q rep) q rep)
          else
            some { s with puts := (s.puts.filter fun p => !(p.core == c && p.src == q.src && p.seq == q.seq)) ++ [⟨c, q.src, q.seq, got, slot⟩] }
  | _, _ => none

/-- LSIG_ARRIVAL (R344, R346). -/
def lsigArrival (k : Nat) (s : State) : Option State := do
  let q ← s.fabric[k]?
  match q.body, q.dest with
  | .sig l, .core c => arriveAt s k q (10 + c) fun s =>
      (if takesPuts s c q.part q.job then some (observe s q c l, .done) else some (s, .refused))
  | _, _ => none

/-! ### Replies -/

/-- True for a put or a signal. -/
def LOp.isPut : LOp → Bool
  | .put .. => true
  | .sig .. => true
  | _ => false

/-- The home or target of a request, as its filter tables are numbered. -/
def Req.at_ (r : Req) : Nat := match r.packets.head?.map Packet.dest with
  | some (.home h) => h
  | some (.core c) => 10 + c
  | some .dispatch => 600
  | _ => 601

/-- A request is answered: it is forgotten, and when it was the last one to its home a release follows (R377). -/
def dropReq (s : State) (r : Req) : State :=
  let s := { s with reqs := s.reqs.filter fun t => !(t.core == r.core && t.seq == r.seq) }
  if r.at_ ≤ 600 && !s.reqs.any fun t => t.core == r.core && t.at_ == r.at_ then
    { s with fabric := s.fabric ++ (r.packets.take 1).map fun q => { q with body := .release, floor := floorOf s r.core, since := none } }
  else s

/-- A reply lands at the core that awaits it (R337, R347, R361). -/
def takeReply (s : State) (k : Nat) (q : Packet) (r : Reply) (isPut : Bool) : Option State := do
  let c := q.src % 512
  let s1 := { s with fabric := dropAt s.fabric k }
  match s.ctx c, s.reqs.find? fun t => t.core == c && t.seq == q.seq with
  | some x, some req =>
    match x.lq.find? fun e => e.sent == some q.seq && e.counts with
    | none => some (dropReq s1 req)
    | some e =>
      if e.op.isPut != isPut then none
      else if !s.works x.part (unitLanding c) then some s1
      else match r with
        | .done => some (completeCmd (dropReq s1 req) c e)
        | .ret bs =>
          let s := match retAt e.op with
            | some a => s1.setCore c ((s1.core c).engineWrite a bs)
            | none => s1
          some (completeCmd ((dropReq s req).onCtx c fun x => x.reads s.far) c e)
        | .refused => some { s1 with reqs := s1.reqs.map fun t =>
            if t.core = c ∧ t.seq = q.seq then { t with refused := some s.cycle, turned := true } else t }
        | .fault cause va h => some (cmdFault (dropReq s1 req) c x e (State.homeUnit h (unitLanding c)) cause va)
        | .excess cause va h =>
          some (completeCmd ((dropReq s1 req).engineFault x.part (State.homeUnit h (unitLanding c)) cause e.tag va 0 x.job) c e)
  | _, _ => some s1

/-- A request of a put or a signal. -/
def Body.isPut : Body → Bool
  | .put .. => true
  | .sig _ => true
  | _ => false

/-- What a request may be refused for at another module. -/
def Body.causes : Body → List Cause
  | .put _ _ ring _ _ _ _ _ _ => if ring then [.prot, .ringRole] else [.prot]
  | .sig _ => [.prot]
  | .op _ _ o => o.causes
  | .chase _ _ => [.prot, .remoteUnmapped, .atomicTarget, .convertBusy, .transMiss]
  | _ => []

/-- The fault that another module may answer an operation with (R80, R81, R128, R345, R353, R374, R445). DESIGN CHOICE: log entry 13. -/
def remoteFault (s : State) (q : Packet) : Option Nat := causeOf s q.body.causes

/-- The virtual address that a request names. -/
def Body.va : Body → Nat
  | .op _ _ o => o.va
  | .chase w _ => (w.p + w.off) % 2 ^ 64
  | _ => 0

/-- An answer from another module: what it did is not this module's to say. A put or a signal that its target does not take is refused (R345, R346). DESIGN CHOICE: log entry 13. -/
def remoteReply (s : State) (q : Packet) : Reply :=
  if q.body.isPut && Config.race 512 s.free 9 then .refused
  else match remoteFault s q with
  | some c => match q.body with
    | .op _ _ (.jpost _ j _ _) => if c = Cause.jcbOver.code then .excess c j 10 else .fault c j 10
    | b => .fault c b.va 10
  | none => match q.body with
    | .op _ _ (.aop _ _ _ wide _ (some _)) => .ret ((List.range (if wide then 8 else 4)).map (Config.remote s.free))
    | .op _ _ (.acas _ _ _ _) => .ret ((List.range 8).map (Config.remote s.free))
    | .op _ _ (.acasw _ _ n _) => .ret ((List.range (8 * n)).map (Config.remote s.free))
    | .op _ _ (.aenq _ _ _ _) => .ret ((List.range 8).map (Config.remote s.free))
    | .chase _ _ => .ret ((List.range 16).map (Config.remote s.free))
    | _ => .done

/-- A request that another module answers: once that module has delivered an LPUTF's data its flag is written (R343). DESIGN CHOICE: log entry 115. -/
def remoteStep (s : State) (k b : Nat) (q : Packet) (isPut : Bool) : Option State :=
  let late := match q.body with
    | .op pa _ _ => ownWriteIn (s.fabric.take k) q.src q.dest (pa / 64)
    | .chase _ pa => ownWriteIn (s.fabric.take k) q.src q.dest (pa / 64)
    | _ => false
  if !s.berthAnswers b || late || q.body.isPut != isPut then none
  else
    let s1 := { s.flit b with free := s.free + 2 }
    match q.body, remoteReply s q with
    | .put _ _ _ _ _ _ _ _ (some (va, v)), .done => match sendFlag s1 q (q.src % 512) va v with
      | .inl s' => takeReply s' k q .done isPut
      | .inr cause => takeReply s1 k q (.excess cause va 10) isPut
    | _, r => takeReply s1 k q r isPut

/-- A reply packet, or an answer through a berth, at core's landing engine; or a reply to another module leaves, or is gone with its berth (R443, R449, R451). -/
def replyStep (k : Nat) (isPut : Bool) (s : State) : Option State := do
  let q ← s.fabric[k]?
  match q.body, q.dest with
  | .reply r, .core _ => takeReply s k q r isPut
  | .reply _, .berth b _ =>
    if isPut then none
    else if !pathOk s q then some { s with fabric := dropAt s.fabric k }
    else if s.berthReplies b then some { s.flit b with fabric := dropAt s.fabric k }
    else none
  | .release, _ => none
  | .write _ _ _, _ => none
  | .read _ _ _, _ => none
  | _, .berth b _ => remoteStep s k b q isPut
  | _, _ => none

/-- PUT_ACK: the acknowledgement of a put or signal; lnA follows the target's increment (R342). -/
def putAck (k : Nat) (s : State) : Option State := replyStep k true s

/-- ATOMIC_REPLY: the reply of any other request (R347). -/
def atomicReply (k : Nat) (s : State) : Option State := replyStep k false s

/-- SOURCE_RELEASE: a home or target frees the source's entry, behind every request that its source sent before (R377). -/
def sourceRelease (k : Nat) (s : State) : Option State := do
  let q ← s.fabric[k]?
  match q.body with
  | .release =>
    let at_ := match q.dest with
      | .home h => h
      | .core c => 10 + c
      | _ => 600
    if (s.fabric.take k).any fun p => p.src == q.src && p.dest == q.dest && p.part == q.part then none
    else some { s with fabric := dropAt s.fabric k, filters := s.filters.filter fun e => !(e.at_ == at_ && e.src == q.src) }
  | _ => none

/-! ### Retries and the fabric timeout -/

/-- The landing engine of a request's core still works. -/
def reqLive (s : State) (r : Req) : Bool := s.works r.part (unitLanding r.core)

/-- END_TO_END_RETRY: 2^16 cycles have passed since the request, or its last retry, without a reply (R354). -/
def endToEndRetry (k : Nat) (s : State) : Option State := do
  let r ← s.reqs[k]?
  if reqLive s r && decide ((r.retries + 1) * 2 ^ 16 ≤ s.cycle - r.cycle) then
    some { s with fabric := s.fabric ++ r.packets, reqs := s.reqs.set k { r with retries := r.retries + 1 } }
  else none

/-- REFUSAL_RETRY: a refused request is sent again after 256 cycles (R376). -/
def refusalRetry (k : Nat) (s : State) : Option State := do
  let r ← s.reqs[k]?
  let c ← r.refused
  if reqLive s r && decide (256 ≤ s.cycle - c) then
    some { s with fabric := s.fabric ++ r.packets, reqs := s.reqs.set k { r with refused := none } }
  else none

/-- LSTAT at the loss of module `m` (R359). -/
def lstatLost (l m : Nat) : Nat :=
  if l.testBit 2 then (if bits l 27 16 ≠ m then l ||| 8 else l) else setBits (l ||| 4) 27 16 m

/-- A request is given up: its packets and its number are forgotten. -/
def giveUp (s : State) (r : Req) : State :=
  dropReq { s with fabric := s.fabric.filter fun q => !(q.src == r.core && q.seq == r.seq && q.origin == .land r.core r.tag) } r

/-- The command of a request. -/
def Req.cmd (s : State) (r : Req) : Option LCmd := (s.ctx r.core).bind fun x => x.lq.find? fun e => e.sent == some r.seq && e.counts

/-- Partition `p` has lost module `m`: its recovery engine takes it up (R359). A module of its group may hold a live riser of the group, which only that module knows: the group is then held for the host (R439). DESIGN CHOICE: log entry 106. -/
def peerLoss (s : State) (p m : Nat) : State :=
  if !s.inGroup p m then s.engineFault p unitRecovery Cause.peerLost.code 0 0 0 0
  else
    let held := Config.race 512 s.free 3
    (s.group p).foldl (fun s q =>
      let s := s.engineFault q unitRecovery Cause.peerLost.code 0 0 0 0
      let s := s.onPart q fun x => { x with gone := insertNat m x.gone }
      if held then (s.onPart q fun x => { x with gcause := Cause.peerLost.code, gstate := 6 }).msi q else s) { s with free := s.free + 1 }

/-- A context on core `c` has lost a command to module `m` (R163, R359). -/
def tellLost (s : State) (c m : Nat) : State :=
  s.onCtx c fun x => { x with ctl := { x.ctl with lstat := lstatLost x.ctl.lstat m }, lost := insertNat m x.lost }

/-- The elements of a burst that lie on module `m` come without a value of its own (R359): what is read for them is free. DESIGN CHOICE: log entry 13. -/
def readLost (s : State) (k : Copy) (b : Burst) (m : Nat) : State :=
  match k.src with
  | .ring _ => s
  | .view v =>
    let lost := (range b.pos b.hi).filter fun i => match spotOf s k .read v i with
      | .at_ g => match g.tgt with
        | .remote _ n _ => n == m
        | _ => false
      | _ => false
    if lost.isEmpty then s
    else
      let s1 := { s with free := s.free + 1 }.onCopy k.id fun k => k.onBurst b fun b =>
        { b with got := b.got ++ lost.map fun i => (i, cutCode v.w (v.nib i) ((List.range 8).map fun j => Config.remote s.free (8 * i + j))) }
      match k.core with
      | some c => tellLost s1 c m
      | none => s1

/-- A read or a plain write of an engine is under way to module `m`. -/
def Packet.goesTo (m : Nat) (x : Packet) : Bool := match x.dest, x.body with
  | .berth _ n, .read _ _ _ => n == m
  | .berth _ n, .write _ _ false => n == m
  | _, _ => false

/-- An engine's packet to module `m` is given up: a stream's read ends with a line that is free, and a write is done with (R359). DESIGN CHOICE: log entry 13. -/
def packetLost (m : Nat) (s : State) (x : Packet) : State :=
  match x.origin, x.body with
  | .stream c j, .read vline ag _ =>
    tellLost (snapFill { s with free := s.free + 1 } c j x.once ⟨vline, x.part, ag, (List.range 64).map (Config.remote s.free)⟩) c m
  | .stream c _, _ => tellLost s c m
  | .flag c _, _ => tellLost s c m
  | .copy id, _ => match (s.copy id).bind Copy.core with
    | some c => tellLost s c m
    | none => s
  | _, _ => s

/-- Module `m` is lost (R359): every command that waits on it completes without a return, LSTAT says so, and the recovery engine of each partition concerned takes it up, partition `p` among them. -/
def loseModule (s : State) (p m : Nat) : State :=
  let rs := s.reqs.filter fun r => r.module == m
  let ps := s.fabric.filter (Packet.goesTo m)
  let s := rs.foldl (fun s r => match r.cmd s with
    | none => giveUp s r
    | some e => tellLost (completeCmd (giveUp s r) r.core e) r.core m) s
  let s := ps.foldl (packetLost m) { s with fabric := s.fabric.filter fun x => !x.goesTo m }
  let s := s.copies.foldl (fun s k => if k.stopped then s else k.bursts.foldl (fun s b => readLost s k b m) s) s
  (p :: (rs.map Req.part ++ ps.map Packet.part)).eraseDups.foldl (fun s p => peerLoss s p m) s

/-- FABRIC_TIMEOUT: a request has had no reply for the fabric timeout: a put still refused faults, any other request on this module is an uncorrectable error, and another module is lost (R346, R359). -/
def fabricTimeout (k : Nat) (s : State) : Option State := do
  let r ← s.reqs[k]?
  let x ← s.ctx r.core
  let e ← r.cmd s
  if !reqLive s r || s.cycle - r.cycle < s.usCycles r.fto then none
  else if e.op.isPut && r.turned then some (cmdFault (giveUp s r) r.core x e (unitLanding r.core) Cause.landAbsent.code 0)
  else if r.module = s.modid then some (cmdFault (giveUp s r) r.core x e (unitLanding r.core) Cause.uncorrectable.code 0)
  else some (loseModule s x.part r.module)

/-! ### Waits for room (R430, R431, R437) -/

/-- Operation `op` of packet `q` cannot be applied at its home now, since a riser has no room for what it writes. -/
def opWaits (s : State) (q : Packet) (pa st : Nat) (op : LOp) : Bool :=
  let block := block s q
  match op with
  | .aop _ _ o wide v _ => (applyAop s q.part q.unit pa o (if wide then 8 else 4) v.toNat).isNone
  | .acas _ _ wide a =>
    (applyCas s q.part q.unit pa (if wide then 8 else 4) (ofBytes (block a 8)) (ofBytes (block (a + 8) 8))).isNone
  | .acasw _ _ n a => (applyCasw s q.part q.unit pa n (block a (8 * n)) (block (a + 32) (8 * n))).isNone
  | .aenq _ _ v _ => (applyEnq s q.part q.unit pa v).isNone
  | .ared _ _ fmt v cell => crucibleOk s q.part st cell && (crucibleAdd s q.part st fmt cell v).isNone
  | .aredFin _ _ fmt mode cell => crucibleOk s q.part st cell && (crucibleFin s q.part q.unit st pa fmt mode cell).isNone
  | .jraise _ _ n _ => (applyRaise s q.part q.unit pa n).isNone
  | .jpost _ j n _ => (applyPost s q.part q.unit pa j n q.job 0).isNone
  | _ => false

/-- A write that finds no riser or hold-buffer room (R437, R431). -/
def noRoom (s : State) (x : Packet) : Bool :=
  match x.body, x.dest with
  | .write bs _ true, _ => match x.holdAt with
    | some b => !s.holdRoom b bs.length
    | none => false
  | .write ((a, _, _) :: _) _ false, .home h =>
    SMap.get 0xFFFF s.lmeta (a / 64) != (s.part x.part).cur % 65536 && decide (s.riserSize h < s.riserUsed h + 80)
  | .op pa st op, .home h => !s.answered h x && opWaits s x pa st op
  | _, _ => false

/-- A read that waits for the host link (R456), or an engine's read or plain write that waits for another module (R359). -/
def readWait (s : State) (x : Packet) : Bool :=
  match x.body, x.dest with
  | .read _ _ _, .host => !s.hostUp
  | .read _ _ _, .berth _ m => m != 4096
  | .write _ _ false, .berth _ m => m != 4096
  | _, _ => false

/-- Notes when packets began to wait for room, for the host link or for another module, and forgets it when they no longer do. -/
def noteWaits (s : State) : State :=
  let waits (x : Packet) : Bool := noRoom s x || readWait s x
  if s.fabric.any fun x => waits x != x.since.isSome then
    { s with fabric := s.fabric.map fun x =>
        { x with since := if waits x then some (x.since.getD s.cycle) else none
                 fto := if waits x && x.since.isNone then s.mgmt.fto else x.fto } }
  else s

def execCrossPerformed (c : Nat) (s : State) : Out := engine (crossPerformed c) s
def execPutPacketArrival (k : Nat) (s : State) : Out := engine (putPacketArrival k) s
def execLsigArrival (k : Nat) (s : State) : Out := engine (lsigArrival k) s
def execPutAck (k : Nat) (s : State) : Out := engine (putAck k) s
def execAtomicApply (k : Nat) (s : State) : Out := engine (atomicApply k) s
def execAtomicReply (k : Nat) (s : State) : Out := engine (atomicReply k) s
def execOperationPacket (k : Nat) (s : State) : Out := engine (operationPacket k) s
def execAchaseHop (k : Nat) (s : State) : Out := engine (achaseHop k) s
def execCrucibleAdd (k : Nat) (s : State) : Out := engine (crucibleAddStep k) s
def execCrucibleFinalise (k : Nat) (s : State) : Out := engine (crucibleFinStep k) s
def execJcbRaiseApply (k : Nat) (s : State) : Out := engine (jcbRaiseApply k) s
def execEndToEndRetry (k : Nat) (s : State) : Out := engine (endToEndRetry k) s
def execRefusalRetry (k : Nat) (s : State) : Out := engine (refusalRetry k) s
def execSourceRelease (k : Nat) (s : State) : Out := engine (sourceRelease k) s

end Sys2Proof.Machine
end

