-- ==== Sys2Proof/Machine/Invalidate.lean ====
section
/-!
DEFINITION. Invalidations of translations: the steps of VAINV and TINV on each die (R392 to R397), and the completion of walks (R390).
-/

namespace Sys2Proof.Machine

/-- The cores of a die. -/
def dieCores (d : Nat) : List Nat := (List.range 512).filter fun c => dieOf c == d

/-- R394: a die takes its copy of the control block and of PTROOT. -/
def reloadRanges (s : State) (d p : Nat) : State :=
  let q := s.part p
  let x := s.xlat d p
  s.setXlat d p { x with ranges := SMap.put 0 q.xblk 256 q.ptroot }

/-- A page overlaps an invalidation. -/
def Inval.hits (v : Inval) (g : Page) : Bool := v.all || (!v.empty && decide (g.vpn ≤ v.hi ∧ v.lo < g.vpn + g.span))

/-- A virtual line overlaps an invalidation. -/
def Inval.hitsLine (v : Inval) (line : Nat) : Bool := v.all || (!v.empty && decide (v.lo ≤ line / 64 ∧ line / 64 ≤ v.hi))

/-- R393, step 3: what a die removes. Walks under way keep their results for those that joined them, and reads already translated complete where they go, for the stream that asked alone (R395). -/
def dropDie (s : State) (d : Nat) (v : Inval) : State :=
  let x := s.xlat d v.part
  let s := s.setXlat d v.part { x with pages := x.pages.filter fun g => !v.hits g }
  let s := reloadRanges s d v.part
  let s := { s with
    walks := s.walks.map fun w => if w.die = d ∧ w.part = v.part then { w with stale := true } else w
    fabric := s.fabric.map fun q => match q.origin, q.body with
      | .stream c _, .read line _ _ => if dieOf c = d ∧ q.part = v.part ∧ v.hitsLine line then { q with once := true } else q
      | _, _ => q }
  (dieCores d).foldl (fun s c => s.dropLines c fun l p _ => p == v.part && v.hitsLine l) s

/-- The release of R393, step 1: the core's earlier global writes are performed. -/
def invalReady (s : State) (v : Inval) : Bool :=
  match v.by_ with
  | none => true
  | some (c, _, _, _) => match s.ctx c with
    | some x => x.drained s v.issued
    | none => true

/-- DIE_INVALIDATE: die `d` receives invalidation `k`, after its release (R393). -/
def dieInvalidate (k d : Nat) (s : State) : Option State := do
  let v ← s.invals[k]?
  if !v.todo.contains d || !(v.released || invalReady s v) then none
  else
    let s := match v.by_ with
      | some (c, _, _, _) => if v.released then s else s.released c 3
      | none => s
    some { dropDie s d v with invals := s.invals.set k { v with released := true, todo := v.todo.filter (· != d), waiting := v.waiting ++ [d] } }

/-- INVALIDATE_ACK: die `d` acknowledges once the walks that started before its removal have finished (R393). -/
def invalidateAck (k d : Nat) (s : State) : Option State := do
  let v ← s.invals[k]?
  if !v.waiting.contains d || s.walks.any fun w => w.die == d && w.part == v.part && w.stale then none
  else
    let v := { v with waiting := v.waiting.filter (· != d) }
    let s := { s with invals := s.invals.set k v }
    if v.by_.isNone && v.todo.isEmpty && v.waiting.isEmpty then
      some ({ s with invals := dropAt s.invals k }.onPart v.part fun q => { q with tinvBusy := false })
    else some s

/-- The status word of Table 15.5. -/
def invalStatus (v : Inval) : Nat := 1 + (if v.resets.isEmpty then 0 else 2) + v.resets.foldl (fun n d => n ||| 2 ^ (8 + d)) 0

/-- VAINV_COMPLETE: every die has acknowledged; the status word, then the count (R393, step 4). -/
def vainvComplete (k : Nat) (s : State) : Option State := do
  let v ← s.invals[k]?
  let (c, team, ln, st) ← v.by_
  if !v.todo.isEmpty || !v.waiting.isEmpty then none
  else
    let s := { s with invals := dropAt s.invals k }
    match s.ctx c with
    | none => some s
    | some x =>
      if x.team ≠ team then some s
      else
        let s := match st with
          | some a => s.setCore c ((s.core c).engineWrite a (bytesOf (invalStatus v) 8))
          | none => s
        some ((s.onCtx c fun x => { x with vainv := x.vainv - 1 }).bump c ln)

/-- TINV_GO: the host starts a partition-wide invalidation; ignored while one runs (R382, R393). DEDUCED: log entry 55. -/
def tinvGo (p : Nat) (s : State) : State :=
  if (s.part p).tinvBusy then s
  else
    let ds := (s.part p).dies
    let s := s.onPart p fun q => { q with tinvBusy := !ds.isEmpty, tinvAbr := false, tinvDies := 0 }
    if ds.isEmpty then s
    else { s with invals := s.invals ++ [{ part := p, by_ := none, all := true, lo := 0, hi := 0, empty := false, released := true, issued := 0
                                           todo := ds, waiting := [], resets := [] }] }

/-- R396: a die that resets acknowledges every invalidation that waits on it, and its caches are empty. -/
def resetXlat (s : State) (d : Nat) : State :=
  let hit (v : Inval) : Bool := v.todo.contains d || v.waiting.contains d
  let s := s.invals.foldl (fun s v => if hit v && v.by_.isNone then
    s.onPart v.part fun q => { q with tinvAbr := true, tinvDies := q.tinvDies ||| 2 ^ d } else s) s
  let excess := (s.invals.filter fun v => hit v && v.by_.isNone && v.todo.all (· == d) && v.waiting.all (· == d)).map Inval.part
  let s := excess.foldl (fun s p => s.onPart p fun q => { q with tinvBusy := false }) s
  { s with
    invals := (s.invals.filter fun v => !(hit v && v.by_.isNone && v.todo.all (· == d) && v.waiting.all (· == d))).map fun v =>
      if hit v then { v with todo := v.todo.filter (· != d), waiting := v.waiting.filter (· != d), resets := insertNat d v.resets } else v
    walks := s.walks.filter fun w => w.die != d
    dies := s.dies.filter fun e => e.1 / 16 != d }

def execTranslationWalkComplete (k : Nat) (s : State) : Out := engine (walkComplete k) s
def execDieInvalidate (k d : Nat) (s : State) : Out := engine (dieInvalidate k d) s
def execInvalidateAck (k d : Nat) (s : State) : Out := engine (invalidateAck k d) s
def execVainvComplete (k : Nat) (s : State) : Out := engine (vainvComplete k) s
def execTinvGo (p : Nat) (s : State) : Out := .next (tinvGo p s)

end Sys2Proof.Machine
end

