-- ==== Sys2Proof/Machine/Matrix.lean ====
section
/-!
DEFINITION. The M-slot instructions, the K-step, and the steps of MGO nests (R280 to R317).
-/

namespace Sys2Proof.Machine

/-! ### The K-step (R280 to R291) -/

/-- P of R280 by input width. -/
def macRate (w : Nat) : Nat := if w = 32 then 4 else if w = 16 then 16 else if w = 8 then 32 else 64

/-- KS of R281. -/
def kSize (w d : Nat) : Nat := if d * d ≤ macRate w then macRate w / (d * d) else 1

/-- The occupancy of Table 11.1, doubled in quire mode. -/
def occupancy (w d : Nat) (quire : Bool) : Nat :=
  (if d * d ≤ macRate w then 1 else d * d / macRate w) * (if quire then 2 else 1)

namespace KOps

def d (o : KOps) : Nat := tDim o.table
def w (o : KOps) : Nat := fmtWidth o.fmt
def ks (o : KOps) : Nat := kSize o.w o.d

/-- A code of an image. -/
def code (o : KOps) (img i : Nat) : Nat := (img >>> (o.w * i)) % 2 ^ o.w

/-- The value of a code under FI, or of a B4 code under its header (R286, R283). -/
def val (o : KOps) (c header : Nat) : XV := if o.fmt = 5 then blockValue header c else decodeF o.fi o.fmt c

/-- 16 bits of the header operand. -/
def header (h i : Nat) : Nat := (h >>> (16 * i)) % 65536

/-- Element (row, u) of A as codes and values (R282 to R284). -/
def aElem (o : KOps) (row u : Nat) : List (Nat × XV) :=
  (List.range o.d).map fun c =>
    let k := o.code o.a ((row * o.ks + u) * o.d + c)
    (k, o.val k (header o.ax (2 * row + u / 32)))

/-- The K position of kept value u of a row (R284, R286). -/
def kappa (o : KOps) (row u : Nat) : Nat :=
  if o.sp then 4 * (u / 2) + (o.ax >>> (2 * (row * o.ks + u))) % 4 else u

/-- Element (κ, col) of B (R282 to R284). -/
def bElem (o : KOps) (col kappa : Nat) : List (Nat × XV) :=
  let span := if o.sp then 2 * o.ks else o.ks
  (List.range o.d).map fun c =>
    let k := o.code o.b ((col * span + kappa) * o.d + c)
    (k, o.val k (header o.bx (2 * col + kappa / 32)))

end KOps

/-- One product of the list of R286: the operands' codes and values, and the sign of its table entry. -/
structure Term where
  cx : Nat
  cy : Nat
  x : XV
  y : XV
  neg : Bool
  deriving DecidableEq, Repr

/-- The terms of component `m` of one pair of algebra elements, in the order of the left factor's component (R286). -/
def pairTerms (table m : Nat) (xs ys : List (Nat × XV)) : List Term :=
  let d := tDim table
  (List.range d).flatMap fun i => (List.range d).filterMap fun j =>
    let (sg, k) := tEntry table i j
    if sg = 0 ∨ k ≠ m then none
    else
      let x := xs.getD i (0, .nan)
      let y := ys.getD j (0, .nan)
      some ⟨x.1, y.1, x.2, y.2, sg == 3⟩

/-- The list of one output component (R286, R287). -/
def kList (o : KOps) (as bs : List (List (Nat × XV))) (m row : Nat) : List Term :=
  (List.range o.ks).flatMap fun u =>
    let x := as.getD u []
    let y := bs.getD (o.kappa row u) []
    if o.o then pairTerms o.table m y x else pairTerms o.table m x y

namespace Term

/-- The exact signed product, with the flags of 0 × ∞ (R46). -/
def prod (t : Term) : XV × Flags := let (p, f) := mulV t.x t.y; (if t.neg then p.neg else p, f)

end Term

/-- The exponent of R288 of a finite non-zero value. -/
def alignExp (fmt : Nat) : XV → Int
  | .fin _ m e _ =>
    let l : Int := (Nat.log2 m : Int) + e
    match fmtOf fmt with
    | some (.ieee eb _ _, _) => max l (1 - (biasOf eb : Int))
    | _ => l
  | _ => 0

/-- F of Table 11.2. -/
def alignFrac (w : Nat) : Nat := if w = 32 then 52 else if w = 16 then 28 else 17

/-- ⌊|p| / 2^unit⌋ with p's sign (R289). -/
def truncTo (unit : Int) : XV → Int
  | .fin s m e _ =>
    let n : Nat := if unit ≤ e then m <<< (e - unit).toNat else m >>> (unit - e).toNat
    if s then -(n : Int) else n
  | _ => 0

/-- `aligned_group` of R289. -/
def alignedGroup (fmt : Nat) (acc : XV) (g : List Term) : Nat × Flags :=
  let ps := g.map fun t => t.prod.1
  let nan : Nat × Flags := (0x7FC00000, 0)
  if g.any (fun t => t.x.bad || t.y.bad) || ps.any XV.bad || (ps.contains (.inf true) && ps.contains (.inf false)) then (nan.1, fIV)
  else if acc.bad then nan
  else match ps.find? fun p => p = .inf true ∨ p = .inf false with
    | some v =>
      if acc = v.neg then (nan.1, fIV)
      else encodeV 0 (sumV false [acc, v]).1 0 false false 0
    | none =>
      let nz := (g.zip ps).filter fun e => !e.2.isZero
      match nz.map fun e => alignExp fmt e.1.x + alignExp fmt e.1.y with
      | [] => encodeV 0 acc 0 false false 0
      | e :: es =>
        let unit := es.foldl max e - alignFrac (fmtWidth fmt)
        let sm := nz.foldl (fun (i : Int) p => i + truncTo unit p.2) 0
        encodeV 0 (sumV false [acc, .fin (decide (sm < 0)) sm.natAbs unit false]).1 0 false false 0

/-- The groups of a list, in turn (R286). -/
def alignedRun (fmt : Nat) : List (List Term) → Nat → Nat × Flags
  | [], c => (c, 0)
  | g :: gs, c =>
    let (c', f) := alignedGroup fmt (decodeV 0 c) g
    let (r, f') := alignedRun fmt gs c'
    (r, f ||| f')

/-- `qsum` of R291 with its flags: products 0 × ∞, opposite infinities and signalling operands set IV. -/
def qsum (fmt : Nat) (l : List Term) : XV × Flags :=
  let ps := l.map Term.prod
  let vs := ps.map Prod.fst
  let opp := vs.contains (.inf true) && vs.contains (.inf false)
  let fl := ps.foldl (fun f p => f ||| p.2) (if opp then fIV else 0)
  let fl := if fmt = 5 then fl else l.foldl (fun f t => f ||| snanFlag fmt t.cx ||| snanFlag fmt t.cy) fl
  ((sumV false vs).1, fl)

/-- One output component (R286, R290): the cell's new value and what it raises. `fresh` reads the cell as zero of the mode (R310), and a signalling NaN in a cell that is read sets IV (R47). -/
def kCell (o : KOps) (fresh : Bool) (cell : Nat) (c : Cell) (l : List Term) : CellOut :=
  let n : Flags := if fresh then 0 else c.snan
  if o.quire then
    let (q0, g0) : Quire × QFlags := if fresh then (0, 0) else if c.f32 then quireAdd 0 (cellV true c.q) else (c.q, 0)
    let (v, fl) := qsum o.fmt l
    let (q, g) := quireAdd q0 v
    ⟨⟨cell, false, .code q⟩, n ||| fl, g0 ||| g⟩
  else
    let (a, f0) : Nat × Flags :=
      if fresh then (0, 0) else if c.f32 then (c.q.toNat % 2 ^ 32, 0)
      else encodeV 0 (cellV false c.q) 0 false false 0
    let (r, f) := alignedRun o.fmt (chunks 16 (l.length / 16 + (if l.length % 16 = 0 then 0 else 1)) l) a
    ⟨⟨cell, true, .code (BitVec.ofNat 1024 r)⟩, n ||| f0 ||| f, 0⟩

/-- `kstep` of R286 on tile group `t`. DEDUCED: log entry 30. -/
def kStep (k : Core) (o : KOps) (fresh : Bool) (t : Nat) : List CellOut :=
  let bcols := (List.range 16).map fun col => (List.range (if o.sp then 2 * o.ks else o.ks)).map (o.bElem col)
  (List.range 16).flatMap fun row =>
    let as := (List.range o.ks).map (o.aElem row)
    (List.range 16).flatMap fun col =>
      let bs := bcols.getD col []
      (List.range o.d).map fun m =>
        let i := 256 * (t + m) + 16 * row + col
        kCell o fresh i (k.cell i) (kList o as bs m row)

/-! ### MSTEP and the tile moves (R292 to R303) -/

/-- The checks of R299 that M-slot syllables share. -/
def checkTile {α : Type} (x : Ctx) (ts : List Nat) (k : Act α) : Act α := .need (!x.tileBusy ts) .accBusy k

/-- R295 to R297: the operands at issue; the cells at issue + 11, and the results at issue + 12. -/
def execMstep (h : Hdr) (f : F3) (s : State) : Out :=
  syl h s fun _ x =>
    let sp := f.sub.getLsbD 3
    let fmt := f.fmt.toNat
    let hasX := sp || fmt == 5
    let reads := [f.b, f.c] ++ (if sp then [f.c + 1] else []) ++ (if hasX then [f.d] else [])
    let table := x.rtab (f.sub.toNat % 4)
    let d := tDim table
    let q := f.sub.getLsbD 5
    let t := f.a.toNat
    vframe x reads [] false
      (fun y => .need (!x.nests.any Nest.incomplete) .arrayBusy
        (checkTile x (range t (min 16 (t + d)))
          (.need (decide (x.arrayFree ≤ x.bn)) .arrayRate
            (.need (decide (t + d ≤ 16)) .accRange
              (.need (d == 1 || !hasX) .matrixFormat (.ok y)))))) fun y _ _ =>
      let vx := (y.rvec f.d).toNat
      let ops : KOps :=
        { fmt, quire := q, o := f.sub.getLsbD 4, sp, fi := f.fi, table, a := (y.rvec f.b).toNat
          b := (y.rvec f.c).toNat + (if sp then (y.rvec (f.c + 1)).toNat <<< 4096 else 0)
          ax := if sp then vx else vx % 2 ^ 512, bx := vx >>> 512 % 2 ^ 512 }
      { y with msteps := y.msteps ++ [⟨y.bn, t, ops, y.pc⟩], arrayFree := y.bn + occupancy ops.w d q }

/-- R300. -/
def execMzero (h : Hdr) (f : F3) (s : State) : Out :=
  syl h s fun _ x =>
    let t := f.a.toNat
    checkTile x [t] (.ok (x.putCells h 2 2 ((List.range 256).map fun i => codeOut (256 * t + i) (f.sub.getLsbD 5) 0)))

/-- The address checks of MLDT and MSTT (R299, checks 2, 6 and 7). -/
def checkMove {α : Type} (x : Ctx) (t ea n : Nat) (k : Act α) : Act α :=
  checkTile x [t] (.need (ea % 64 == 0) .misalign (.need (inSpad ea n) .bounds k))

/-- R301: 256 elements into the cells of a tile, landing at issue + 16. DEDUCED: log entry 30. -/
def execMldt (h : Hdr) (f : F3) (s : State) : Out :=
  syl h s fun k x =>
    let fmt := f.fmt.toNat
    let w := fmtWidth fmt
    let t := f.a.toNat
    let n := 32 * w
    vframe x [f.b] [] false (fun y => let ea := y.laneAddr f.b f.d.toNat; checkMove x t ea n (.ok ea))
      (fun y _ ea =>
        let cs := elemsOf w (ofBytes (y.load k.mem ea n)) 256
        (y.putCells h 16 16 (cs.zipIdx.map fun (c, i) =>
          let v := decodeV fmt c
          if f.sub.getLsbD 5 then f32Out (256 * t + i) none [v] f.rnd.toNat f.s f.fo (i % 32) (snanFlag fmt c)
          else quireOut (256 * t + i) 0 v (snanFlag fmt c))).tick ea n)
      (checkTile x [t] (.ok ())) [f.b]

/-- R302: the cells at issue; the bytes, their roundings and their flags at issue + 16. -/
def execMstt (h : Hdr) (f : F3) (s : State) : Out :=
  syl h s fun k x =>
    let fmt := f.fmt.toNat
    let w := fmtWidth fmt
    let t := f.a.toNat
    let n := 32 * w
    vframe x [f.b] [] false (fun y => let ea := y.laneAddr f.b f.d.toNat; checkMove x t ea n (.ok ea))
      (fun y _ ea =>
        { y with stores := y.stores ++ [⟨y.bn, y.bn + 16, h.slot, [],
            (List.range 256).map fun i =>
              (ea + i * w / 8, w / 8, ⟨fmt, k.cellVal (256 * t + i), f.rnd.toNat, f.s, f.fo, i % 32⟩),
            k.cellFlags ((List.range 256).map (256 * t + ·)), []⟩] })
      (checkTile x [t] (.ok ())) [f.b]

/-- The MSTEPs whose cells are read at the end of this bundle's landings; their results land in the next bundle (R296). -/
def readMsteps (k : Core) (x : Ctx) : Ctx :=
  (x.msteps.filter fun m => decide (m.issued + 11 ≤ x.bn)).foldl (fun y m =>
    { y.sendCells .m m.issued (m.issued + 12) (m.issued + 12) m.pc (kStep k m.ops false m.tile) with
      msteps := dropOne m y.msteps }) x

/-! ### Nests (R304 to R317) -/

/-- One side of a nest, from shm0 or shm1 (R304). -/
def sideOf (x : Ctx) (id : Nat) : NSide :=
  let v := x.view id 0
  ⟨v.rb, v.ring, v.fmt, Nat.log2 v.d, v.str⟩

/-- R305: queues nest n with its shape fields and table as they stand at issue. -/
def execMgo (h : Hdr) (f : F3) (s : State) : Out :=
  syl h s fun _ x0 =>
    .need (decide ((x0.nests.filter Nest.incomplete).length < 4)) .mgoFull
      (.need (!x0.nests.any fun n => n.n == f.a.toNat && n.incomplete) .mgoTag
        (let x := if f.w then [0, 1, 2, 3].foldl Ctx.exchange x0 else x0
         let acc := x.view 2 0
         let lv := x.view 3 0
         let n : Nest :=
           { n := f.a.toNat, state := .queued, cause := 0, q := f.sub.getLsbD 5, o := f.sub.getLsbD 4, sp := f.sub.getLsbD 3
             z := f.sub.getLsbD 2, fi := f.fi, table := x.rtab (f.sub.toNat % 4), a := sideOf x 0, b := sideOf x 1
             base := acc.base % 16, tstr := acc.str, rank := lv.rank, ext := lv.ext, issued := x.bn, pc := x.pc
             started := 0, done := 0, ha := 0, hb := 0, freedA := 0, freedB := 0, nextAt := 0, cur := none }
         .ok { x with nests := (x.nests.filter fun m => m.n != n.n || m.cur.isSome) ++ [n] }))

/-- R313: waits while a named nest is incomplete. -/
def execMwait (h : Hdr) (f : F3) (s : State) : Out :=
  syl h s fun _ x =>
    .await (!x.nests.any fun n => (f.sub.getLsbD 0 || n.n == f.a.toNat) && n.incomplete) (.ok x)

/-- The number of a nest's state (Table 11.8). -/
def NState.code : NState → Nat
  | .queued => 1 | .running => 2 | .done => 3 | .aborted => 4 | .faulted => 5

/-- The last issue of tag `n` (R314). -/
def Ctx.lastNest (x : Ctx) (n : Nat) : Option Nest := x.nests.reverse.find? fun m => m.n == n

/-- R314: the record as it stands at issue, visible at issue + 4. -/
def execMstat (h : Hdr) (f : F3) (s : State) : Out :=
  syl h s fun _ x => vframe x [f.b] [] false
    (fun y => let ea := y.laneAddr f.b f.d.toNat
      .need (ea % 16 == 0) .misalign (.need (inSpad ea 16) .bounds (.ok ea)))
    (fun y _ ea =>
      let r := match y.lastNest f.a.toNat with
        | some n => n.state.code + 256 * n.cause + n.done * 2 ^ 64
        | none => 0
      y.store h 4 ((bytesOf r 16).zipIdx.map fun (b, i) => (ea + i, b))) (deps := [f.b])

/-- R315. -/
def execMabort (h : Hdr) (f : F3) (s : State) : Out :=
  syl h s fun _ x => .ok { x with nests := x.nests.map fun n =>
    if n.n = f.a.toNat ∧ n.incomplete then { n with state := .aborted } else n }

namespace Nest

/-- The extents of the nest's levels. -/
def dims (n : Nest) : List Nat := n.ext.take n.rank

/-- The number of iterations. -/
def total (n : Nest) : Nat := n.dims.foldl (· * ·) 1

/-- The indices of iteration `k`, the last level varying fastest (R306), from the innermost outwards. -/
def indices : List Nat → Nat → List Nat
  | [], _ => []
  | e :: es, k => k % e :: indices es (k / e)

/-- Σ i_j × STR_j of iteration `k` (R306). -/
def slotAt (n : Nest) (str : List Int) (k : Nat) : Int :=
  let is := (indices n.dims.reverse k).reverse
  (is.zip str).foldl (fun (a : Int) (p : Nat × Int) => a + p.1 * p.2) 0

/-- u_A, u_B and the tile group of iteration `k`. -/
def uA (n : Nest) (k : Nat) : Int := n.slotAt n.a.str k
def uB (n : Nest) (k : Nat) : Int := n.slotAt n.b.str k
def tile (n : Nest) (k : Nat) : Int := n.base + n.slotAt n.tstr k

def w (n : Nest) : Nat := fmtWidth n.a.fmt
def ks (n : Nest) : Nat := kSize n.w n.d

/-- The bytes of one image of `span` K positions. -/
def imageBytes (n : Nest) (span : Nat) : Nat := 2 * span * n.d * n.w

/-- The slot sizes of R304. -/
def slotA (n : Nest) : Nat := n.imageBytes n.ks + (if n.a.fmt = 5 then 64 else 0) + (if n.sp then 4 * n.ks else 0)
def slotB (n : Nest) : Nat := n.imageBytes (if n.sp then 2 * n.ks else n.ks) + (if n.a.fmt = 5 then 64 else 0)

/-- The window of R309 of a slot list, walked from the last iteration. -/
def window : List Int → Int × Option Int
  | [] => (0, none)
  | u :: us =>
    let (w, m) := window us
    let m' := match m with
      | some v => min u v
      | none => u
    (max w (u - m' + 1), some m')

/-- The checks of R308 in the order of its table: the cause within Table 11.8 and the halt's cause. -/
def check (n : Nest) (rings : SMap Ring) : Option (Nat × Cause) :=
  let ra := SMap.get Ring.zero rings n.a.ring
  let rb := SMap.get Ring.zero rings n.b.ring
  let us := (List.range n.total).map n.uA
  let vs := (List.range n.total).map n.uB
  let ts := (List.range n.total).map n.tile
  let fok := decide (n.a.fmt ≤ 5) || (n.q && (isInt n.a.fmt || isTaper n.a.fmt))
  if !(decide (1 ≤ n.rank ∧ n.rank ≤ 6) && n.a.rb && n.b.rb && n.a.fmt == n.b.fmt && 2 ^ n.a.dcode == n.d && 2 ^ n.b.dcode == n.d) then
    some (1, .mgoField)
  else if !(fok && (n.d == 1 || (n.a.fmt != 5 && !n.sp)) && !(n.sp && n.a.fmt == 5)) then some (2, .matrixFormat)
  else if !(n.a.ring != n.b.ring && ra.init && rb.init && !ra.cond && !rb.cond && decide (n.slotA ≤ ra.slot ∧ n.slotB ≤ rb.slot)) then
    some (1, .mgoField)
  else if !(ra.cons == 4 && rb.cons == 4) then some (3, .ringRole)
  else if us.any (· < 0) || vs.any (· < 0) then some (1, .mgoField)
  else if ts.any fun t => decide (t < 0 ∨ 16 < t + n.d) then some (5, .accRange)
  else if (window us).1 > ra.n ∨ (window vs).1 > rb.n then some (4, .ringWindow)
  else none

/-- The slots below this have no reader left once `k` K-steps have retired (R309). -/
def freeable (n : Nest) (u : Nat → Int) (k : Nat) : Nat :=
  if n.total ≤ k then ((List.range n.total).foldl (fun (m : Int) i => max m (u i + 1)) 0).toNat
  else ((range (k + 1) n.total).foldl (fun (m : Int) i => min m (u i)) (u k)).toNat

/-- The slots freed on ring `r` from head `h0` once `k` K-steps have retired: those without a reader left, as far as the ring has been filled (R265, R309). -/
def freed (n : Nest) (r : Ring) (h0 : Nat) (u : Nat → Int) (k : Nat) : Nat := min (n.freeable u k) ((r.t + 2 ^ 32 - h0) % 2 ^ 32)

end Nest

/-- Replaces a nest of a context, named by its tag and the bundle of its MGO. -/
def Ctx.setNest (x : Ctx) (n : Nest) : Ctx := { x with nests := x.nests.map fun m => if m.n = n.n ∧ m.issued = n.issued then n else m }

/-- The first queued nest, if every nest before it has completed and no step of them is in the array (R305, R307). -/
def Ctx.nextNest (x : Ctx) : Option Nest :=
  match x.nests.find? Nest.incomplete with
  | some n => if n.state = .queued && x.nests.all (fun m => m.cur.isNone) then some n else none
  | none => none

/-- R307: the earlier cell results and MSTEPs that a nest waits for have landed; an MSTEP's results are those that land twelve bundles after it (R296). -/
def Ctx.nestReady (x : Ctx) (n : Nest) : Bool :=
  x.msteps.all (fun m => decide (n.issued < m.issued)) &&
  x.cellRes.all fun r => !(r.slot == .m && r.full == r.issued + 12) && r.writes.all fun w => !n.maps (w.cell / 256)

/-- Marks a nest done once it has no K-step left (R306, R313). -/
def Nest.finish (n : Nest) : Nest := if n.state = .running ∧ n.total ≤ n.done then { n with state := .done } else n

/-- MGO_NEST_START on core `c` (R307, R308). -/
def mgoNestStart (c : Nat) (s : State) : Option State := do
  let x ← s.ctx c
  let n ← x.nextNest
  if x.nestReady n && s.works x.part (unitMatrix c) then
    match n.check x.rings with
    | some (code, cause) =>
      some ((s.setCtx c (x.setNest { n with state := .faulted, cause := code })).engineFault x.part (unitMatrix c) cause.code n.n 0 0 x.job)
    | none =>
      let n := { n with state := .running, ha := (SMap.get Ring.zero x.rings n.a.ring).h, hb := (SMap.get Ring.zero x.rings n.b.ring).h
                        nextAt := s.cycle }
      some (s.setCtx c (x.setNest n.finish))
  else none

/-- The bytes of slot `u` of a ring, counted from head `h0` (R263). -/
def ringBytes (k : Core) (r : Ring) (h0 u n : Nat) : Nat :=
  ofBytes (k.engineRead (r.advancedAt ((h0 + u) % 2 ^ 32)) (r.base + (h0 + u) % 2 ^ 32 % r.n * r.slot) n)

/-- True once the fill count covers slot `u` from `h0` (R309). -/
def filled (r : Ring) (h0 u : Nat) : Bool := decide (u < (r.t + 2 ^ 32 - h0) % 2 ^ 32)

/-- The operands of iteration `k` from its ring slots (R304). -/
def nestOps (k : Core) (x : Ctx) (n : Nest) (i : Nat) : KOps :=
  let ra := SMap.get Ring.zero x.rings n.a.ring
  let rb := SMap.get Ring.zero x.rings n.b.ring
  let ia := n.imageBytes n.ks
  let ib := n.imageBytes (if n.sp then 2 * n.ks else n.ks)
  let a := ringBytes k ra n.ha (n.uA i).toNat n.slotA
  let b := ringBytes k rb n.hb (n.uB i).toNat n.slotB
  { fmt := n.a.fmt, quire := n.q, o := n.o, sp := n.sp, fi := n.fi, table := n.table
    a := a % 2 ^ (8 * ia), b := b % 2 ^ (8 * ib), ax := a >>> (8 * ia), bx := b >>> (8 * ib) }

/-- Frees ring slots up to `freed` beyond `h0` (R309). -/
def Ctx.freeTo (x : Ctx) (ring h0 freed : Nat) : Ctx :=
  { x with rings := SMap.put Ring.zero x.rings ring { SMap.get Ring.zero x.rings ring with h := (h0 + freed) % 2 ^ 32 } }

/-- Frees what the retired K-steps of nest `n` leave without a reader, on both of its rings (R309). -/
def Ctx.freeNest (x : Ctx) (n : Nest) : Ctx :=
  let n := { n with freedA := n.freed (SMap.get Ring.zero x.rings n.a.ring) n.ha n.uA n.done
                    freedB := n.freed (SMap.get Ring.zero x.rings n.b.ring) n.hb n.uB n.done }
  ((x.freeTo n.a.ring n.ha n.freedA).freeTo n.b.ring n.hb n.freedB).setNest n

/-- KSTEP_START on core `c` (R306, R309, R312). A nest whose next slots are not filled frees the filled slots that no K-step still reads. -/
def kstepStart (c : Nat) (s : State) : Option State := do
  let x ← s.ctx c
  let n ← x.nests.find? fun n => n.state == .running
  let ra := SMap.get Ring.zero x.rings n.a.ring
  let rb := SMap.get Ring.zero x.rings n.b.ring
  if n.cur.isNone && decide (n.started < n.total) && s.works x.part (unitMatrix c) then
    if filled ra n.ha (n.uA n.started).toNat && filled rb n.hb (n.uB n.started).toNat then
      if n.nextAt ≤ s.cycle then
        some (s.setCtx c (x.setNest { n with
          cur := some (nestOps (s.core c) x n n.started), started := n.started + 1, nextAt := s.cycle + occupancy n.w n.d n.q }))
      else none
    else
      let y := x.freeNest n
      if y.rings = x.rings then none else some (s.setCtx c y)
  else none

/-- Writes one cell of a retired K-step, for chain and full readers at once. -/
def settleCell (k : Core) (w : CellWrite) : Core :=
  match w.val with
  | .code q => { k with cells := SMap.put Cell.zero k.cells w.cell ⟨q, w.f32, .code q, w.f32⟩ }
  | .sum .. => k

/-- KSTEP_RETIRE on core `c` (R309 to R311, R316). -/
def kstepRetire (c : Nat) (s : State) : Option State := do
  let x ← s.ctx c
  let n ← x.nests.find? fun n => n.cur.isSome
  let o ← n.cur
  if s.works x.part (unitMatrix c) then
    let i := n.done
    let t := (n.tile i).toNat
    let first := !(List.range i).any fun j => n.tile j == n.tile i
    let last := !(range (i + 1) n.total).any fun j => n.tile j == n.tile i
    let k := s.core c
    let outs := kStep k o (n.z && first) t
    let k := outs.foldl (fun k o => settleCell k o.write) k
    let x := outs.foldl (fun x o => x.markCell o.write.cell) x
    let fl := outs.foldl (fun f o => f ||| o.fl) 0
    let qfl := outs.foldl (fun f o => f ||| o.qfl) 0
    let ovf := if x.ctl.qctl % 2 = 1 then firstOvf outs else none
    let n : Nest := { n with cur := none, done := i + 1 }
    let n : Nest := if ovf.isSome && n.state == .running then { n with state := .faulted, cause := 6 } else n.finish
    let x := x.freeNest n
    let x := { x with ctl := { x.ctl with fstat := x.ctl.fstat ||| fl, qstat := x.ctl.qstat ||| qfl }
                      dphAdv := if last then x.dphAdv + 1 else x.dphAdv }
    let s := s.setCore c { k with ctx := some x }
    match ovf with
    | some cell => some (s.raise x.part
        { unit := unitMatrix c, kind := 1, cause := Cause.quireOv.code, tag := n.n, pc := 0, va := 0, count := n.done
          detail := cell / 128 + cell % 128 * 256, job := x.job, syl := 0, slot := 0, cycle := s.cycle })
    | none => some s
  else none

def execMgoNestStart (c : Nat) (s : State) : Out := engine (mgoNestStart c) s
def execKstepStart (c : Nat) (s : State) : Out := engine (kstepStart c) s
def execKstepRetire (c : Nat) (s : State) : Out := engine (kstepRetire c) s

end Sys2Proof.Machine
end

