-- ==== Sys2Proof/Machine/QuireOps.lean ====
section
/-!
DEFINITION. The Q-slot instructions (R216 to R236).
-/

namespace Sys2Proof.Machine

/-- The mask of a Q-slot F3 syllable. -/
def qkm (x : Ctx) (f : F3) : KMask := x.rk (f.sub.toNat % 16)

/-- The enabled lanes of a window. -/
def qlanes (km : KMask) : List Nat := (List.range 128).filter fun l => km.getLsbD l

/-- The frame of a Q-slot syllable on windows: ACC_BUSY, then the cells it writes (R221). -/
def qcells (h : Hdr) (s : State) (wins : List Nat) (chain full : Nat) (go : Core → Ctx → List CellOut) : Out :=
  syl h s fun k x => .need (!wins.any x.windowBusy) .accBusy (.ok (x.putCells h chain full (go k x)))

/-- R223. -/
def execQclr (h : Hdr) (f : F3) (s : State) : Out :=
  qcells h s [f.a.toNat] 1 3 fun k x => (qlanes (qkm x f)).map fun l =>
    let i := 128 * f.a.toNat + l
    codeOut i (k.cell i).f32 0

/-- One lane of QMAC: the products of its element pairs, and the FSTAT flags they raise whatever the cell's mode (R224). -/
def macTerms (neg fi : Bool) (fmt : Nat) (ps : List (Nat × Nat)) : List XV × Flags :=
  let ts := ps.map fun (a, b) => mulV (decodeF fi fmt a) (decodeF fi fmt b)
  let vs := ts.map fun t => if neg then t.1.neg else t.1
  let opp := vs.contains (.inf true) && vs.contains (.inf false)
  let fl := ts.foldl (fun f t => f ||| t.2) (if opp then fIV else 0)
  (vs, ps.foldl (fun f p => f ||| snanFlag fmt p.1 ||| snanFlag fmt p.2) fl)

/-- QMAC and QMACN (R224). -/
def qmac (neg : Bool) (h : Hdr) (f : F3) (s : State) : Out :=
  syl h s fun k x => vframe x [f.b, f.c] [] false
    (fun y => .need (!x.windowBusy f.a.toNat) .accBusy (.ok (y.rvec f.b, y.rvec f.c))) fun y _ (va, vb) =>
      let fmt := f.fmt.toNat
      let w := fmtWidth fmt
      let km := qkm x f
      let lanes := chunks (32 / w) 128 ((vElems w va).zip (vElems w vb))
      y.putCells h 1 3 ((lanes.zipIdx.filter fun e => km.getLsbD e.2).map fun (ps, l) =>
        let i := 128 * f.a.toNat + l
        let c := k.cell i
        let (ts, fl) := macTerms neg f.fi fmt ps
        if c.chainF32 then f32Out i (some c.chain) ts f.rnd.toNat f.s f.fo (l % 32) fl
        else match c.chain with
          | .code q => quireOut i q (sumV false ts).1 fl
          | .ref _ => codeOut i false quireNaR)

def execQmac (h : Hdr) (f : F3) (s : State) : Out := qmac false h f s
def execQmacn (h : Hdr) (f : F3) (s : State) : Out := qmac true h f s

/-- The exact sum of the values of cells into a cell of a given tag, with the flags of the signalling NaNs among them and of opposite infinities (R47, R225, R228): NaR passes on without a flag into a QUIRE cell. -/
def sumInto (f : F3) (cell l : Nat) (f32 : Bool) (ts : List XV) (fl : Flags) : CellOut :=
  if f32 then f32Out cell none ts f.rnd.toNat f.s f.fo (l % 32) fl
  else if ts.contains .nar then ⟨⟨cell, false, .code quireNaR⟩, fl, 0⟩
  else let (v, g) := sumV false ts; quireOut cell 0 v (fl ||| g)

/-- QADD and QSUB (R225). -/
def qaddsub (neg : Bool) (h : Hdr) (f : F3) (s : State) : Out :=
  qcells h s [f.a.toNat, f.b.toNat, f.c.toNat] 1 3 fun k x => (qlanes (qkm x f)).map fun l =>
    let i := 128 * f.a.toNat + l
    let a := 128 * f.b.toNat + l
    let b := 128 * f.c.toNat + l
    sumInto f i l (k.cell i).f32 [k.cellVal a, if neg then (k.cellVal b).neg else k.cellVal b] (k.cellFlags [a, b])

def execQadd (h : Hdr) (f : F3) (s : State) : Out := qaddsub false h f s
def execQsub (h : Hdr) (f : F3) (s : State) : Out := qaddsub true h f s

/-- R225: 0 − cell. -/
def execQneg (h : Hdr) (f : F3) (s : State) : Out :=
  qcells h s [f.a.toNat, f.b.toNat] 1 3 fun k x => (qlanes (qkm x f)).map fun l =>
    let i := 128 * f.a.toNat + l
    let a := 128 * f.b.toNat + l
    sumInto f i l (k.cell i).f32 [.zero false, (k.cellVal a).neg] (k.cellFlags [a])

/-- R228: the exact sum of the enabled cells into cell C, both landings at issue + 4. -/
def execQred (h : Hdr) (f : F3) (s : State) : Out :=
  qcells h s [f.a.toNat, f.b.toNat] 4 4 fun k x =>
    let l := f.c.toNat
    let i := 128 * f.a.toNat + l
    let as := (qlanes (qkm x f)).map (128 * f.b.toNat + ·)
    [sumInto f i l (k.cell i).f32 (as.map k.cellVal) (k.cellFlags as)]

/-- R226: data bits and tags. -/
def execQmov (h : Hdr) (f : F3) (s : State) : Out :=
  qcells h s [f.a.toNat, f.b.toNat] 1 3 fun k x => (qlanes (qkm x f)).map fun l =>
    let c := k.cell (128 * f.b.toNat + l)
    codeOut (128 * f.a.toNat + l) c.f32 c.q

/-- R227: SUB[4] is the mode, SUB[5] converts. DEDUCED: log entry 29. -/
def execQmode (h : Hdr) (f : F3) (s : State) : Out :=
  qcells h s [f.a.toNat] 1 3 fun k x => (qlanes (qkm x f)).filterMap fun l =>
    let i := 128 * f.a.toNat + l
    let c := k.cell i
    let m := f.sub.getLsbD 4
    if !f.sub.getLsbD 5 then some (codeOut i m 0)
    else if c.f32 = m then none
    else if m then some (f32Out i none [k.cellVal i] f.rnd.toNat f.s f.fo (l % 32) 0)
    else some (quireOut i 0 (k.cellVal i) c.snan)

/-- The rounding of a cell into an element (R64, R229). -/
def cellRound (k : Core) (f : F3) (i pos : Nat) : Rounding := ⟨f.fmt.toNat, k.cellVal i, f.rnd.toNat, f.s, f.fo, pos⟩

/-- R229: cells into elements 128q to 128q + 127. -/
def execQround (h : Hdr) (f : F3) (s : State) : Out :=
  syl h s fun k x => vframe x [] [f.a] h.t (fun _ => .need (!x.windowBusy f.b.toNat) .accBusy (.ok ())) fun y ls _ =>
    let w := fmtWidth f.fmt.toNat
    let q := f.d.toNat % 4
    let km := qkm x f
    let m := (List.range 128).foldl (fun a l => if zOf f || km.getLsbD l then a ||| ones w <<< (w * (128 * q + l)) else a) 0
    y.send h (latency y 6 8) (ls.headD .p) m
      (.rnd w ((qlanes km).map fun l => (128 * q + l, cellRound k f (128 * f.b.toNat + l) ((128 * q + l) % 32)))
        (k.cellFlags ((qlanes km).map (128 * f.b.toNat + ·))))

/-- R230: one cell into one element. -/
def execQrounds (h : Hdr) (f : F3) (s : State) : Out :=
  syl h s fun k x => vframe x [] [f.a] h.t (fun _ => .need (!x.windowBusy f.b.toNat) .accBusy (.ok ())) fun y ls _ =>
    let w := fmtWidth f.fmt.toNat
    let e := f.d.toNat
    y.send h (latency y 6 8) (ls.headD .p) (ones w <<< (w * e))
      (.rnd w [(e, cellRound k f (128 * f.b.toNat + f.c.toNat) (e % 32))] (k.cellFlags [128 * f.b.toNat + f.c.toNat]))

/-- Table 8.4. -/
def qtst (cond : Nat) (c : Cell) : Bool :=
  let v := cellV c.f32 c.q
  match cond with
  | 0 => v.bad
  | 1 => v.isZero
  | 2 => !v.bad && !v.isZero && v.sign
  | 3 => !v.bad && !v.isZero && !v.sign
  | _ => c.f32

/-- R231. -/
def execQtst (h : Hdr) (f : F3) (s : State) : Out :=
  syl h s fun k x => .need (!x.windowBusy f.b.toNat) .accBusy
    (let km := qkm x f
     let v := (qlanes km).foldl (fun a l => if qtst (f.d.toNat % 8) (k.cell (128 * f.b.toNat + l)) then a + 2 ^ l else a) 0
     .ok (x.putK h 2 f.a.toNat (if zOf f then ones 128 else km.toNat) v))

/-- R232: the address of a spill or fill, and its size. -/
def spillEa (x : Ctx) (f : FM) : Nat := effAddr (BitVec.ofNat 64 (x.laneAddr f.b 0)) f.off
def spillSize (f : FM) : Nat := if f.sz = 0 then 16384 else 512

/-- R221: the window is not busy. -/
def checkWindow {α : Type} (x : Ctx) (f : FM) (k : Act α) : Act α := .need (!x.windowBusy f.a.toNat) .accBusy k

/-- R232: ACC_BUSY, alignment to 128 or 64, bounds. -/
def checkSpill {α : Type} (x y : Ctx) (f : FM) (k : Act α) : Act α :=
  checkWindow x f
    (.need (spillEa y f % (if f.sz = 0 then 128 else 64) == 0) .misalign (.need (inSpad (spillEa y f) (spillSize f)) .bounds k))

/-- R233: 128 cells from a quire image (SZ 0) or an F32 image, landing at issue + 32. -/
def execQld (h : Hdr) (f : FM) (s : State) : Out :=
  syl h s fun k x => vframe x [f.b] [] false
    (fun y => checkSpill x y f (.ok (y.load k.mem (spillEa y f) (spillSize f), spillEa y f)))
    (fun y _ (bs, ea) =>
      let per := if f.sz = 0 then 128 else 4
      (y.putCells h 32 32 ((List.range 128).map fun l =>
        codeOut (128 * f.a.toNat + l) (f.sz != 0) (BitVec.ofNat 1024 (ofBytes ((bs.drop (per * l)).take per))))).tick ea (spillSize f))
    (checkWindow x f (.ok ())) [f.b]

/-- R233: a cell as its quire code: an F32 cell's exact value, NaN and infinities as quire NaR. -/
def quireCode (c : Cell) : Quire := if c.f32 then (quireAdd 0 (cellV true c.q)).1 else c.q

/-- R233: the cells of a full reader, visible to loads at issue + 32. -/
def execQst (h : Hdr) (f : FM) (s : State) : Out :=
  syl h s fun k x => vframe x [f.b] [] false (fun y => checkSpill x y f (.ok (spillEa y f)))
    (fun y _ ea =>
      let per := if f.sz = 0 then 128 else 4
      y.store h 32 ((List.range 128).flatMap fun l =>
        let c := k.cell (128 * f.a.toNat + l)
        let v := if f.sz = 0 then (quireCode c).toNat else c.q.toNat % 2 ^ 32
        (bytesOf v per).zipIdx.map fun (b, i) => (ea + per * l + i, b)))
    (checkWindow x f (.ok ())) [f.b]

end Sys2Proof.Machine
end

