-- ==== Sys2Proof/Machine/Reshape.lean ====
section
/-!
DEFINITION. The X-slot and T-slot instructions (R237 to R254) and the landing of transposer changes (R253).
-/

namespace Sys2Proof.Machine

/-- An X-slot latency: L, or 4 in a bundle with L3 = 1 (R40). -/
def xlat (y : Ctx) (l : Nat) : Nat := latency y l 4

/-- The bit mask of elements `es` of width `w`. -/
def elemsMask (w : Nat) (es : List Nat) : Nat := es.foldl (fun m e => m ||| ones w <<< (w * e)) 0

/-- A format name's element count in a register. -/
def log2n (w : Nat) : Nat := Nat.log2 (4096 / w)

/-! ### Conversion and scaling (R240, R241) -/

/-- R240: narrowing writes slice P of the destination; widening reads slice P of the source. -/
def execXcvt (h : Hdr) (f : F3) (s : State) : Out :=
  syl h s fun _ x => vframe x [f.b] [f.a] h.t (fun y => .ok (y.rvec f.b)) fun y ls va =>
    let dst := f.fmt.toNat
    let src := f.d.toNat
    let wd := fmtWidth dst
    let ws := fmtWidth src
    let p := f.sub.toNat / 16
    let km := x.rk (f.sub.toNat % 16)
    let as := vElems ws va
    let base := if wd ≤ ws then p * (4096 / ws) else 0
    let ins := if wd ≤ ws then as else (as.drop (p * (4096 / wd))).take (4096 / wd)
    let es := (ins.zipIdx.map fun e => (base + e.2, e.1)).filter fun e => km.getLsbD (wd * e.1 / 32)
    let rs := es.map fun e => (e.1, convert src dst f.rnd.toNat f.s f.fi f.fo (e.1 % 32) e.2)
    y.send h (xlat y 3) (ls.headD .p) (elemsMask wd (es.map Prod.fst))
      (.rnd wd (rs.map fun r => (r.1, r.2.1)) (rs.foldl (fun fl r => fl ||| r.2.2) 0))

/-- R241: each element times the scale of its block of 32. -/
def execXscl (h : Hdr) (f : F3) (s : State) : Out :=
  vRounds h s f 3 4 (fmtWidth f.fmt.toNat) [f.b, f.c] fun x =>
    let fmt := f.fmt.toNat
    let sb := vElems 8 (x.rvec f.c)
    (vElems (fmtWidth fmt) (x.rvec f.b)).zipIdx.map fun (a, e) =>
      let (v, fl) := mulV (decodeF f.fi fmt a) (decodeV f.d.toNat (sb.getD (e / 32) 0))
      (⟨fmt, v, f.rnd.toNat, f.s, f.fo, e % 32⟩, fl ||| snanFlag fmt a)

/-! ### Block packing (R242 to R244) -/

/-- top(t) of Table 9.3. -/
def packTop (t : Nat) : Nat := [7, 6, 8, 3].getD t 1

/-- The smallest E5M3 code whose value times top(t) reaches `amax`, or 0xFE (R243, step 2). -/
def packScale (t : Nat) (amax : XV) : Nat :=
  if amax.isZero then 0
  else ((List.range 255).find? fun c =>
    decide (0 ≤ cmpV (mulV (decodeV 13 c) (.ofInt (packTop t))).1 amax)).getD 0xFE

/-- The exact distance of two finite values. -/
def distV (x y : XV) : XV := (sumV false [x, y.neg]).1.abs

/-- The code nearest to x/s (R243, step 3). -/
def packCode (t scale : Nat) (x : XV) : Nat :=
  let val (c : Nat) : XV := (mulV (b4Magnitude t c) (decodeV 13 scale)).1
  let better (a b : Nat) : Bool :=
    let d := cmpV (distV x (val a)) (distV x (val b))
    decide (d < 0) || (decide (d = 0) && a % 2 == 0 && b % 2 == 1)
  let best := (range 1 16).foldl (fun b c => if better c b then c else b) 0
  if x.isZero || (b4Magnitude t best).isZero then (if t ≠ 0 ∧ x.sign then 8 else 0) else best

/-- A block under one type: its header, its codes and the exact error. -/
def packAs (t : Nat) (xs : List XV) (amax : XV) : Nat × List Nat × XV :=
  let sc := packScale t amax
  let hd := sc + 256 * t
  let cs := xs.map (packCode t sc)
  (hd, cs, (sumV false (List.zipWith (fun c x => distV (blockValue hd c) x) cs xs)).1)

/-- R242, R243: one block: header, codes and flags. -/
def packBlock (type : Nat) (xs : List XV) : Nat × List Nat × Flags :=
  if xs.any fun v => match v with
    | .fin .. => false
    | _ => true
  then (0x00FF, List.replicate 32 0, fIV)
  else
    let amax := xs.foldl (fun m v => if 0 < cmpV v.abs m then v.abs else m) (.zero false)
    let r := if type < 4 then packAs type xs amax
      else (range 1 4).foldl (fun b t => let c := packAs t xs amax; if cmpV c.2.2 b.2.2 < 0 then c else b) (packAs 0 xs amax)
    (r.1, r.2.1, if r.2.2.isZero then 0 else fNX)

/-- R242: codes to vd, headers to vh. DEDUCED: log entry 30. -/
def execXpack (h : Hdr) (f : F3) (s : State) : Out :=
  syl h s fun _ x => vframe x [f.b] [f.a, f.d] h.t (fun y => .ok (y.rvec f.b)) fun y ls va =>
    let fmt := f.fmt.toNat
    let w := fmtWidth fmt
    let nb := 128 / w
    let p := f.sub.toNat / 8
    let bs := (chunks 32 nb (vElems w va)).map fun b => packBlock (f.sub.toNat % 8) (b.map (decodeF f.fi fmt))
    let q := p * nb
    let y := y.send h (xlat y 4) (ls.headD .p) (elemsMask 128 (range q (q + nb)))
      (.now (ofElems 128 (bs.map fun b => ofElems 4 b.2.1) <<< (128 * q)) (bs.foldl (fun fl b => fl ||| b.2.2) 0))
    y.send h (xlat y 4) (ls.getD 1 .p) (elemsMask 16 (range q (q + nb))) (.now (ofElems 16 (bs.map Prod.fst) <<< (16 * q)) 0)

/-- R244. -/
def execXunp (h : Hdr) (f : F3) (s : State) : Out :=
  syl h s fun _ x => vframe x [f.b, f.c] [f.a] h.t (fun y => .ok (vElems 4 (y.rvec f.b), vElems 16 (y.rvec f.c))) fun y ls (cs, hs) =>
    let fmt := f.fmt.toNat
    let w := fmtWidth fmt
    let n := 4096 / w
    let base := f.sub.toNat * n
    y.send h (xlat y 3) (ls.headD .p) (ones 4096)
      (.rnd w ((List.range n).map fun i =>
        (i, ⟨fmt, blockValue (hs.getD ((base + i) / 32) 0) (cs.getD (base + i) 0), f.rnd.toNat, f.s, f.fo, i % 32⟩)) 0)

/-! ### Permutations (R245 to R247) -/

/-- A permutation: element `i` of the result from the elements of va and of vb; none gives zero bits. -/
def permute (h : Hdr) (f : F3) (s : State) (reads : List (BitVec 7))
    (src : Ctx → (n w : Nat) → List Nat → List Nat → Nat → Option Nat) : Out :=
  syl h s fun _ x => vframe x reads [f.a] h.t (fun y => .ok (y.rvec f.b, y.rvec f.c)) fun y ls (va, vb) =>
    let w := fmtWidth f.fmt.toNat
    let n := 4096 / w
    let as := vElems w va
    let bs := vElems w vb
    y.send h (xlat y 3) (ls.headD .p) (ones 4096)
      (.now (ofElems w ((List.range n).map fun i => (src y n w as bs i).getD 0)) 0)

/-- K of Table 9.2. -/
def kOf (f : F3) : Nat := f.sub.toNat / 16 * 128 + f.d.toNat

/-- g = 2^G. -/
def gOf (f : F3) : Nat := 2 ^ (f.sub.toNat % 16)

/-- H of XZIP and XUNZ. -/
def hOf (f : F3) : Nat := f.sub.toNat / 16 % 2

/-- Element `j` of va followed by vb. -/
def cat (n : Nat) (as bs : List Nat) (j : Nat) : Option Nat := if j < n then as[j]? else bs[j - n]?

def execXshuf (h : Hdr) (f : F3) (s : State) : Out :=
  permute h f s [f.b, f.c] fun _ _ _ as bs i => as[bs.getD i 0]?

/-- R246: the source element of `i` under a shape's EXT, STR and BASE. -/
def shapeSrc (v : View) (n i : Nat) : Option Nat :=
  if (v.ext.take v.rank).foldl (· * ·) 1 ≤ i then none
  else
    let o := { v with sb := sext 32 v.base }.offset i
    if o < 0 ∨ (n : Int) ≤ o then none else some o.toNat

/-- R246: the shape form, through shxN. -/
def execXshufShape (h : Hdr) (f : F3) (s : State) : Out :=
  match s.ctx s.cur with
  | none => .fault .noContext
  | some x0 =>
    let v := x0.view (8 + f.d.toNat % 4) 0
    syl h s fun _ x => vframe x [f.b] [f.a] h.t
      (fun y => .need (decide (1 ≤ v.rank ∧ v.rank ≤ 6)) .shapeField (.ok (y.rvec f.b))) fun y ls va =>
        let w := fmtWidth f.fmt.toNat
        let n := 4096 / w
        let as := vElems w va
        y.send h (xlat y 3) (ls.headD .p) (ones 4096)
          (.now (ofElems w ((List.range n).map fun i => ((shapeSrc v n i).bind fun j => as[j]?).getD 0)) 0)

def execXrev (h : Hdr) (f : F3) (s : State) : Out := permute h f s [f.b] fun _ _ _ as _ i => as[i ^^^ (gOf f - 1)]?
def execXrot (h : Hdr) (f : F3) (s : State) : Out := permute h f s [f.b] fun _ n _ as _ i => as[(i + kOf f) % n]?
def execXmrg (h : Hdr) (f : F3) (s : State) : Out := permute h f s [f.b, f.c] fun _ n _ as bs i => cat n as bs (i + kOf f)

def execXzip (h : Hdr) (f : F3) (s : State) : Out :=
  permute h f s [f.b, f.c] fun _ n _ as bs i =>
    let g := gOf f
    let j := i + hOf f * n
    cat n as bs (n * (j / g % 2) + g * (j / (2 * g)) + j % g)

def execXunz (h : Hdr) (f : F3) (s : State) : Out :=
  permute h f s [f.b, f.c] fun _ n _ as bs i =>
    let g := gOf f
    cat n as bs (2 * g * (i / g) + hOf f * g + i % g)

def execXbc (h : Hdr) (f : F3) (s : State) : Out :=
  permute h f s [f.b] fun _ _ _ as _ i => as[kOf f * gOf f + i % gOf f]?

/-- The lane bit of element `i`. -/
def laneOn (km : KMask) (w i : Nat) : Bool := km.getLsbD (w * i / 32)

def execXcpr (h : Hdr) (f : F3) (s : State) : Out :=
  permute h f s [f.b] fun y n w as _ i =>
    let km := y.rk (f.sub.toNat % 16)
    (((List.range n).filter (laneOn km w))[i]?).bind fun j => as[j]?

def execXexp (h : Hdr) (f : F3) (s : State) : Out :=
  permute h f s [f.b] fun y _ w as _ i =>
    let km := y.rk (f.sub.toNat % 16)
    if laneOn km w i then as[((List.range i).filter (laneOn km w)).length]? else none

/-- R247: components moved by the map in lane 0 of vb, and negated as R213 negates. DEDUCED: log entry 27. -/
def execXswz (h : Hdr) (f : F3) (s : State) : Out :=
  syl h s fun _ x => vframe x [f.b, f.c] [f.a] h.t (fun y => .ok (y.rvec f.b, y.rvec f.c)) fun y ls (va, vb) =>
    let fmt := f.fmt.toNat
    let w := fmtWidth fmt
    let d := 2 ^ (f.d.toNat % 4)
    let map := vb.toNat % 2 ^ 32
    let as := vElems w va
    let rs := (List.range (4096 / w)).map fun i =>
      let nib := map / 16 ^ (i % d) % 16
      let a := as.getD (i / d * d + nib % 8 % d) 0
      if 8 ≤ nib then negCode f.fi fmt a else (a, 0)
    y.send h (xlat y 3) (ls.headD .p) (ones 4096)
      (.now (ofElems w (rs.map Prod.fst)) (rs.foldl (fun fl r => fl ||| r.2) 0))

/-! ### Sparsity selection and the dither phase (R248, R249) -/

/-- True where magnitude `a` ranks above `b`; NaN and NaR above every number. -/
def outranks (a b : XV) : Bool :=
  if b.bad then false else if a.bad then true else decide (0 < cmpV a.abs b.abs)

/-- The first index of largest magnitude among the listed ones. -/
def largest (g : List XV) : List Nat → Nat
  | [] => 0
  | i :: is => is.foldl (fun b j => if outranks (g.getD j .nan) (g.getD b .nan) then j else b) i

/-- R248: the two kept indices of a group of four, ascending. -/
def keepTwo (g : List XV) : Nat × Nat :=
  let j0 := largest g [0, 1, 2, 3]
  let j1 := largest g ([0, 1, 2, 3].filter (· != j0))
  (min j0 j1, max j0 j1)

def execXsps (h : Hdr) (f : F3) (s : State) : Out :=
  syl h s fun _ x => vframe x [f.b] [f.a, f.d] h.t (fun y => .ok (y.rvec f.b)) fun y ls va =>
    let fmt := f.fmt.toNat
    let w := fmtWidth fmt
    let n := 4096 / w
    let p := f.sub.toNat / 16 % 2
    let ks := (chunks 4 (n / 4) (vElems w va)).map fun g => (g, keepTwo (g.map (decodeV fmt)))
    let vals := ks.flatMap fun (g, i, j) => [g.getD i 0, g.getD j 0]
    let idx := ks.flatMap fun (_, i, j) => [i, j]
    let y := y.send h (xlat y 4) (ls.headD .p) (ones 2048 <<< (2048 * p)) (.now (ofElems w vals <<< (2048 * p)) 0)
    y.send h (xlat y 4) (ls.getD 1 .p) (ones n <<< (n * p)) (.now (ofElems 2 idx <<< (n * p)) 0)

/-- R249: DPH at issue + 3. DEDUCED: log entry 25. -/
def execXdth (h : Hdr) (f : F3) (s : State) : Out :=
  syl h s fun _ x => .ok (x.send h (xlat x 3) .dph (ones 5) (.now (f.sub.toNat % 32) 0))

/-! ### The transposer (R250 to R254) -/

/-- A buffer's configuration. -/
def Ctx.tcfg (x : Ctx) (n : Nat) : TCfg := if n = 0 then x.tcfg0 else x.tcfg1

/-- R252: exchanges the register on W; for sht, sets the buffer's configuration. -/
def execTrcfg (h : Hdr) (f : F3) (s : State) : Out :=
  syl h s fun _ x =>
    let a := f.a.toNat
    let x := x.exchangeIf f.w (if a < 4 then 12 + a else 4 + a)
    if a < 4 then
      let v := x.view (12 + a) 0
      let r := v.ext.getD 0 0
      let c := v.ext.getD 1 0
      .need (v.fmt != 5 && decide (1 ≤ r ∧ r ≤ 32 ∧ 1 ≤ c ∧ c ≤ 32)) .shapeField
        (.ok (if f.d.toNat % 2 = 0 then { x with tcfg0 := ⟨v.fmt, r, c⟩ } else { x with tcfg1 := ⟨v.fmt, r, c⟩ }))
    else .ok x

/-- R252, R253: rows change eight bundles on. -/
def execTrw (h : Hdr) (f : F3) (s : State) : Out :=
  syl h s fun _ x => vframe x [f.b] [] false (fun y => .ok (y.rvec f.b)) fun y _ va =>
    let b := f.a.toNat
    let w := fmtWidth (y.tcfg b).fmt
    let r0 := (128 / w) * (f.d.toNat % 32 / (128 / w))
    let km := y.rk (f.sub.toNat % 16)
    let es := ((vElems w va).zipIdx.filter fun e => laneOn km w e.2).map fun (a, i) => (32 * r0 + i, a)
    { y with tchg := y.tchg ++ [⟨y.bn + 8, y.bn, b, false, w, es⟩] }

/-- R252: every element of the buffer to zero, eight bundles on. -/
def execTrclr (h : Hdr) (f : F3) (s : State) : Out :=
  syl h s fun _ x => .ok { x with tchg := x.tchg ++ [⟨x.bn + 8, x.bn, f.a.toNat, true, 8, []⟩] }

/-- An element of a buffer under width `w` (R250). -/
def tElem (x : Ctx) (b w i : Nat) : Nat := ofBytes (SMap.read x.tbuf (4096 * b + i * w / 8) (w / 8))

/-- R252: columns into a register; Table 1.10 does not list the T slot, so L3 leaves its latency as it is. -/
def execTrc (h : Hdr) (f : F3) (s : State) : Out :=
  syl h s fun _ x => vframe x [] [f.b] h.t (fun _ => .ok ()) fun y ls _ =>
    let b := f.a.toNat
    let c := y.tcfg b
    let w := fmtWidth c.fmt
    let c0 := (128 / w) * (f.d.toNat % 32 / (128 / w))
    y.send h 3 (ls.headD .p) (ones 4096)
      (.now (ofElems w ((List.range (4096 / w)).map fun i =>
        let r := i % 32
        let k := c0 + i / 32
        if r < c.rows ∧ k < c.cols then tElem y b w (32 * r + k) else 0)) 0)

/-- R252: the configuration and PEND in lane 0. -/
def execTrst (h : Hdr) (f : F3) (s : State) : Out :=
  syl h s fun _ x => vframe x [] [f.b] h.t (fun _ => .ok ()) fun y ls _ =>
    let b := f.a.toNat
    let c := y.tcfg b
    let pend := y.tchg.any fun t => t.buf == b
    y.send h 2 (ls.headD .p) (ones 32) (.now (c.fmt + 32 * c.rows + 2048 * c.cols + 2 ^ 17 * b2n pend) 0)

/-- One transposer change reaches its buffer (R253). -/
def TChange.apply (t : TChange) (x : Ctx) : Ctx :=
  if t.clear then { x with tbuf := SMap.erase (fun a => a / 4096 == t.buf) x.tbuf }
  else { x with tbuf := t.es.foldl (fun m (i, a) => SMap.write m (4096 * t.buf + i * t.w / 8) (bytesOf a (t.w / 8))) x.tbuf }

/-- The next transposer change that is due lands. -/
def landTransposer (x : Ctx) : Ctx :=
  match x.tchg.find? fun t => decide (t.due ≤ x.bn) with
  | some t => { t.apply x with tchg := dropOne t x.tchg }
  | none => x

/-- TRANSPOSER_CHANGE_LANDS on core `c` (R253). -/
def execTransposerChangeLands (c : Nat) (s : State) : Out := .next (s.onCtx c landTransposer)

end Sys2Proof.Machine
end

