-- ==== Sys2Proof/Machine/Scalar.lean ====
section
/-!
DEFINITION. The S-slot instructions (R165 to R184).
-/

namespace Sys2Proof.Machine

/-- A three-register integer operation of latency `l` (R169). -/
def alu (h : Hdr) (f : F3) (s : State) (l : Nat) (op : Word → Word → Word) : Out :=
  syl h s fun _ x => .ok (x.putS h l f.a (op (x.rs f.b) (x.rs f.c)))

/-- An operation with a 34-bit immediate, latency 1 (R169). -/
def aluI (h : Hdr) (f : FI) (s : State) (op : Word → Word → Word) : Out :=
  syl h s fun _ x => .ok (x.putS h 1 f.a (op (x.rs f.b) (immW f.imm)))

/-- The shift distance: bits 5:0 (R169). -/
def sh6 (b : Word) : Nat := b.toNat % 64

def execAdd (h : Hdr) (f : F3) (s : State) : Out := alu h f s 1 (· + ·)
def execSub (h : Hdr) (f : F3) (s : State) : Out := alu h f s 1 (· - ·)
def execAddi (h : Hdr) (f : FI) (s : State) : Out := aluI h f s (· + ·)
def execAnd (h : Hdr) (f : F3) (s : State) : Out := alu h f s 1 (· &&& ·)
def execOr (h : Hdr) (f : F3) (s : State) : Out := alu h f s 1 (· ||| ·)
def execXor (h : Hdr) (f : F3) (s : State) : Out := alu h f s 1 (· ^^^ ·)
def execAndi (h : Hdr) (f : FI) (s : State) : Out := aluI h f s (· &&& ·)
def execOri (h : Hdr) (f : FI) (s : State) : Out := aluI h f s (· ||| ·)
def execXori (h : Hdr) (f : FI) (s : State) : Out := aluI h f s (· ^^^ ·)
def execSll (h : Hdr) (f : F3) (s : State) : Out := alu h f s 1 fun a b => a <<< sh6 b
def execSrl (h : Hdr) (f : F3) (s : State) : Out := alu h f s 1 fun a b => a >>> sh6 b
def execSra (h : Hdr) (f : F3) (s : State) : Out := alu h f s 1 fun a b => a.sshiftRight (sh6 b)
def execSlli (h : Hdr) (f : FI) (s : State) : Out := aluI h f s fun a b => a <<< sh6 b
def execSrli (h : Hdr) (f : FI) (s : State) : Out := aluI h f s fun a b => a >>> sh6 b
def execSrai (h : Hdr) (f : FI) (s : State) : Out := aluI h f s fun a b => a.sshiftRight (sh6 b)
def execMul (h : Hdr) (f : F3) (s : State) : Out := alu h f s 3 (· * ·)
def execMulh (h : Hdr) (f : F3) (s : State) : Out := alu h f s 3 mulHS
def execMulhu (h : Hdr) (f : F3) (s : State) : Out := alu h f s 3 mulHU
def execDiv (h : Hdr) (f : F3) (s : State) : Out := alu h f s 14 divS
def execDivu (h : Hdr) (f : F3) (s : State) : Out := alu h f s 14 divU
def execRem (h : Hdr) (f : F3) (s : State) : Out := alu h f s 14 remS
def execRemu (h : Hdr) (f : F3) (s : State) : Out := alu h f s 14 remU
def execMin (h : Hdr) (f : F3) (s : State) : Out := alu h f s 1 fun a b => if b.slt a then b else a
def execMax (h : Hdr) (f : F3) (s : State) : Out := alu h f s 1 fun a b => if a.slt b then b else a
def execMinu (h : Hdr) (f : F3) (s : State) : Out := alu h f s 1 fun a b => if b.ult a then b else a
def execMaxu (h : Hdr) (f : F3) (s : State) : Out := alu h f s 1 fun a b => if a.ult b then b else a
def execClz (h : Hdr) (f : F3) (s : State) : Out := alu h f s 1 fun a _ => BitVec.ofNat 64 (clz a)
def execPopc (h : Hdr) (f : F3) (s : State) : Out := alu h f s 1 fun a _ => BitVec.ofNat 64 (popCount a.toNat 64)

/-- R171: the 34-bit immediate, sign-extended. -/
def execLi (h : Hdr) (f : FI) (s : State) : Out := aluI h f s fun _ i => i

/-- R171: imm[29:0] above the low 34 bits of sa. -/
def execLih (h : Hdr) (f : FI) (s : State) : Out :=
  aluI h f s fun a i => (i <<< 34) ||| (a &&& BitVec.ofNat 64 (2 ^ 34 - 1))

def execAddsc (h : Hdr) (f : F3) (s : State) : Out := alu h f s 1 fun a b => a + (b <<< f.sub.toNat)

/-- R172: the condition of SUB on two registers. -/
def execCmp (h : Hdr) (f : F3) (s : State) : Out :=
  syl h s fun _ x => .ok (x.putP h 1 f.a (intCond f.sub.toNat 64 (x.rs f.b).toNat (x.rs f.c).toNat))

/-- R172: the condition of bits 33:30 on a register and the signed immediate of bits 29:0. -/
def execCmpi (h : Hdr) (f : FI) (s : State) : Out :=
  syl h s fun _ x => .ok (x.putP h 1 f.a
    (intCond (f.imm.toNat >>> 30) 64 (x.rs f.b).toNat ((f.imm.setWidth 30).signExtend 64).toNat))

/-- R173: SUB[0] inverts the predicate D. -/
def execSel (h : Hdr) (f : F3) (s : State) : Out :=
  syl h s fun _ x => .ok (x.putS h 1 f.a (if x.rp f.d != f.sub.getLsbD 0 then x.rs f.b else x.rs f.c))

/-- R174. -/
def execXmv (h : Hdr) (f : F3) (s : State) : Out := alu h f s 2 fun a _ => a

/-- The bytes of an SZ code (Table 6.4). -/
def szBytes (sz : Nat) : Nat := 2 ^ (sz / 2)

/-- R176: alignment, then bounds, of a slot access of `n` bytes. -/
def checkEa {α : Type} (ea n : Nat) (k : Act α) : Act α :=
  .need (ea % n == 0) .misalign (.need (inSpad ea n) .bounds k)

/-- The loaded value: sign-extended for even SZ codes (Table 6.4). -/
def loaded (sz : Nat) (bs : List Byte) : Word :=
  if sz % 2 = 0 then BitVec.ofInt 64 (sext (8 * szBytes sz) (ofBytes bs)) else BitVec.ofNat 64 (ofBytes bs)

/-- R175 to R177: the bytes as a load issuing now sees them, at L = 5, or 6 under L3 (R40). -/
def execLd (h : Hdr) (f : FM) (s : State) : Out :=
  syl h s fun k x =>
    let n := szBytes f.sz.toNat
    let ea := effAddr (x.rs f.b) f.off
    checkEa ea n (.ok ((x.putS h (if x.l3 then 6 else 5) f.a (loaded f.sz.toNat (x.load k.mem ea n))).tick ea n))

/-- R175 to R177: the low bytes of sv, visible to loads two bundles on. -/
def execSt (h : Hdr) (f : FM) (s : State) : Out :=
  syl h s fun _ x =>
    let n := szBytes f.sz.toNat
    let ea := effAddr (x.rs f.b) f.off
    let bs := bytesOf (x.rs f.a).toNat n
    checkEa ea n (.ok (x.store h 2 ((List.range n).map fun i => (ea + i, bs.getD i 0))))

/-- One FP32 operation with one rounding, at pos 0 (R178). -/
def fp32 (op : FpOp) (l : Nat) (h : Hdr) (f : F3) (s : State) : Out :=
  syl h s fun _ x =>
    let (r, fl) := fpRound op 0 f.rnd.toNat f.s f.fi f.fo 0
      ((x.rs f.b).toNat % 2 ^ 32) ((x.rs f.c).toNat % 2 ^ 32) ((x.rs f.d).toNat % 2 ^ 32)
    .ok (x.sendS h l f.a (.rnd 32 [(0, r)] fl))

def execFadd (h : Hdr) (f : F3) (s : State) : Out := fp32 .add 4 h f s
def execFsub (h : Hdr) (f : F3) (s : State) : Out := fp32 .sub 4 h f s
def execFmul (h : Hdr) (f : F3) (s : State) : Out := fp32 .mul 4 h f s
def execFfma (h : Hdr) (f : F3) (s : State) : Out := fp32 .fma 4 h f s
def execFdiv (h : Hdr) (f : F3) (s : State) : Out := fp32 .div 14 h f s
def execFsqrt (h : Hdr) (f : F3) (s : State) : Out := fp32 .sqrt 14 h f s

/-- FMIN and FMAX (R179). -/
def fp32MinMax (mx : Bool) (h : Hdr) (f : F3) (s : State) : Out :=
  syl h s fun _ x =>
    let (v, fl) := fpMinMax mx f.fi 0 ((x.rs f.b).toNat % 2 ^ 32) ((x.rs f.c).toNat % 2 ^ 32)
    .ok (x.sendS h 2 f.a (.now v fl))

def execFmin (h : Hdr) (f : F3) (s : State) : Out := fp32MinMax false h f s
def execFmax (h : Hdr) (f : F3) (s : State) : Out := fp32MinMax true h f s

/-- R180. -/
def execFcmp (h : Hdr) (f : F3) (s : State) : Out :=
  syl h s fun _ x =>
    let a := (x.rs f.b).toNat % 2 ^ 32
    let b := (x.rs f.c).toNat % 2 ^ 32
    .ok (x.putP h 2 f.a (floatCond f.sub.toNat (decodeF f.fi 0 a) (decodeF f.fi 0 b)) (snanFlag 0 a ||| snanFlag 0 b))

/-- R181: D[4:0] names the source format, FMT the destination. -/
def execFcvt (h : Hdr) (f : F3) (s : State) : Out :=
  syl h s fun _ x =>
    let dst := f.fmt.toNat
    let (r, fl) := convert f.d.toNat dst f.rnd.toNat f.s f.fi f.fo 0 ((x.rs f.b).toNat % 2 ^ fmtWidth f.d.toNat)
    .ok (x.sendS h 3 f.a (if dst = 6 ∨ dst = 7 ∨ dst = 8 then .sx r fl else .rnd (fmtWidth dst) [(0, r)] fl))

/-- R183: the bits an SHW value may set, field by field (Table 6.6), and an assigned format code in CTL.FMT. -/
def shapeValueOk (fld v : Nat) : Bool :=
  match fld with
  | 0 => decide (v < 2 ^ 56)
  | 1 => decide (v < 2 ^ 18) && (fmtOf (bits v 5 1)).isSome
  | 2 => decide (v < 2 ^ 56)
  | 3 => true
  | _ => if fld < 10 then decide (v < 2 ^ 32) else bits v 63 48 == (if v.testBit 47 then 0xFFFF else 0)

/-- R184: the shadow field changes at L = 1. -/
def execShw (h : Hdr) (f : F3) (s : State) : Out :=
  syl h s fun _ x =>
    let v := (x.rs f.b).toNat
    .need (shapeValueOk f.sub.toNat v) .shapeField
      (.ok (x.send h 1 (.shape f.a.toNat (f.sub.toNat % 16)) (ones 64) (.now v 0)))

/-- R184: a field of the shadow copy, or with SUB[5] of the active copy, at L = 2. -/
def execShrd (h : Hdr) (f : F3) (s : State) : Out :=
  syl h s fun _ x =>
    let fld := f.sub.toNat % 16
    .ok (x.putS h 2 f.a (if f.sub.getLsbD 5 then x.shapeField f.c.toNat fld else x.shadowField f.c.toNat fld))

end Sys2Proof.Machine
end

