-- ==== Sys2Proof/Machine/Trace.lean ====
section
/-!
DEFINITION. TSR and TRIG (R458, R459), the trace unit of a core (R460 to R463), module time (R457) and the clearing of black boxes (R464).
-/

namespace Sys2Proof.Machine

/-! ### Records -/

namespace Trace

/-- TCTL.EN. -/
def on (t : Trace) : Bool := bit t.ctl 0

/-- A record's 16 bytes (Table 19.2). -/
def bytes (time kind aux pc data : Nat) : List Byte :=
  bytesOf time 6 ++ bytesOf kind 1 ++ bytesOf aux 1 ++ bytesOf pc 4 ++ bytesOf data 4

/-- R461: a record enters the input queue, or is dropped. -/
def enter (t : Trace) (time kind aux pc data : Nat) : Trace :=
  if !t.on || t.frozen then t
  else if 16 ≤ t.queue.length then { t with lost := min (t.lost + 1) 65535, drop := true }
  else { t with queue := t.queue ++ [bytes time kind (aux + if t.drop then 128 else 0) pc data], drop := false }

/-- A record of a kind that bit `n` of TCTL selects. DEDUCED: log entry 81. DEDUCED: log entry 82. -/
def note (t : Trace) (n time kind aux pc data : Nat) : Trace := if bit t.ctl n then t.enter time kind aux pc data else t

/-- TCTL.POST. -/
def postCount (t : Trace) : Nat := bits t.ctl 27 16

/-- TRIGGER_FIRE: source `src` fires an armed trigger (R462). A trigger record that finds the queue full counts as written. DEDUCED: log entry 81. -/
def fire (t : Trace) (time src pc : Nat) : Trace :=
  if t.on && t.armed && bit t.ctl (8 + src) then
    { t.enter time 8 0 pc src with armed := false, fired := true, left := if 16 ≤ t.queue.length then some t.postCount else none }
  else t

/-- The POST records have been written and the unit is to freeze (R462). -/
def done (t : Trace) : Bool := t.fired && !t.frozen && t.left == some 0

/-- One record moves from the queue to the buffer (R460). -/
def drainOne (t : Trace) : Trace :=
  match t.queue with
  | [] => t
  | r :: rest =>
    if t.done then t
    else
      let n := (t.wr + 1) % 4096
      { t with queue := rest, buf := SMap.write t.buf (16 * t.wr) r, wr := n, wrapped := t.wrapped || n == 0
               left := if t.fired && (r.getD 6 0 == 8) then some t.postCount else t.left.map (· - 1) }

/-- R461: up to four records in a cycle. -/
def drain (t : Trace) : Trace := t.drainOne.drainOne.drainOne.drainOne

/-- TRACE_FREEZE (R462). -/
def freeze (t : Trace) : Trace := if t.done then { t with frozen := true, queue := [] } else t

/-- TRACE_ARM (R462). -/
def arm (t : Trace) : Trace := { t with armed := true, fired := false, frozen := false, left := none }

/-- TRACE_CLR (R463); a frozen unit writes again, and a freeze that is still to come comes after the records that are left (R462). -/
def clear (t : Trace) : Trace := { t with wr := 0, wrapped := false, lost := 0, frozen := false, left := if t.frozen then none else t.left }

end Trace

/-- Changes the trace unit of core `c`. -/
def State.onTrace (s : State) (c : Nat) (f : Trace → Trace) : State :=
  s.setCore c { s.core c with trace := f (s.core c).trace }

/-! ### TSR and TRIG -/

/-- R458: of the acquires, those of earlier cycles count. -/
def execTsr (h : Hdr) (f : F3) (s : State) : Out :=
  syl h s fun _ x => .ok (x.putS h 2 f.a (BitVec.ofNat 64 (max s.mtime x.ctl.floorNow)))

/-- R459. -/
def execTrig (h : Hdr) (f : F3) (s : State) : Out :=
  sylS h s fun _ x =>
    let n := f.d.toNat
    .ok (s.onTrace s.cur fun t =>
      let t := t.note 6 (s.mtime % 2 ^ 48) 7 n x.pc ((x.rs f.b).toNat % 2 ^ 32)
      if f.sub.getLsbD 0 then t.fire (s.mtime % 2 ^ 48) 0 x.pc else t)

/-! ### Triggers, freezing and dumps -/

/-- TRACE_PC_MATCH: the bundle at TPC issues on core `c` (R462). -/
def tracePcMatch (c : Nat) (s : State) : Option State := do
  let x ← s.ctx c
  let t := (s.core c).trace
  if t.on && t.armed && bit t.ctl 9 && x.pc == t.pcm then some (s.onTrace c fun t => t.fire (s.mtime % 2 ^ 48) 1 x.pc) else none

/-- The halt record and the halt trigger of core `c` (Table 19.2, R462). -/
def traceHalt (s : State) (c cause : Nat) : State :=
  let pc := ((s.ctx c).map Ctx.pc).getD 0
  s.onTrace c fun t => (t.enter (s.mtime % 2 ^ 48) 9 0 pc cause).fire (s.mtime % 2 ^ 48) 2 pc

/-- TRACE_FREEZE (R462). -/
def traceFreeze (c : Nat) (s : State) : Option State :=
  if (s.core c).trace.done then some (s.onTrace c Trace.freeze) else none

/-- A dump can go to `pa` (R463). -/
def dumpTo (s : State) (pa : Nat) : Bool :=
  (List.range 16).all fun i => match s.region (pa + 4096 * i) with
    | .home _ _ => true
    | .aperture _ _ => true
    | _ => false

/-- TRACE_DUMP (R463). DEDUCED: log entry 81. -/
def traceDump (c : Nat) (s : State) : State :=
  s.onTrace c fun t => if (t.frozen || !t.on) && !t.dumping && dumpTo s t.tdst then { t with dumping := true, dumpAt := t.tdst } else t

/-- Writes a byte of a dump (R463): to memory in no pour, or through the aperture. -/
def dumpByte (s : State) (e : Byte × Nat) : State :=
  match s.region e.2 with
  | .home _ a => { s with mem := SMap.put 0 s.mem a e.1 }
  | .aperture c a => s.setCore c ((s.core c).engineWrite a [e.1])
  | _ => s

/-- TRACE_DUMP_COMPLETE (R463): the dump goes where TDST pointed when it was accepted; bytes that a home refuses to a conversion are tried again (R374). DESIGN CHOICE: log entry 109. -/
def traceDumpComplete (c : Nat) (s : State) : Option State :=
  let t := (s.core c).trace
  if t.dumping && !(List.range 1024).any (fun i => (s.dram (t.dumpAt + 64 * i)).any s.converting) then
    some ((((SMap.read t.buf 0 65536).zipIdx t.dumpAt).foldl dumpByte s).onTrace c fun t => { t with dumping := false })
  else none

/-! ### Module time and black boxes -/

/-- MTSET (R457). -/
def mtset (v : Word) (s : State) : State := { s with mtime := max s.mtime v.toNat }

/-- BBCLR (Table 19.4). -/
def bbclr (v : Word) (s : State) : State :=
  { s with parts := s.parts.zipIdx.map fun e => if v.getLsbD e.2 && decide (e.2 < 16) && !e.1.en then { e.1 with box := BlackBox.reset } else e.1 }

def execTracePcMatch (c : Nat) (s : State) : Out := engine (tracePcMatch c) s
def execTraceFreeze (c : Nat) (s : State) : Out := engine (traceFreeze c) s
def execTraceArm (c : Nat) (s : State) : Out := .next (s.onTrace c Trace.arm)
def execTraceClr (c : Nat) (s : State) : Out := .next (s.onTrace c Trace.clear)
def execTraceDump (c : Nat) (s : State) : Out := .next (traceDump c s)
def execTraceDumpComplete (c : Nat) (s : State) : Out := engine (traceDumpComplete c) s
def execMtset (v : Word) (s : State) : Out := .next (mtset v s)
def execBbclr (v : Word) (s : State) : Out := .next (bbclr v s)

end Sys2Proof.Machine
end

