-- ==== Sys2Proof/Machine/Vector.lean ====
section
/-!
DEFINITION. The V-slot instructions (R185 to R215).
-/

namespace Sys2Proof.Machine

/-! ### Lane integer arithmetic (R190 to R192) -/

/-- An integer operation on element pairs: format, width and the two codes. -/
def vInt (h : Hdr) (f : F3) (s : State) (l : Nat) (op : Nat → Nat → Nat → Nat → Nat) : Out :=
  let fmt := f.fmt.toNat
  let w := fmtWidth fmt
  vValues h s f l w [f.b, f.c] fun x =>
    List.zipWith (fun a b => (op fmt w a b % 2 ^ w, 0)) (vElems w (x.rvec f.b)) (vElems w (x.rvec f.c))

/-- The value of an exact integer saturated to a format's range (R191). -/
def saturate (fmt w : Nat) (i : Int) : Nat :=
  let lo : Int := if fmt ≤ 8 then -((2 ^ (w - 1) : Nat) : Int) else 0
  let hi : Int := if fmt ≤ 8 then (2 ^ (w - 1) : Nat) - 1 else (2 ^ w : Nat) - 1
  modPow w (max lo (min hi i))

/-- The smaller or larger by the format's signedness. -/
def intMin (fmt w a b : Nat) : Nat := if intOf fmt w b < intOf fmt w a then b else a
def intMax (fmt w a b : Nat) : Nat := if intOf fmt w a < intOf fmt w b then b else a

def execVadd (h : Hdr) (f : F3) (s : State) : Out := vInt h f s 2 fun _ _ a b => a + b
def execVsub (h : Hdr) (f : F3) (s : State) : Out := vInt h f s 2 fun _ w a b => a + 2 ^ w - b
def execVmul (h : Hdr) (f : F3) (s : State) : Out := vInt h f s 3 fun _ _ a b => a * b
def execVmulh (h : Hdr) (f : F3) (s : State) : Out :=
  vInt h f s 3 fun fmt w a b => modPow w ((intOf fmt w a * intOf fmt w b) / ((2 ^ w : Nat) : Int))
def execVand (h : Hdr) (f : F3) (s : State) : Out := vInt h f s 2 fun _ _ a b => a &&& b
def execVor (h : Hdr) (f : F3) (s : State) : Out := vInt h f s 2 fun _ _ a b => a ||| b
def execVxor (h : Hdr) (f : F3) (s : State) : Out := vInt h f s 2 fun _ _ a b => a ^^^ b
def execVsll (h : Hdr) (f : F3) (s : State) : Out := vInt h f s 2 fun _ w a b => a <<< (b % w)
def execVsrl (h : Hdr) (f : F3) (s : State) : Out := vInt h f s 2 fun _ w a b => a >>> (b % w)
def execVsra (h : Hdr) (f : F3) (s : State) : Out := vInt h f s 2 fun _ w a b => modPow w (sext w a >>> (b % w))
def execVmin (h : Hdr) (f : F3) (s : State) : Out := vInt h f s 2 intMin
def execVmax (h : Hdr) (f : F3) (s : State) : Out := vInt h f s 2 intMax
def execVadds (h : Hdr) (f : F3) (s : State) : Out :=
  vInt h f s 2 fun fmt w a b => saturate fmt w (intOf fmt w a + intOf fmt w b)
def execVsubs (h : Hdr) (f : F3) (s : State) : Out :=
  vInt h f s 2 fun fmt w a b => saturate fmt w (intOf fmt w a - intOf fmt w b)

/-- R190: |a| modulo 2^w. -/
def execVabs (h : Hdr) (f : F3) (s : State) : Out :=
  let w := fmtWidth f.fmt.toNat
  vValues h s f 2 w [f.b] fun x => (vElems w (x.rvec f.b)).map fun a => ((sext w a).natAbs % 2 ^ w, 0)

/-- R192. -/
def execVcmp (h : Hdr) (f : F3) (s : State) : Out :=
  let w := fmtWidth f.fmt.toNat
  vCompare h s f w fun x =>
    List.zipWith (fun a b => (intCond (f.d.toNat % 16) w a b, 0)) (vElems w (x.rvec f.b)) (vElems w (x.rvec f.c))

/-! ### IEEE and taper arithmetic (R193 to R196) -/

/-- One rounded operation per element, pos = e mod 32 (R193, R196). -/
def vFp (op : FpOp) (l m3 : Nat) (h : Hdr) (f : F3) (s : State) : Out :=
  let fmt := f.fmt.toNat
  let w := fmtWidth fmt
  let three := op == .fma
  let one := op == .sqrt
  vRounds h s f l m3 w (f.b :: (if one then [] else [f.c]) ++ (if three then [f.d] else [])) fun x =>
    let as := vElems w (x.rvec f.b)
    let bs := if one then as else vElems w (x.rvec f.c)
    let cs := if three then vElems w (x.rvec f.d) else as
    (as.zip (bs.zip cs)).zipIdx.map fun ((a, b, c), e) =>
      fpRound op fmt f.rnd.toNat f.s f.fi f.fo (e % 32) a b c

def execVfadd (h : Hdr) (f : F3) (s : State) : Out := vFp .add 4 6 h f s
/-- Table 1.10 does not name VFSUB, so L3 leaves it at 4. DEDUCED: log entry 25. -/
def execVfsub (h : Hdr) (f : F3) (s : State) : Out := vFp .sub 4 4 h f s
def execVfmul (h : Hdr) (f : F3) (s : State) : Out := vFp .mul 4 6 h f s
def execVffma (h : Hdr) (f : F3) (s : State) : Out := vFp .fma 4 6 h f s
def execVfdiv (h : Hdr) (f : F3) (s : State) : Out := vFp .div 14 14 h f s
def execVfsqrt (h : Hdr) (f : F3) (s : State) : Out := vFp .sqrt 14 14 h f s
def execVtadd (h : Hdr) (f : F3) (s : State) : Out := vFp .add 5 5 h f s
def execVtsub (h : Hdr) (f : F3) (s : State) : Out := vFp .sub 5 5 h f s
def execVtmul (h : Hdr) (f : F3) (s : State) : Out := vFp .mul 5 5 h f s
def execVtfma (h : Hdr) (f : F3) (s : State) : Out := vFp .fma 5 5 h f s

/-- VFMIN and VFMAX (R194). -/
def vFpMinMax (mx : Bool) (h : Hdr) (f : F3) (s : State) : Out :=
  let fmt := f.fmt.toNat
  let w := fmtWidth fmt
  vValues h s f 2 w [f.b, f.c] fun x =>
    List.zipWith (fpMinMax mx f.fi fmt) (vElems w (x.rvec f.b)) (vElems w (x.rvec f.c))

def execVfmin (h : Hdr) (f : F3) (s : State) : Out := vFpMinMax false h f s
def execVfmax (h : Hdr) (f : F3) (s : State) : Out := vFpMinMax true h f s

/-- VFABS and VFNEG (R194). -/
def vFpSign (abs : Bool) (h : Hdr) (f : F3) (s : State) : Out :=
  let w := fmtWidth f.fmt.toNat
  vValues h s f 2 w [f.b] fun x => (vElems w (x.rvec f.b)).map (fpSign abs f.fi f.fmt.toNat)

def execVfabs (h : Hdr) (f : F3) (s : State) : Out := vFpSign true h f s
def execVfneg (h : Hdr) (f : F3) (s : State) : Out := vFpSign false h f s

/-- R195. -/
def execVfcmp (h : Hdr) (f : F3) (s : State) : Out :=
  let fmt := f.fmt.toNat
  let w := fmtWidth fmt
  vCompare h s f w fun x =>
    List.zipWith (fun a b => (floatCond (f.d.toNat % 8) (decodeF f.fi fmt a) (decodeF f.fi fmt b),
      snanFlag fmt a ||| snanFlag fmt b)) (vElems w (x.rvec f.b)) (vElems w (x.rvec f.c))

/-- The flags of the leaves of an IEEE reduction: a signalling NaN input sets IV (R47). -/
def leafSnan (fmt : Nat) (leaves : List (Option Nat)) : Flags :=
  leaves.foldl (fun f o => f ||| (o.map (snanFlag fmt)).getD 0) 0

/-- R57: a reduction of taper codes with a NaR among them has a NaR result, which sets NR. -/
def leafNar (fmt w : Nat) (leaves : List (Option Nat)) : Flags :=
  if isTaper fmt && leaves.contains (some (2 ^ (w - 1))) then fNR else 0

/-- R197: the reduction's result over leaves. DEDUCED: log entry 26. -/
def vredLate (f : F3) (fmt w op : Nat) (leaves : List (Option Nat)) : Late :=
  if isInt fmt then
    let g (a b : Nat) : Nat := match op with
      | 0 => (a + b) % 2 ^ w
      | 1 => intMin fmt w a b
      | 2 => intMax fmt w a b
      | 3 => a &&& b
      | 4 => a ||| b
      | _ => a ^^^ b
    let (v, fl) := treeReduce (fun a b => (g a b, 0)) 10 leaves
    .now v fl
  else if op = 0 then .tree fmt f.rnd.toNat f.s f.fo (leaves.map fun o => o.map (flushCode f.fi fmt))
    (leafSnan fmt leaves ||| leafNar fmt w leaves)
  else
    let (v, fl) := treeReduce (fpMinMax (op == 2) f.fi fmt) 10 (leaves.map fun o => o.map (flushCode f.fi fmt))
    .now v (fl ||| leafSnan fmt leaves)

/-- R197: element 0 takes the result and every other element zero bits. DEDUCED: log entry 26. -/
def execVred (h : Hdr) (f : F3) (s : State) : Out :=
  syl h s fun _ x => vframe x [f.b] [f.a] h.t (fun y => .ok (vElems (fmtWidth f.fmt.toNat) (y.rvec f.b))) fun y ls es =>
    let fmt := f.fmt.toNat
    let w := fmtWidth fmt
    let on := enabled (kmOf x f) w (4096 / w)
    y.send h (latency y 6 8) (ls.headD .p) (ones 4096)
      (vredLate f fmt w (f.d.toNat % 8) (List.zipWith (fun b c => if b then some c else none) on es))

/-! ### Selection, masks and moves (R198 to R201, R215) -/

/-- R198. -/
def execVsel (h : Hdr) (f : F3) (s : State) : Out :=
  syl h s fun _ x => vframe x [f.b, f.c] [f.a] h.t (fun y => .ok (y.rvec f.b, y.rvec f.c)) fun y ls (a, b) =>
    let m := landMask 32 (enabled (kmOf x f) 32 128) false
    y.send h 2 (ls.headD .p) (ones 4096) (.now (merge b.toNat a.toNat m) 0)

/-- KAND, KOR, KXOR and KNOT (R199). -/
def kOp (h : Hdr) (f : F3) (s : State) (op : Nat → Nat → Nat) : Out :=
  syl h s fun _ x => .ok (x.putK h 1 f.a.toNat (ones 128) (op (x.rk f.b.toNat).toNat (x.rk f.c.toNat).toNat))

def execKand (h : Hdr) (f : F3) (s : State) : Out := kOp h f s (· &&& ·)
def execKor (h : Hdr) (f : F3) (s : State) : Out := kOp h f s (· ||| ·)
def execKxor (h : Hdr) (f : F3) (s : State) : Out := kOp h f s (· ^^^ ·)
def execKnot (h : Hdr) (f : F3) (s : State) : Out := kOp h f s fun a _ => a ^^^ ones 128

/-- R199. -/
def execKpop (h : Hdr) (f : F3) (s : State) : Out :=
  syl h s fun _ x => .ok (x.putS h 2 f.a (BitVec.ofNat 64 (popCount (x.rk f.b.toNat).toNat 128)))

/-- R200. -/
def execVbcast (h : Hdr) (f : F3) (s : State) : Out :=
  let w := fmtWidth f.fmt.toNat
  vValues h s f 2 w [] fun x => List.replicate (4096 / w) ((x.rs f.b).toNat % 2 ^ w, 0)

/-- R200: lane by lane. -/
def execVmov (h : Hdr) (f : F3) (s : State) : Out :=
  vValues h s f 2 32 [f.b] fun x => (vElems 32 (x.rvec f.b)).map fun a => (a, 0)

/-- R200. -/
def execViota (h : Hdr) (f : F3) (s : State) : Out :=
  let w := fmtWidth f.fmt.toNat
  vValues h s f 2 w [] fun x => (List.range (4096 / w)).map fun e => (((x.rs f.b).toNat + e) % 2 ^ w, 0)

/-- R201: element sb mod n, sign-extended for I8, I16 and I32. -/
def execVext (h : Hdr) (f : F3) (s : State) : Out :=
  syl h s fun _ x => vframe x [f.b] [] h.t (fun y => .ok (y.rvec f.b)) fun y _ v =>
    let fmt := f.fmt.toNat
    let w := fmtWidth fmt
    let i := (x.rs f.c).toNat % (4096 / w)
    let c := v.toNat / 2 ^ (w * i) % 2 ^ w
    y.putS h 2 f.a (if 6 ≤ fmt ∧ fmt ≤ 8 then BitVec.ofInt 64 (sext w c) else BitVec.ofNat 64 c)

/-- R201: only the element's bytes land. -/
def execVins (h : Hdr) (f : F3) (s : State) : Out :=
  syl h s fun _ x => vframe x [] [f.a] h.t (fun _ => .ok ()) fun y ls _ =>
    let w := fmtWidth f.fmt.toNat
    let i := (x.rs f.c).toNat % (4096 / w)
    y.send h 2 (ls.headD .p) (ones w * 2 ^ (w * i)) (.now ((x.rs f.b).toNat % 2 ^ w * 2 ^ (w * i)) 0)

/-- R215. -/
def execVxmv (h : Hdr) (f : F3) (s : State) : Out :=
  syl h s fun _ x => vframe x [f.b] [f.a] h.t (fun y => .ok (y.rvec f.b)) fun y ls v =>
    y.send h 2 (ls.headD .p) (ones 4096) (.now v.toNat 0)

/-! ### Scratchpad access (R202 to R209) -/

/-- R203: alignment to 4, then bounds of all 512 bytes. -/
def checkV {α : Type} (ea : Nat) (k : Act α) : Act α :=
  .need (ea % 4 == 0) .misalign (.need (inSpad ea 512) .bounds k)

/-- R202: SZ carries the mask; the enabled lanes land at L = 8, or 10 under L3. -/
def execVld (h : Hdr) (f : FM) (s : State) : Out :=
  syl h s fun k x => vframe x [] [f.a] h.t
    (fun y => let ea := effAddr (y.rs f.b) f.off; checkV ea (.ok (y.load k.mem ea 512))) fun y ls bs =>
      (y.send h (latency y 8 10) (ls.headD .p) (landMask 32 (enabled (x.rk f.sz.toNat) 32 128) false)
        (.now (ofBytes bs) 0)).tick (effAddr (x.rs f.b) f.off) 512

/-- Bytes of the elements of a register, for the enabled elements, at their addresses. -/
def scatter (w : Nat) (v : VReg) (places : List (Nat × Nat)) : List (Nat × Byte) :=
  places.flatMap fun (e, a) =>
    (List.range (w / 8)).map fun i => (a + i, BitVec.ofNat 8 (v.toNat / 2 ^ (w * e + 8 * i)))

/-- R202: the enabled lanes, visible to loads three bundles on. -/
def execVst (h : Hdr) (f : FM) (s : State) : Out :=
  syl h s fun _ x => vframe x [f.a] [] false
    (fun y => let ea := effAddr (y.rs f.b) f.off; checkV ea (.ok (ea, y.rvec f.a))) fun y _ (ea, v) =>
      y.store h 3 (scatter 32 v (((List.range 128).filter fun l => (x.rk f.sz.toNat).getLsbD l).map fun l => (l, ea + 4 * l)))

/-- The enabled elements that a strided access reaches, with their addresses; an absent element counts as disabled (R207). -/
def stridedPlaces (v : View) (km : KMask) : List (Nat × Nat) :=
  let n := v.count
  ((List.range (4096 / v.w)).filter fun e => km.getLsbD (v.w * e / 32) && decide (e / v.d < n / v.d)).map fun e => (e, v.addr e)

/-- The enabled elements that an indexed access reaches (R208). -/
def indexedPlaces (v : View) (km : KMask) (vi : VReg) : List (Nat × Nat) :=
  (((vElems v.w vi).zipIdx.filter fun (i, e) => km.getLsbD (v.w * e / 32) && decide (i < v.ext.headD 0))).map fun (i, e) =>
    (e, modPow 64 ((v.base : Int) + (v.w / 8) * i * v.str.headD 0))

/-- R206, R207: the checks of a strided or indexed access that its shape register alone decides. DESIGN CHOICE: log entry 123. -/
def checkShape {α : Type} (v : View) (indexed : Bool) (k : Act α) : Act α :=
  .need (!v.global && v.fmt != 5 && decide (1 ≤ v.rank ∧ v.rank ≤ 6) && !(indexed && v.d != 1)) .shapeField
    (.need v.aligned .misalign k)

/-- R206, R207, R209: the checks of a strided or indexed access, in order. DESIGN CHOICE: log entry 123. -/
def checkPlaces {α : Type} (v : View) (indexed : Bool) (places : List (Nat × Nat)) (k : Act α) : Act α :=
  checkShape v indexed
    (.need (places.all fun p => inSpad p.2 (v.w / 8)) .bounds
      (.need (banksOk (places.map fun p => (p.2, v.w / 8))) .bankDepth k))

/-- The register that loaded elements make. -/
def gather (x : Ctx) (mem : SMap Byte) (w : Nat) (places : List (Nat × Nat)) : Nat :=
  places.foldl (fun v (e, a) => v ||| ofBytes (x.load mem a (w / 8)) <<< (w * e)) 0

/-- The shape register of a strided or indexed access: shv0 to shv3 (Table 6.6's ids 16 to 19). -/
def shv (f : F3) : Nat := 16 + f.a.toNat

/-- R205 to R209: strided loads (R207) and indexed loads (R208). The mask and Z decide what lands; an element out of the extent reads as zero when indexed. -/
def vLoadShape (indexed : Bool) (h : Hdr) (f : F3) (s : State) : Out :=
  syl h s fun k x0 =>
    let x := x0.exchangeIf f.w (shv f)
    let v := x.view (shv f) (if indexed then 0 else (x.rs f.c).toInt)
    let km := kmOf x f
    vframe x (if indexed then [f.c] else []) [f.b] h.t
      (fun y =>
        let ps := if indexed then indexedPlaces v km (y.rvec f.c) else stridedPlaces v km
        checkPlaces v indexed ps (.ok (ps, gather y k.mem v.w ps)))
      (fun y ls (ps, val) =>
        let on := enabled km v.w (4096 / v.w)
        let live := if indexed then on else (List.range (4096 / v.w)).map fun e => ps.any fun p => p.1 == e
        ps.foldl (fun z p => z.tick p.2 (v.w / 8))
          (y.send h (if indexed then 10 else latency y 8 10) (ls.headD .p) (landMask v.w live (zOf f)) (.now val 0)))
      (checkShape v indexed (.ok ())) (if indexed then [f.c] else [])

/-- R205 to R209: strided and indexed stores; within one store the highest element wins. -/
def vStoreShape (indexed : Bool) (h : Hdr) (f : F3) (s : State) : Out :=
  syl h s fun _ x0 =>
    let x := x0.exchangeIf f.w (shv f)
    let v := x.view (shv f) (if indexed then 0 else (x.rs f.c).toInt)
    let km := kmOf x f
    vframe x (f.b :: if indexed then [f.c] else []) [] false
      (fun y =>
        let ps := if indexed then indexedPlaces v km (y.rvec f.c) else stridedPlaces v km
        checkPlaces v indexed ps (.ok (scatter v.w (y.rvec f.b) ps)))
      (fun y _ bs => y.store h 3 bs) (checkShape v indexed (.ok ())) (if indexed then [f.c] else [])

def execVlds (h : Hdr) (f : F3) (s : State) : Out := vLoadShape false h f s
def execVsts (h : Hdr) (f : F3) (s : State) : Out := vStoreShape false h f s
def execVgath (h : Hdr) (f : F3) (s : State) : Out := vLoadShape true h f s
def execVscat (h : Hdr) (f : F3) (s : State) : Out := vStoreShape true h f s

/-! ### Algebra (R210 to R214) -/

/-- R211: a table from the scratchpad, checked in the order alignment, bounds, R210. -/
def execAload (h : Hdr) (f : F3) (s : State) : Out :=
  syl h s fun k x =>
    let a := (x.rs f.b).toNat
    let t := ofBytes (x.load k.mem a 72)
    .need (a % 8 == 0) .misalign (.need (inSpad a 72) .bounds (.need (tableOk t) .algebra
      (.ok ((x.send h 4 (.table f.a.toNat) (ones 576) (.now t 0)).tick a 72))))

/-- R211: preset SUB[2:0]. -/
def execAloadPreset (h : Hdr) (f : F3) (s : State) : Out :=
  syl h s fun _ x => .ok (x.send h 4 (.table f.a.toNat) (ones 576) (.now (preset (f.sub.toNat % 8)) 0))

/-- The rounding of one component of an algebra product. -/
def algComponent (t fmt mode : Nat) (sat fi fo : Bool) (k pos : Nat) (xs ys : List Nat) (conj : Bool) : Rounding × Flags :=
  let vx := xs.map (decodeF fi fmt)
  let vy := (ys.map (decodeF fi fmt)).zipIdx.map fun (v, c) => if conj && tConj t c then v.neg else v
  let ts := algTerms t k vx vy
  let (z, g) := sumV (mode == 3) (ts.map Prod.fst)
  (⟨fmt, z, mode, sat, fo, pos⟩, ts.foldl (fun a e => a ||| e.2) (g ||| algSnan t k fmt xs ys))

/-- R212: whole algebra elements, O exchanging the factors. -/
def execVamul (h : Hdr) (f : F3) (s : State) : Out :=
  let fmt := f.fmt.toNat
  let w := fmtWidth fmt
  vRounds h s f 6 6 w [f.b, f.c] fun x =>
    let t := x.rtab (f.d.toNat % 4)
    let d := tDim t
    let o := f.d.getLsbD 2
    let as := chunks d (4096 / w / d) (vElems w (x.rvec f.b))
    let bs := chunks d (4096 / w / d) (vElems w (x.rvec f.c))
    ((as.zip bs).zipIdx).flatMap fun ((a, b), j) => (List.range d).map fun k =>
      algComponent t fmt f.rnd.toNat f.s f.fi f.fo k ((d * j + k) % 32) (if o then b else a) (if o then a else b) false

/-- R213: a copied component keeps its bits, so FI flushes only what is negated. DEDUCED: log entry 27. -/
def execVconj (h : Hdr) (f : F3) (s : State) : Out :=
  let fmt := f.fmt.toNat
  let w := fmtWidth fmt
  vValues h s f 2 w [f.b] fun x =>
    let t := x.rtab (f.d.toNat % 4)
    (vElems w (x.rvec f.b)).zipIdx.map fun (c, e) =>
      if tConj t (e % tDim t) then negCode false fmt (flushCode f.fi fmt c) else (c, 0)

/-- R214: component 0 takes the norm, the others zero bits. -/
def execVnorm (h : Hdr) (f : F3) (s : State) : Out :=
  let fmt := f.fmt.toNat
  let w := fmtWidth fmt
  vRounds h s f 6 6 w [f.b] fun x =>
    let t := x.rtab (f.d.toNat % 4)
    let d := tDim t
    (chunks d (4096 / w / d) (vElems w (x.rvec f.b))).zipIdx.flatMap fun (a, j) => (List.range d).map fun k =>
      if k = 0 then algComponent t fmt f.rnd.toNat f.s f.fi f.fo 0 (d * j % 32) a a true
      else (⟨fmt, .zero false, 0, false, false, 0⟩, 0)

end Sys2Proof.Machine
end

