-- ==== Sys2Proof/Machine/Syllables.lean ====
section
/-!
DEFINITION. The meaning of a slot syllable inside its bundle (R19, R32): the same meanings that `exec` calls, for the rows that name a syllable; the other rows name no syllable and do nothing here.
-/

namespace Sys2Proof.Machine

/-- The meaning of a slot syllable. -/
def runSyllable (i : Instr) (s : State) : Out :=
  match i with
  | .nop h => execNop h s
  | .br h f => execBr h f s
  | .bri h f => execBri h f s
  | .call h f => execCall h f s
  | .ret h f => execRet h f s
  | .loopi h f => execLoopi h f s
  | .loopiImm h f => execLoopiImm h f s
  | .loopb h f => execLoopb h f s
  | .loopx h f => execLoopx h f s
  | .rep h f => execRep h f s
  | .repImm h f => execRepImm h f s
  | .nopn h f => execNopn h f s
  | .pset h f => execPset h f s
  | .pand h f => execPand h f s
  | .por h f => execPor h f s
  | .pxor h f => execPxor h f s
  | .pnot h f => execPnot h f s
  | .pmov h f => execPmov h f s
  | .rvi h f => execRvi h f s
  | .rva h f => execRva h f s
  | .rvw h f => execRvw h f s
  | .rvaw h f => execRvaw h f s
  | .phint h f => execPhint h f s
  | .trap h f => execTrap h f s
  | .tend h f => execTend h f s
  | .tfail h f => execTfail h f s
  | .crr h f => execCrr h f s
  | .crw h f => execCrw h f s
  | .add h f => execAdd h f s
  | .sub h f => execSub h f s
  | .addi h f => execAddi h f s
  | .and h f => execAnd h f s
  | .or h f => execOr h f s
  | .xor h f => execXor h f s
  | .andi h f => execAndi h f s
  | .ori h f => execOri h f s
  | .xori h f => execXori h f s
  | .sll h f => execSll h f s
  | .srl h f => execSrl h f s
  | .sra h f => execSra h f s
  | .slli h f => execSlli h f s
  | .srli h f => execSrli h f s
  | .srai h f => execSrai h f s
  | .mul h f => execMul h f s
  | .mulh h f => execMulh h f s
  | .mulhu h f => execMulhu h f s
  | .div h f => execDiv h f s
  | .divu h f => execDivu h f s
  | .rem h f => execRem h f s
  | .remu h f => execRemu h f s
  | .min h f => execMin h f s
  | .max h f => execMax h f s
  | .minu h f => execMinu h f s
  | .maxu h f => execMaxu h f s
  | .clz h f => execClz h f s
  | .popc h f => execPopc h f s
  | .li h f => execLi h f s
  | .lih h f => execLih h f s
  | .addsc h f => execAddsc h f s
  | .cmp h f => execCmp h f s
  | .cmpi h f => execCmpi h f s
  | .sel h f => execSel h f s
  | .xmv h f => execXmv h f s
  | .ld h f => execLd h f s
  | .st h f => execSt h f s
  | .fadd h f => execFadd h f s
  | .fsub h f => execFsub h f s
  | .fmul h f => execFmul h f s
  | .ffma h f => execFfma h f s
  | .fdiv h f => execFdiv h f s
  | .fsqrt h f => execFsqrt h f s
  | .fmin h f => execFmin h f s
  | .fmax h f => execFmax h f s
  | .fcmp h f => execFcmp h f s
  | .fcvt h f => execFcvt h f s
  | .shw h f => execShw h f s
  | .shrd h f => execShrd h f s
  | .vadd h f => execVadd h f s
  | .vsub h f => execVsub h f s
  | .vmul h f => execVmul h f s
  | .vmulh h f => execVmulh h f s
  | .vand h f => execVand h f s
  | .vor h f => execVor h f s
  | .vxor h f => execVxor h f s
  | .vsll h f => execVsll h f s
  | .vsrl h f => execVsrl h f s
  | .vsra h f => execVsra h f s
  | .vmin h f => execVmin h f s
  | .vmax h f => execVmax h f s
  | .vabs h f => execVabs h f s
  | .vadds h f => execVadds h f s
  | .vsubs h f => execVsubs h f s
  | .vcmp h f => execVcmp h f s
  | .vfadd h f => execVfadd h f s
  | .vfsub h f => execVfsub h f s
  | .vfmul h f => execVfmul h f s
  | .vffma h f => execVffma h f s
  | .vfdiv h f => execVfdiv h f s
  | .vfsqrt h f => execVfsqrt h f s
  | .vfmin h f => execVfmin h f s
  | .vfmax h f => execVfmax h f s
  | .vfabs h f => execVfabs h f s
  | .vfneg h f => execVfneg h f s
  | .vfcmp h f => execVfcmp h f s
  | .vtadd h f => execVtadd h f s
  | .vtsub h f => execVtsub h f s
  | .vtmul h f => execVtmul h f s
  | .vtfma h f => execVtfma h f s
  | .vred h f => execVred h f s
  | .vsel h f => execVsel h f s
  | .kand h f => execKand h f s
  | .kor h f => execKor h f s
  | .kxor h f => execKxor h f s
  | .knot h f => execKnot h f s
  | .kpop h f => execKpop h f s
  | .vbcast h f => execVbcast h f s
  | .vmov h f => execVmov h f s
  | .vext h f => execVext h f s
  | .vins h f => execVins h f s
  | .viota h f => execViota h f s
  | .vld h f => execVld h f s
  | .vst h f => execVst h f s
  | .vlds h f => execVlds h f s
  | .vsts h f => execVsts h f s
  | .vgath h f => execVgath h f s
  | .vscat h f => execVscat h f s
  | .vamul h f => execVamul h f s
  | .vconj h f => execVconj h f s
  | .vnorm h f => execVnorm h f s
  | .aload h f => execAload h f s
  | .aloadPreset h f => execAloadPreset h f s
  | .vxmv h f => execVxmv h f s
  | .qclr h f => execQclr h f s
  | .qmac h f => execQmac h f s
  | .qmacn h f => execQmacn h f s
  | .qadd h f => execQadd h f s
  | .qsub h f => execQsub h f s
  | .qneg h f => execQneg h f s
  | .qred h f => execQred h f s
  | .qround h f => execQround h f s
  | .qrounds h f => execQrounds h f s
  | .qld h f => execQld h f s
  | .qst h f => execQst h f s
  | .qmov h f => execQmov h f s
  | .qtst h f => execQtst h f s
  | .qmode h f => execQmode h f s
  | .xcvt h f => execXcvt h f s
  | .xpack h f => execXpack h f s
  | .xunp h f => execXunp h f s
  | .xscl h f => execXscl h f s
  | .xshuf h f => execXshuf h f s
  | .xshufShape h f => execXshufShape h f s
  | .xrev h f => execXrev h f s
  | .xrot h f => execXrot h f s
  | .xzip h f => execXzip h f s
  | .xunz h f => execXunz h f s
  | .xbc h f => execXbc h f s
  | .xcpr h f => execXcpr h f s
  | .xexp h f => execXexp h f s
  | .xswz h f => execXswz h f s
  | .xmrg h f => execXmrg h f s
  | .xsps h f => execXsps h f s
  | .xdth h f => execXdth h f s
  | .trcfg h f => execTrcfg h f s
  | .trw h f => execTrw h f s
  | .trc h f => execTrc h f s
  | .trclr h f => execTrclr h f s
  | .trst h f => execTrst h f s
  | .mgo h f => execMgo h f s
  | .mstep h f => execMstep h f s
  | .mwait h f => execMwait h f s
  | .mstat h f => execMstat h f s
  | .mabort h f => execMabort h f s
  | .mzero h f => execMzero h f s
  | .mldt h f => execMldt h f s
  | .mstt h f => execMstt h f s
  | .sbind h f => execSbind h f s
  | .sunb h f => execSunb h f s
  | .ssync h f => execSsync h f s
  | .ginit h f => execGinit h f s
  | .gwf h f => execGwf h f s
  | .gwe h f => execGwe h f s
  | .gadvh h f => execGadvh h f s
  | .gadvt h f => execGadvt h f s
  | .gstat h f => execGstat h f s
  | .spushc h f => execSpushc h f s
  | .spopc h f => execSpopc h f s
  | .sbal h f => execSbal h f s
  | .cpy h f => execCpy h f s
  | .cpyw h f => execCpyw h f s
  | .cpyq h f => execCpyq h f s
  | .lput h f => execLput h f s
  | .lputf h f => execLputf h f s
  | .lwait h f => execLwait h f s
  | .lwaitScalar h f => execLwaitScalar h f s
  | .lset h f => execLset h f s
  | .lsetSub h f => execLsetSub h f s
  | .lsig h f => execLsig h f s
  | .aop h f => execAop h f s
  | .aopn h f => execAopn h f s
  | .acas h f => execAcas h f s
  | .acasw h f => execAcasw h f s
  | .aenq h f => execAenq h f s
  | .achase h f => execAchase h f s
  | .ared h f => execAred h f s
  | .aredFin h f => execAredFin h f s
  | .crossRel h f => execCrossRel h f s
  | .crossAcq h f => execCrossAcq h f s
  | .crossAr h f => execCrossAr h f s
  | .aliasf h f => execAliasf h f s
  | .fence h f => execFence h f s
  | .nlaunch h f => execNlaunch h f s
  | .jraise h f => execJraise h f s
  | .jpost h f => execJpost h f s
  | .sealreq h f => execSealreq h f s
  | .vainv h f => execVainv h f s
  | .vainvAll h f => execVainvAll h f s
  | .tsr h f => execTsr h f s
  | .trig h f => execTrig h f s
  | .emptyBundle => .next s
  | .stallEnd _ => .next s
  | .resultLanding _ => .next s
  | .cellLanding _ => .next s
  | .rendezvousArrival _ _ _ => .next s
  | .transposerChangeLands _ => .next s
  | .mgoNestStart _ => .next s
  | .kstepStart _ => .next s
  | .kstepRetire _ => .next s
  | .sbalRun _ _ => .next s
  | .sbalComplete _ _ => .next s
  | .portEntryArrival _ _ => .next s
  | .streamWritePerformed _ _ => .next s
  | .ringSlotCommit _ _ => .next s
  | .ringSlotFree _ _ => .next s
  | .copyBurstDone _ => .next s
  | .copyRtIncrementRetry _ => .next s
  | .gatherPacket _ _ => .next s
  | .nlaunchAppend _ => .next s
  | .tracePcMatch _ => .next s
  | .traceFreeze _ => .next s
  | .putPacketArrival _ => .next s
  | .lsigArrival _ => .next s
  | .putAck _ => .next s
  | .atomicApply _ => .next s
  | .atomicReply _ => .next s
  | .operationPacket _ => .next s
  | .achaseHop _ => .next s
  | .crucibleAdd _ => .next s
  | .crucibleFinalise _ => .next s
  | .jcbRaiseApply _ => .next s
  | .jcbPostApply _ => .next s
  | .endToEndRetry _ => .next s
  | .refusalRetry _ => .next s
  | .fabricTimeout _ => .next s
  | .sourceRelease _ => .next s
  | .translationWalkComplete _ => .next s
  | .dieInvalidate _ _ => .next s
  | .invalidateAck _ _ => .next s
  | .vainvComplete _ => .next s
  | .tinvGo _ => .next s
  | .qtailWrite _ _ _ => .next s
  | .qcfgWrite _ _ _ => .next s
  | .partitionEnable _ _ => .next s
  | .partitionDisable _ _ => .next s
  | .queuePriorityAging _ _ => .next s
  | .nestRecordStart _ _ => .next s
  | .graphLaunch _ _ => .next s
  | .copyRecordStart _ _ => .next s
  | .queueFence _ _ => .next s
  | .levelSwitch _ _ => .next s
  | .levelSwitchComplete _ => .next s
  | .sealRequestPacket _ _ => .next s
  | .teamLaunch _ _ => .next s
  | .teamRetire _ _ => .next s
  | .retireLogWrite _ _ => .next s
  | .signalWriteAccepted _ _ _ => .next s
  | .iterationPriorityAging _ _ => .next s
  | .sliceExpiry _ _ => .next s
  | .quiesceMarkerReturn _ => .next s
  | .preemptSave _ _ => .next s
  | .preemptSaveComplete _ _ => .next s
  | .preemptRestore _ _ => .next s
  | .pwaitExpiry _ _ => .next s
  | .uncorrectable _ => .next s
  | .engineStop _ _ => .next s
  | .haltComplete _ => .next s
  | .haltResume _ => .next s
  | .haltDump _ => .next s
  | .haltDumpComplete _ => .next s
  | .homeLineRead _ => .next s
  | .homeLineWrite _ => .next s
  | .riserWaitExpiry _ => .next s
  | .holdBufferEntry _ => .next s
  | .holdWaitExpiry _ => .next s
  | .metaSweep _ => .next s
  | .sealTimerExpiry _ => .next s
  | .sealDrainComplete _ => .next s
  | .prepare _ => .next s
  | .prepareReply _ _ => .next s
  | .commit _ => .next s
  | .committed _ => .next s
  | .free _ => .next s
  | .rctlRollback _ => .next s
  | .persWrite _ _ => .next s
  | .berthDrainComplete _ => .next s
  | .drainTimeout _ => .next s
  | .berthTrainingComplete _ _ _ => .next s
  | .kgo _ => .next s
  | .keyLow _ => .next s
  | .keyExhausted _ => .next s
  | .remoteRequestAdmission _ => .next s
  | .hostLinkLoss => .next s
  | .hostLinkReturn => .next s
  | .cvctlGo _ _ => .next s
  | .conversionComplete _ => .next s
  | .crallocWrite _ _ _ => .next s
  | .traceArm _ => .next s
  | .traceClr _ => .next s
  | .traceDump _ => .next s
  | .traceDumpComplete _ => .next s
  | .mtset _ => .next s
  | .bbclr _ => .next s
  | .moduleReset => .next s
  | .bootPhaseComplete _ => .next s
  | .attest => .next s
  | .enterFullService => .next s
  | .writeRoute => .next s
  | .writeJoinKey => .next s
  | .partitionReset _ => .next s
  | .dieReset _ => .next s
  | .registerWrite _ _ => .next s
  | .crossPerformed _ => .next s
  | .berthLoss _ => .next s
  | .pgateUpdate _ => .next s
  | .heldWritePerformed _ => .next s
  | .rollbackComplete _ => .next s

end Sys2Proof.Machine
end

