-- ==== Sys2Proof/Machine/Bundle.lean ====
section
/-!
DEFINITION. The issue of bundles: what lands at a bundle (R27 to R31, R163, R219), fetch and the checks of R24, the syllables of a bundle and its hold (R25, R32 to R34), the boundary after it (R147 to R149, R161, R234), and what the trace unit notes of it (R460, R461).
-/

namespace Sys2Proof.Machine

/-! ### Landings -/

/-- A record that a bundle leaves in the trace: the TCTL bit that selects it, KIND, AUX and DATA (Table 19.2). -/
structure Note where
  bit : Nat
  kind : Nat
  aux : Nat
  data : Nat
  deriving DecidableEq, Repr

/-- What the trace notes of a landing: predicates from PLO to PHI, and masks of KSEL (R461). -/
def landNotes (t : Trace) (x : Ctx) (r : Result) : List Note :=
  if r.t then []
  else
    let v := (r.val.eval x.ctl.dph).1
    match r.loc with
    | .p => ((List.range 96).filter fun i => r.mask.testBit i && decide (0 < i ∧ bits t.ctl 38 32 ≤ i ∧ i ≤ bits t.ctl 46 40)).map fun i =>
        ⟨2, 2, slotNo r.slot, i + if v.testBit i then 128 else 0⟩
    | .k n => if n = 0 || !bit t.ctl (48 + n) then [] else
        [⟨3, 3, slotNo r.slot, n + 256 * popCount (merge (x.file r.loc) v r.mask) 128⟩]
    | _ => []

/-- RESULT_LANDING for every result due at this bundle, at most `n` of them, then the pending DPH advances (R29, R31, R163). -/
def landResults (t : Trace) : Nat → Ctx → Ctx × List Note
  | 0, x => (x.landNext, [])
  | n + 1, x =>
    match x.nextResult with
    | none => (x.landNext, [])
    | some r =>
      let (y, ns) := landResults t n x.landNext
      (y, (if t.on then landNotes t x r else []) ++ ns)

/-- CELL_LANDING, at most `n` times (R219). -/
def landCells : Nat → Core × Ctx → Core × Ctx
  | 0, kx => kx
  | n + 1, kx => landCells n (landCell kx.1 kx.2)

/-- TRANSPOSER_CHANGE_LANDS, at most `n` times (R253). -/
def landChanges : Nat → Ctx → Ctx
  | 0, x => x
  | n + 1, x => landChanges n (landTransposer x)

/-- Everything that lands at the next bundle of core `c`, and what the trace notes of it. The reads of MSTEPs come last (R296). DEDUCED: log entry 19. DEDUCED: log entry 32. DESIGN CHOICE: log entry 102. -/
def landDue (s : State) (c : Nat) : State × List Note :=
  match s.ctx c with
  | none => (s, [])
  | some x =>
    let k := s.core c
    let (x, ns) := landResults k.trace x.results.length x
    let (k, x) := landCells (2 * x.cellRes.length) (k, x)
    let (mem, x) := commitStores k.mem x
    let x := landChanges x.tchg.length x
    let k : Core := { k with mem }
    (s.setCore c { k with ctx := some (readMsteps k x) }, ns)

/-! ### Fetch (R14 to R24) -/

/-- A 64-bit word of a core's scratchpad. -/
def fetchWord (s : State) (c a : Nat) : Nat := ofBytes (SMap.read (s.core c).mem a 8)

/-- What a fetch gives: a precise fault with the cause, its detail, the word and the slot of its stop record; or a bundle's header, its length and its syllables. -/
inductive Fetched where
  | fault (cause detail word slot : Nat)
  | ok (hdr len : Nat) (syls : List (Slot × Nat × Instr))
  deriving DecidableEq, Repr

/-- Decodes the words of the present slots from `a` upward; the first syllable that is refused is the fault (R24). -/
def decodeSlots (s : State) (c pc len : Nat) : Nat → List Slot → Fetched
  | _, [] => .ok 0 len []
  | a, sl :: sls =>
    let w := fetchWord s c a
    match decodeAt (some (pc, len)) sl w with
    | .refused code => .fault Cause.illegal.code code w (slotNo sl)
    | .ok i =>
      match decodeSlots s c pc len (a + 8) sls with
      | .fault e d w n => .fault e d w n
      | .ok h l is => .ok h l ((sl, w, i) :: is)

/-- Fetches and checks the bundle at a context's program counter (R14, R24). -/
def fetch (s : State) (c : Nat) (x : Ctx) : Fetched :=
  let hdr := fetchWord s c x.pc
  match headerCause hdr x.translated with
  | some code => .fault Cause.illegal.code code hdr 255
  | none =>
    let len := bundleLength hdr
    if 0x800000 < x.pc + len then .fault Cause.bounds.code 0 hdr 255
    else match decodeSlots s c x.pc len (x.pc + 8) (presentSlots hdr) with
      | .fault e d w n => .fault e d w n
      | .ok _ l is => .ok hdr l is

/-! ### The syllables of a bundle -/

/-- A syllable that runs after the others of its bundle: SHRD reads what they leave (R184), and the B slot turns the register file for the next bundle (R145). -/
def lastRank : Instr → Nat
  | .shrd _ _ => 1
  | i => if (match i.parts with
      | some (.b, _) => true
      | _ => false) then 2 else 0

/-- The order in which the syllables of a bundle act. DEDUCED: log entry 20. DESIGN CHOICE: log entry 101. -/
def actOrder (is : List (Slot × Nat × Instr)) : List (Slot × Nat × Instr) :=
  is.filter (fun e => lastRank e.2.2 == 0) ++ is.filter (fun e => lastRank e.2.2 == 1) ++ is.filter (fun e => lastRank e.2.2 == 2)

/-- What the syllables of a bundle have done so far: the state as they leave it, the first that waits, a precise fault, and the memory command the trace notes. -/
structure Tally where
  s : State
  held : Option Nat
  stop : Option FaultInfo
  note : Option Nat
  deriving DecidableEq, Repr

/-- The fault that was raised last for the partition of core `c`. -/
def lastRaised (s : State) (c : Nat) : Option FaultInfo :=
  (s.ctx c).bind fun x => (s.part x.part).halt.bind fun h => h.faults.getLast?

/-- KIND 4's DATA for a D-slot syllable that has acted: the opcode and the tag of its command (Table 19.2). TRIG leaves a record of its own. -/
def commandNote (w : Nat) (i : Instr) (x y : Ctx) : Option Nat :=
  match i.parts with
  | some (.d, o, h, _) =>
    if o = 0x25 || !x.guard h then none
    else some (w >>> 57 + 2 ^ 16 * match i with
      | .cpy _ f => f.a.toNat
      | _ => if x.ltag = y.ltag then 0 else x.ltag)
  | _ => none

/-- One syllable of the bundle on core `c`; none runs after a precise fault. -/
def runOne (c : Nat) (t : Tally) (w : Nat) (i : Instr) : Host.Outcome Tally Fault Refusal :=
  if t.stop.isSome || (t.s.ctx t.s.cur).isNone then .next t
  else
    match runSyllable i t.s with
    | .fault f => .fault f
    | .refused r => .refused r
    | .next s =>
      match t.s.ctx c, s.ctx c with
      | some x, some y =>
        if y.state = .stopped then .next { t with s, stop := lastRaised s c }
        else if y.state = .held then .next { t with s := s.setCtx c { y with state := .run }, held := some (t.held.getD w) }
        else .next { t with s, note := t.note.or (commandNote w i x y) }
      | _, _ => .next { t with s }

/-- The syllables of a bundle, in turn. DEDUCED: log entry 20. -/
def runAll (c : Nat) : List (Slot × Nat × Instr) → Tally → Host.Outcome Tally Fault Refusal
  | [], t => .next t
  | e :: is, t =>
    match runOne c t e.2.1 e.2.2 with
    | .next t => runAll c is t
    | .fault f => .fault f
    | .refused r => .refused r

/-! ### The boundary after a bundle -/

/-- The bundle's pops: each port it read gives up its head entry (R258). -/
def Ctx.popAll (x : Ctx) : Ctx :=
  { x.pops.foldl (fun y j => match y.stream j with
      | some st => y.setStream j (some { st with queue := st.queue.drop 1, count := st.count + 1 })
      | none => y) x with pops := [] }

/-- R148: the end of a pass, with the address of the next bundle. -/
def Ctx.repCheck (x : Ctx) (next : Nat) : Ctx × Nat :=
  if x.ctl.repc ≠ 0 ∧ x.ctl.repEnd ≤ next then
    if 1 < x.ctl.repc then ({ x with ctl := { x.ctl with repc := x.ctl.repc - 1 } }, x.ctl.repStart)
    else ({ x with ctl := { x.ctl with repc := 0 } }, next)
  else (x, next)

/-- The boundary after a bundle whose end is `next`: pops, the transfer or the end of a pass, the bundle count, and the bypass window (R27, R29, R137, R148, R258). DEDUCED: log entry 24. DEDUCED: log entry 21. -/
def Ctx.endBundle (x : Ctx) (next : Nat) : Ctx :=
  let x := x.popAll
  let (x, a) := match x.jump with
    | some a => ({ x with ctl := { x.ctl with repc := 0 } }, a)
    | none => if x.ctl.nopr = 0 then x.repCheck next else (x, next)
  { x with pc := a % 2 ^ 23, bn := x.bn + 1, jump := none, l3 := false, lastPc := if next % 2 ^ 23 = x.pc then x.lastPc else x.pc }.expire

/-- A fault due at the boundary, SW_TRAP, QUIRE_OV or LIVE_RECORD: the context stops before its next bundle (R160, R161, R234). DEDUCED: log entry 23. DEDUCED: log entry 22. -/
def boundaryFault (s : State) (c : Nat) : State :=
  match s.ctx c with
  | none => s
  | some x =>
    match x.pend with
    | none => s
    | some (cause, detail, va) =>
      let y : Ctx := { x with pend := none, state := if x.state = .ended then .ended else .stopped }
      (s.setCtx c y).raise x.part { unit := unitIssue c, kind := 0, cause, tag := 0, pc := x.pc, va, count := 0, detail, job := x.job
                                    syl := 0, slot := 0, cycle := s.cycle }

/-- The bundle on core `c` is over; `next` is the address past it. DEDUCED: log entry 22. -/
def endBundle (s : State) (c next : Nat) : State :=
  let s : State := { s with latch := [], blen := 0 }
  boundaryFault (s.onCtx c fun x => x.endBundle next) c

/-! ### Trace (R460 to R462) -/

/-- Enters one record for the bundle at `pc`. -/
def noteOne (s : State) (c pc : Nat) (n : Note) : State :=
  s.onTrace c fun t => t.note n.bit (s.mtime % 2 ^ 48) n.kind n.aux pc n.data

/-- The end of the stall, when the bundle at issue has stalled. -/
def noteStallEnd (s : State) (c pc : Nat) : State :=
  match (s.core c).trace.stallAt with
  | none => s
  | some a => (noteOne s c pc ⟨5, 6, 0, min (s.cycle - a) (2 ^ 32 - 1)⟩).onTrace c fun t => { t with stallAt := none }

/-- The bundle begins to stall on the syllable `w`, unless it already does. -/
def noteStallBegin (s : State) (c pc w : Nat) : State :=
  match (s.core c).trace.stallAt with
  | some _ => s
  | none => (noteOne s c pc ⟨5, 5, 0, w >>> 57⟩).onTrace c fun t => { t with stallAt := some s.cycle }

/-- What landed at the bundle at `pc`, as the trace records it (R461). -/
def noteLandings (s : State) (c pc : Nat) (ns : List Note) : State :=
  if !(s.core c).trace.on then s else ns.foldl (fun s n => noteOne s c pc n) s

/-- The records of a bundle that has issued, in the order of R461; then the match of TPC. DEDUCED: log entry 82. -/
def noteIssue (s : State) (c : Nat) (x : Ctx) (cmd : Option Nat) (ns : List Note) : State :=
  if !(s.core c).trace.on then s
  else
    let s := match cmd with
      | some d => noteOne s c x.pc ⟨4, 4, 0, d⟩
      | none => s
    let s := noteLandings s c x.pc ns
    let s := match (s.ctx c).bind Ctx.jump with
      | some a => noteOne s c x.pc ⟨1, 1, 0, a⟩
      | none => s
    (tracePcMatch c s).getD s

/-! ### Issue -/

/-- The points at which `new` has arrived and waits, and `old` has not: the arrivals that an RVAW of a held bundle has sent (R154). -/
def newMarks (old new : Ctx) : List Nat := (List.range 24).filter fun j => (new.rvTask j).mark && !(old.rvTask j).mark

/-- The bundle does not issue: `s` is the machine before it, `f` its fault (R24, R25). -/
def stopIssueAt (s : State) (c : Nat) (x : Ctx) (f : FaultInfo) : State :=
  (s.setCtx c { x with state := .stopped }).raise x.part f

/-- The bundle waits at issue, on the syllable `w`: nothing of it has happened but the arrivals of its RVAW (R32, R154). -/
def holdAt (s : State) (c : Nat) (x : Ctx) (w : Nat) (tried : State) : State :=
  let s := noteStallBegin (s.setCtx c { x with state := .held }) c x.pc w
  match tried.ctx c with
  | some y => (newMarks x y).foldl (fun s j => arrive s c j true) s
  | none => s

/-- The machine as the syllables of a bundle find it: everything due has landed, and the words of the bundle stand in the issue latch. -/
def readied (s : State) (c hdr len : Nat) (x : Ctx) (is : List (Slot × Nat × Instr)) : State :=
  let s := noteStallEnd s c x.pc
  let s := s.onCtx c fun x => { x with state := .run, l3 := hdr.testBit 49 }
  { s with cur := c, blen := len, latch := is.foldl (fun m e => SMap.put 0 m (slotNo e.1) e.2.1) [] }

/-- The bundle at the program counter of core `c` issues, waits, or faults (R14 to R34). A bundle that waits or faults leaves the machine as it was before, so that what is due lands when a bundle issues. -/
def issueBundle (c : Nat) (s : State) : Out :=
  match s.ctx c with
  | none => .next s
  | some x =>
    let (s1, ns) := landDue s c
    match fetch s1 c x with
    | .fault cause detail word slot =>
      .next (stopIssueAt s c x { unit := unitIssue c, kind := 0, cause, tag := 0, pc := x.pc, va := 0, count := 0, detail, job := x.job
                                 syl := word, slot, cycle := s.cycle })
    | .ok hdr len is =>
      match runAll c (actOrder is) ⟨readied s1 c hdr len x is, none, none, none⟩ with
      | .fault f => .fault f
      | .refused r => .refused r
      | .next t =>
        match t.stop with
        | some f => .next (stopIssueAt s c x f)
        | none =>
          match t.held with
          | some w => .next (holdAt s c x w t.s)
          | none => .next (endBundle (noteIssue t.s c x t.note ns) c (x.pc + len))

/-- An empty bundle of a NOPN issues on core `c` (R149): its count falls, and after the last one the NOPN's end is checked against a repeat. What lands then is recorded at the NOPN's address (R460). A NOPN that ends at the top of the scratchpad has left the program counter at 0. -/
def issueNop (c : Nat) (s : State) : State :=
  match s.ctx c with
  | none => s
  | some x =>
    let (s, ns) := landDue s c
    let s := s.onCtx c fun x => { x with ctl := { x.ctl with nopr := x.ctl.nopr - 1 }, state := .run }
    endBundle (noteLandings s c x.lastPc ns) c (if x.pc = 0 then 0x800000 else x.pc)

/-- Something of the context has still to land. -/
def Ctx.flying (x : Ctx) : Bool :=
  !(x.results.isEmpty && x.cellRes.isEmpty && x.msteps.isEmpty && x.tchg.isEmpty && x.stores.isEmpty && x.bypass.isEmpty && x.dphAdv == 0)

/-- The results of an ended task land, one bundle after another, while no bundle issues (R161); the trace records them at its last bundle. DEDUCED: log entry 82. -/
def drainEnded (c : Nat) (s : State) : State :=
  match s.ctx c with
  | none => s
  | some x =>
    if x.flying then
      let (s, ns) := landDue s c
      let s := noteLandings s c x.lastPc ns
      boundaryFault (s.onCtx c fun x => { x with bn := x.bn + 1 }.expire) c
    else s

/-- One issue cycle of core `c`. -/
def issue (c : Nat) (s : State) : Out :=
  match s.ctx c with
  | none => .next s
  | some x =>
    if x.state = .ended then .next (drainEnded c s)
    else if x.state = .run ∨ x.state = .held then (if x.ctl.nopr = 0 then issueBundle c s else .next (issueNop c s))
    else .next s

/-! ### The steps of the opcode table that stand here -/

/-- STALL_END: the bundle that waits at issue on core `c` is tried again, and issues whole where every stall condition is met (R32); in a halt the core stops before it (R34, R400). -/
def execStallEnd (c : Nat) (s : State) : Out :=
  match s.ctx c with
  | none => .next s
  | some x => if x.state = .held ∧ (s.part x.part).halt = none then issueBundle c s else .next s

/-- EMPTY_BUNDLE: a bundle of a header alone issues on the current core (R16). -/
def execEmptyBundle (s : State) : Out :=
  match s.ctx s.cur with
  | none => .next s
  | some x =>
    let (s1, ns) := landDue s s.cur
    .next (endBundle (noteIssue s1 s.cur x none ns) s.cur (x.pc + 8))

/-- RESULT_LANDING on core `c`: the next result that is due lands (R29). -/
def execResultLanding (c : Nat) (s : State) : Out :=
  .next (s.onCtx c fun x => if x.nextResult.isSome then x.landNext else x)

/-- CELL_LANDING on core `c` (R219). -/
def execCellLanding (c : Nat) (s : State) : Out :=
  match s.ctx c with
  | none => .next s
  | some x =>
    let (k, y) := landCell (s.core c) x
    .next (s.setCore c { k with ctx := some y })

/-- RENDEZVOUS_ARRIVAL: the `k`-th arrival on its way to the points of a team that runs performs its release at team scope, after every earlier command of its task, and is counted (R154, R155). The points of a pre-empted team stay as they are (R152). DEDUCED: log entry 48. -/
def rendezvousArrival (p t k : Nat) (s : State) : Option State := do
  let m ← s.team p t
  let a ← m.arrivals[k]?
  let x ← s.ctx a.core
  if m.phase != .running || x.team != t || !x.drained s a.issued then none
  else some (countArrival ((s.released a.core 1).onTeam p t fun m => { m with arrivals := dropAt m.arrivals k }) p t a.point s.mtime)

def execRendezvousArrival (p t k : Nat) (s : State) : Out := engine (rendezvousArrival p t k) s

end Sys2Proof.Machine
end

