-- ==== Sys2Proof/Machine/Convert.lean ====
section
/-!
DEFINITION. The format converter of a stack (R372 to R374) and the allocations of its crucible (R366, Table 14.1).
-/

namespace Sys2Proof.Machine

/-- The fields of CVCTL: SRC, DST, RND, S, FI, FO and DPH. -/
def cvSrc (v : Nat) : Nat := bits v 4 0
def cvDst (v : Nat) : Nat := bits v 9 5
def cvRnd (v : Nat) : Nat := bits v 12 10
def cvDph (v : Nat) : Nat := bits v 20 16

/-- R372, check 3: a format that is not assigned, B4, or E8M0 as a destination. -/
def cvFormats (v : Nat) : Bool :=
  (fmtOf (cvSrc v)).isSome && (fmtOf (cvDst v)).isSome && cvSrc v != 5 && cvDst v != 5 && cvDst v != 12

/-- R372, check 4: the range lies in stack `k`'s die-local window of 64 GiB (R76, R77). -/
def cvRange (k a n v : Nat) : Bool :=
  let lo := 0x008000000000 + k * 2 ^ 36
  decide (lo ≤ a ∧ a + max (fmtWidth (cvSrc v)) (fmtWidth (cvDst v)) * n / 8 ≤ lo + 2 ^ 36)

/-- The first failing check of a GO that no running conversion forbids (R372), or 0; in reduced service the converter is absent (R468). DEDUCED: log entry 80. -/
def cvCause (s : State) (k : Nat) (v : Word) : Nat :=
  let x := s.stack k
  if s.mgmt.phase < 5 then 1
  else if fld v 62 21 ≠ 0 ∨ 6 ≤ cvRnd v.toNat then 3
  else if !cvFormats v.toNat then 2
  else if !cvRange k x.cvaddr x.cvcnt v.toNat then 1
  else 0

/-- CVCTL_GO: a write of CVCTL on stack `k` (R372, R373). DEDUCED: log entry 80. -/
def cvctlGo (k : Nat) (v : Word) (s : State) : State :=
  let s := s.onStack k fun x => { x with cvctl := fld v 20 0 }
  if !v.getLsbD 63 then s
  else if (s.stack k).cvstate = 1 then s.onStack k fun x => { x with cvcause := 4 }
  else
    let c := cvCause s k v
    s.onStack k fun x =>
      { x with cvflags := 0, cvdone := 0, cvcause := c, cvstate := if c = 0 then 1 else 3, runAddr := x.cvaddr, runCnt := x.cvcnt, runCtl := fld v 20 0 }

/-- R373: the conversion of element `i`. -/
def convertOne (k : Nat) (s : State) (i : Nat) : State :=
  let x := s.stack k
  let c := x.runCtl
  let ws := fmtWidth (cvSrc c)
  let wd := fmtWidth (cvDst c)
  let (r, f) := convert (cvSrc c) (cvDst c) (cvRnd c) (bit c 13) (bit c 14) (bit c 15) (i % 32) (ofBytes (s.readPhys (x.runAddr + i * ws / 8) (ws / 8)))
  let (code, g) := r.eval (cvDph c)
  (s.writePhys (x.runAddr + i * wd / 8) (bytesOf code (wd / 8))).onStack k fun x =>
    { x with cvdone := x.cvdone + 1, cvflags := x.cvflags ||| f ||| g }

/-- R373: the order of a conversion's elements. -/
def cvOrder (x : Stack) : List Nat :=
  let l := List.range x.runCnt
  if fmtWidth (cvDst x.runCtl) ≤ fmtWidth (cvSrc x.runCtl) then l else l.reverse

/-- CONVERSION_COMPLETE (R373). -/
def conversionComplete (k : Nat) (s : State) : Option State :=
  if (s.stack k).cvstate = 1 then
    some (((cvOrder (s.stack k)).foldl (convertOne k) s).onStack k fun x => { x with cvstate := 2 })
  else none

/-- R373: an uncorrectable error ends a conversion after some of its elements; which one met it is a free value. -/
def converterError (k : Nat) (s : State) : State :=
  if (s.stack k).cvstate = 1 then
    let (u, s) := s.choose
    let l := cvOrder (s.stack k)
    (((l.take (Config.pick u % l.length)).foldl (convertOne k) s).onStack k fun x => { x with cvstate := 3, cvcause := 5 }).msi 33
  else s

/-- CRALLOC_WRITE: the allocation of partition `n` on stack `k` (R366, Table 14.1). -/
def crallocWrite (k n : Nat) (v : Word) (s : State) : State :=
  let b := fld v 15 0
  let l := fld v 32 16
  if (s.part n).en ∨ 65536 < b + l then s
  else s.onStack k fun x =>
    { x with cralloc := SMap.put 0 x.cralloc n (fld v 32 0), cells := SMap.erase (fun c => decide (b ≤ c ∧ c < b + l)) x.cells }

def execCvctlGo (k : Nat) (v : Word) (s : State) : Out := .next (cvctlGo k v s)
def execConversionComplete (k : Nat) (s : State) : Out := engine (conversionComplete k) s
def execCrallocWrite (k n : Nat) (v : Word) (s : State) : Out := .next (crallocWrite k n v s)

end Sys2Proof.Machine
end

