-- ==== Sys2Proof/Machine/Ports.lean ====
section
/-!
DEFINITION. The berths (R442 to R452), requests that arrive through them (R445), and the host port's link (R453 to R456).
-/

namespace Sys2Proof.Machine

/-! ### Changing personality (R449) -/

/-- The vector of berth `b` (Table 18.5). -/
def berthMsi (s : State) (b : Nat) : State := s.msi (16 + b)

/-- Packet `x` is to leave through berth `b`, or has left, is not held, and is no landing request, which `Req` follows. DESIGN CHOICE: log entry 105. -/
def Packet.toBerth (b : Nat) (x : Packet) : Bool := match x.dest, x.body, x.origin with
  | .berth _ _, .write _ _ true, _ => false
  | .berth _ _, .reply _, _ => false
  | .berth _ _, _, .land _ _ => false
  | .berth b' _, _, _ => b' == b
  | _, _, _ => false

/-- The berth stops (R449, step 1). Which of the packets on their way it had accepted by then is free: those drain, the others wait. DESIGN CHOICE: log entry 105. -/
def stopBerth (s : State) (b : Nat) : State :=
  let up := (s.berth b).state = 3 ∧ !(s.berth b).down
  { s.onBerth b fun x => { x with state := 1, drainAt := s.cycle } with
    free := s.free + 1
    fabric := s.fabric.zipIdx.map fun e => { e.1 with inside := if e.1.toBerth b then decide up && Config.race 512 s.free (8 + e.2) else e.1.inside } }

/-- PERS_WRITE: the checks, and the stop (R449, step 1). DEDUCED: log entry 73. -/
def persWrite (b : Nat) (v : Word) (s : State) : State :=
  let n := fld v 1 0
  let x := s.berth b
  if x.state = 1 ∨ x.state = 2 then s.onBerth b fun x => { x with err := 1 }
  else if State.holdBytes x.hold ≠ 0 then s.onBerth b fun x => { x with err := 2 }
  else if n = x.cur ∧ (x.state = 3 ∨ x.state = 0) then s
  else stopBerth (s.onBerth b fun x => { x with pers := n, err := 0 }) b

/-- A write of PERS is accepted: none of R449's refusals holds. -/
def persAccepted (s : State) (b : Nat) : Bool :=
  let x := s.berth b
  x.state != 1 && x.state != 2 && State.holdBytes x.hold == 0

/-- A request that went out through berth `b`. -/
def Req.via (b : Nat) (r : Req) : Bool := r.packets.any fun q => match q.dest with
  | .berth b' _ => b' == b
  | _ => false

/-- Every request that the berth has accepted has its reply, and it owes none (R449, step 2). -/
def berthDrained (s : State) (b : Nat) : Bool :=
  (!s.reqs.any fun r => r.via b) && !s.fabric.any fun q => (q.inside && q.toBerth b) || match q.origin with
    | .berth b' _ => b' == b
    | _ => false

/-- Steps 4 and 5 of a switch to Off. -/
def powerDown (s : State) (b : Nat) : State :=
  berthMsi (s.onBerth b fun x => { x with cur := 0, lanes := 0, state := 0, switches := (x.switches + 1) % 2 ^ 32 }) b

/-- Step 3: the lanes train, or power down. -/
def retrain (s : State) (b : Nat) : State :=
  if (s.berth b).pers = 0 then powerDown s b else s.onBerth b fun x => { x with state := 2 }

/-- BERTH_DRAIN_COMPLETE (R449, steps 2 and 3). -/
def berthDrainComplete (b : Nat) (s : State) : Option State :=
  if (s.berth b).state = 1 ∧ berthDrained s b then some (retrain s b) else none

/-- The requests that wait for a reply through berth `b` fault with BERTH_GONE under their tags (R443, R449). -/
def reqsGone (s : State) (b : Nat) : State :=
  (s.reqs.filter fun r => r.via b).foldl (fun s r =>
    match s.ctx r.core, r.cmd s with
    | some x, some e => cmdFault (giveUp s r) r.core x e (unitLanding r.core) Cause.berthGone.code 0
    | _, _ => giveUp s r) s

/-- The packets that the berth had accepted fault with BERTH_GONE, and wait again (R449, step 2). DESIGN CHOICE: log entry 105. -/
def acceptedGone (s : State) (b : Nat) : State :=
  let t := (s.fabric.filter fun q => q.inside && q.toBerth b).foldl (fun s q => (pathFault s q).getD s) s
  { t with fabric := t.fabric.map fun q => if q.toBerth b then { q with inside := false } else q }

/-- DRAIN_TIMEOUT (R449, step 2). -/
def drainTimeout (b : Nat) (s : State) : Option State :=
  let x := s.berth b
  if x.state = 1 ∧ !berthDrained s b ∧ x.drainTo ≤ s.cycle - x.drainAt then
    some (retrain ((acceptedGone (reqsGone s b) b).onBerth b fun x => { x with err := 4 }) b)
  else none

/-- BERTH_TRAINING_COMPLETE: `lanes` lanes have trained, and the key's limit is `klimit` (R449, steps 3 to 5). -/
def berthTrainingComplete (b lanes : Nat) (klimit : Word) (s : State) : Option State :=
  if (s.berth b).state ≠ 2 then none
  else if lanes < 4 then some (berthMsi (s.onBerth b fun x => { x with state := 4, err := 3, lanes, cur := 0 }) b)
  else some (berthMsi (s.onBerth b fun x =>
    { x with state := 3, cur := x.pers, lanes := 4, switches := (x.switches + 1) % 2 ^ 32, ktx := 0, klimit := klimit.toNat
             klow := false, kexh := false, lowSeen := false, down := false }) b)

/-- BERTH_LOSS: the link or the CXL device stops responding (R443). -/
def berthLoss (b : Nat) (s : State) : State := reqsGone (s.onBerth b fun x => { x with down := true }) b

/-! ### Link keys (R451, R452) -/

/-- KGO: the pending key is in force at the next flit boundary. -/
def kgo (b : Nat) (s : State) : State :=
  s.onBerth b fun x => if x.state = 1 ∨ x.state = 2 then x else { x with ktx := 0, klow := false, kexh := false, lowSeen := false }

/-- KEY_LOW. -/
def keyLow (b : Nat) (s : State) : Option State :=
  let x := s.berth b
  if (x.state = 3 ∨ x.state = 1) ∧ !x.lowSeen ∧ x.klimit ≤ x.ktx + 2 ^ 20 then some (berthMsi (s.onBerth b fun x => { x with klow := true, lowSeen := true }) b) else none

/-- KEY_EXHAUSTED. -/
def keyExhausted (b : Nat) (s : State) : Option State :=
  let x := s.berth b
  if (x.state = 3 ∨ x.state = 1) ∧ !x.kexh ∧ x.klimit ≤ x.ktx then some (berthMsi (s.onBerth b fun x => { x with kexh := true }) b) else none

/-- A W1C write of KSTAT: an exhausted key sets KEXH again in the same cycle (R451). -/
def kstatWrite (s : State) (b : Nat) (v : Word) : State :=
  s.onBerth b fun x => { x with klow := x.klow && !v.getLsbD 0
                                kexh := (x.kexh && !v.getLsbD 1) || (x.kexh && decide (x.klimit ≤ x.ktx)) }

/-! ### Requests from other modules (R445) -/

/-- The partition that a request is admitted to: that of the target core, or any whose key matches. -/
def admitTo (s : State) (r : RemoteRequest) : Option Nat :=
  let key (p : Nat) : Bool := (s.part p).en && (s.part p).key != 0 && (s.part p).key == r.key.toNat
  match r.op with
  | .put x y _ _ _ _ _ _ => (List.range 16).find? fun p => (s.part p).en && (s.part p).holds (32 * y + x) && key p
  | _ => (List.range 16).find? key

/-- An operation of an admitted request at its home, for an address that `n` divides, with the crucible stack of an ARED (R353). -/
def remoteOp (s : State) (p pa n : Nat) (op : LOp) : List (Dest × Body) :=
  match checkLocal s p .both false false true pa with
  | .inl (.home h a) => if pa % n = 0 ∧ (op.isAred = false ∨ s.hasCrucibles = true) then [(.home h, .op a (crucibleOf a) op)] else []
  | _ => []

/-- The packets of an admitted request. DEDUCED: log entry 47. -/
def remotePackets (s : State) (r : RemoteRequest) (p : Nat) : List (Dest × Body) :=
  match r.op with
  | .put x y addr ln ring sig data flag =>
    let d := Dest.core (32 * y + x)
    if sig then [(d, .sig ln)]
    else
      let n := max 1 ((data.length + 127) / 128)
      (List.range n).map fun i => (d, .put i n ring addr (128 * i) ((data.drop (128 * i)).take 128) data.length ln flag)
  | .read pa len =>
    match checkLocal s p .read false false true pa, checkLocal s p .read false false true (pa + len - 1) with
    | .inl (.home h a), .inl (.home _ _) => if len ≤ 64 ∧ pa % 64 + len ≤ 64 then [(.home h, .read 0 0 (a / 64))] else []
    | _, _ => []
  | .write pa data =>
    match checkLocal s p .write false false true pa, checkLocal s p .write false false true (pa + data.length - 1) with
    | .inl (.home _ a), .inl (.home _ _) =>
      (List.range ((pa % 64 + data.length + 63) / 64)).map fun i =>
        let bs := data.zipIdx.filter fun e => decide ((pa % 64 + e.2) / 64 = i)
        let home := match checkLocal s p .write false false true (pa / 64 * 64 + 64 * i) with
          | .inl (.home h b) => (h, b)
          | _ => (homeOf a, a)
        (.home home.1, .write (bs.map fun e => (home.2 + (pa % 64 + e.2) % 64, e.1, 0xFF#8)) 1 false)
    | _, _ => []
  | .atomic pa op wide v => if op ≤ 13 then remoteOp s p pa (if wide then 8 else 4) (.aop 0 pa op wide v none) else []
  | .swap pa wide _ => remoteOp s p pa (if wide then 8 else 4) (.acas 0 pa wide 0)
  | .swapWords pa n _ => if 1 ≤ n ∧ n ≤ 4 ∧ pa % 64 + 8 * n ≤ 64 then remoteOp s p pa 8 (.acasw 0 pa n 0) else []
  | .enqueue pa v => remoteOp s p pa 4096 (.aenq 0 pa v 0)
  | .chase pa start limit off =>
    match checkLocal s p .load false false true pa with
    | .inl (.home h a) => if pa % 8 = 0 then [(.home h, .chase ⟨start, 0, limit, off, h⟩ a)] else []
    | _ => []
  | .crucibleAdd pa fmt cell v => remoteOp s p pa (fmtWidth fmt / 8) (.ared 0 pa fmt v cell)
  | .crucibleFin pa fmt mode cell => remoteOp s p pa (fmtWidth fmt / 8) (.aredFin 0 pa fmt mode cell)
  | .raise pa jcb n => remoteOp s p pa 8 (.jraise 0 jcb n false)
  | .post pa jcb n => remoteOp s p pa 8 (.jpost 0 jcb n false)
  | .release n => [(if n < 10 then .home n else .core (n - 10), .release)]

/-- The operand block that a request carries (R350). -/
def requestBlock : RemoteOp → List Byte
  | .swap _ _ bs => bs
  | .swapWords _ _ bs => bs
  | _ => []

/-- The release of a source, which has no reply (R377). -/
def isRelease : RemoteOp → Bool
  | .release _ => true
  | _ => false

/-- A packet of a request that arrives through a berth. -/
def inboundPacket (r : RemoteRequest) (p job : Nat) (d : Dest) (b : Body) : Packet :=
  { origin := .berth r.berth r.seq, part := p, dest := d, src := 512 + 512 * r.module + r.core, seq := r.seq, floor := r.floor
    time := SMap.put 0 [] 4 r.time, job, body := b, since := none, block := requestBlock r.op }

/-- REMOTE_REQUEST_ADMISSION: a request through a berth enters the fabric for the partition whose key it carries, or is answered with a refusal and nothing applied (R445). A write of a sender outside the partition's group has been sealed there, and is not logged here (R429); a home whose converter works on its bytes refuses it (R374). DEDUCED: log entry 47. -/
def remoteRequest (r : RemoteRequest) (s : State) : State :=
  if (s.berth r.berth).state = 3 ∧ !(s.berth r.berth).down ∧ ((s.berth r.berth).isUal ∨ (s.berth r.berth).isUet) then
    let turned (s : State) : State := if isRelease r.op then s else replyTo s (inboundPacket r 16 0 .dispatch .release) .refused
    match admitTo s r with
    | none => turned s
    | some p =>
      let job := match r.op with
        | .put x y _ _ _ _ _ _ => ((s.ctx (32 * y + x)).map Ctx.job).getD 0
        | _ => 0
      let ps := (remotePackets s r p).map fun (d, b) => inboundPacket r p job d b
      if ps.isEmpty then turned s
      else if r.gid = (s.part p).gid then { s with fabric := s.fabric ++ ps }
      else ps.foldl (fun s q => match q.body with
        | .write bs _ _ =>
          if bs.any fun b => s.converting b.1 then replyTo s q (.fault Cause.convertBusy.code 0 10)
          else replyTo { s with mem := State.mergeBytes s.mem bs } q .done
        | _ => { s with fabric := s.fabric ++ [q] }) s
  else s

/-! ### The host link (R456) -/

/-- HOST_LINK_LOSS. -/
def hostLinkLoss (s : State) : State := { s with hostUp := false }

/-- HOST_LINK_RETURN: held writes of committed pours leave again, oldest first. -/
def hostLinkReturn (s : State) : State := { s with hostUp := true }

/-- The first element of a copy that waits to be read from the host, or from another module, with its burst and its place. -/
def copyWait (s : State) (k : Copy) : Option (Burst × Nat × Target) :=
  match k.src with
  | .ring _ => none
  | .view v =>
    if k.stopped then none
    else k.bursts.findSome? fun b => (range b.pos b.hi).findSome? fun i =>
      if b.got.any fun e => e.1 == i then none
      else match spotOf s k .read v i with
        | .at_ g => match g.tgt with
          | .host _ => if s.hostUp then none else some (b, i, g.tgt)
          | .remote c _ _ => if s.berthOpen c then none else some (b, i, g.tgt)
          | _ => none
        | _ => none

/-- Notes since when copies have waited for the host link, or for another module. -/
def noteHostWaits (s : State) : State :=
  { s with copies := s.copies.map fun k => 
    if (copyWait s k).isSome then { k with since := some (k.since.getD s.cycle), fto := if k.since.isSome then k.fto else s.mgmt.fto }
    else { k with since := none } }

/-- What packet `x` of the fabric asked for has not come: the host's read faults, and another module is lost (R359, R456). -/
def readTimeout (x : Packet) (s : State) : Option State :=
  match x.dest with
  | .berth _ m => some (loseModule s x.part m)
  | _ => pathFault s x

/-- R359, R456: a read of the host, or a read or write of another module, has waited for the fabric timeout. `i` counts the packets of the fabric, then the copies. -/
def hostTimeout (i : Nat) (s : State) : Option State :=
  let late (fto t : Nat) : Bool := decide (s.usCycles fto ≤ s.cycle - t)
  match s.fabric[i]? with
  | some x => do
    let t ← x.since
    if readWait s x && late x.fto t then readTimeout x s else none
  | none => do
    let k ← s.copies[i - s.fabric.length]?
    let t ← k.since
    let (b, e, tgt) ← copyWait s k
    if !late k.fto t then none
    else match k.src, tgt with
      | .view v, .host _ => some ((s.meet k b e Cause.berthGone.code (v.addr e % k.modulus)).onCopy k.id fun k => { k with since := none })
      | _, .remote _ m _ => some (loseModule s k.part m)
      | _, _ => none

/-- FABRIC_TIMEOUT: of request `k`, or past the requests of a read that waits for the host link or for another module (R346, R359, R456). -/
def fabricTimeoutAny (k : Nat) (s : State) : Option State :=
  if k < s.reqs.length then fabricTimeout k s else hostTimeout (k - s.reqs.length) s

def execBerthDrainComplete (b : Nat) (s : State) : Out := engine (berthDrainComplete b) s
def execDrainTimeout (b : Nat) (s : State) : Out := engine (drainTimeout b) s
def execBerthTrainingComplete (b lanes : Nat) (klimit : Word) (s : State) : Out := engine (berthTrainingComplete b lanes klimit) s
def execBerthLoss (b : Nat) (s : State) : Out := .next (berthLoss b s)
def execKgo (b : Nat) (s : State) : Out := .next (kgo b s)
def execKeyLow (b : Nat) (s : State) : Out := engine (keyLow b) s
def execKeyExhausted (b : Nat) (s : State) : Out := engine (keyExhausted b) s
def execRemoteRequestAdmission (r : RemoteRequest) (s : State) : Out := .next (remoteRequest r s)
def execHostLinkLoss (s : State) : Out := .next (hostLinkLoss s)
def execHostLinkReturn (s : State) : Out := .next (hostLinkReturn s)
def execFabricTimeout (k : Nat) (s : State) : Out := engine (fabricTimeoutAny k) s

end Sys2Proof.Machine
end

