-- ==== Sys2Proof/Machine/Queues.lean ====
section
/-!
DEFINITION. The dispatch engine's queues and records: doorbells and configuration (R99 to R104), record layouts (R103, R106, R108, R109, R120, R328), the choice of the next head (R104), retirement logs (R107, R117) and NLAUNCH (R130).
-/

namespace Sys2Proof.Machine

/-! ### Reading memory for a partition -/

/-- What a read of the dispatch engine gives: its bytes, or a fault with its address, or a wait for the berth (below 16) or the host port (16) on its path. -/
inductive DispatchRead where
  | ok (bs : List Byte)
  | fault (cause va : Nat)
  | wait (path : Nat)
  deriving DecidableEq, Repr

/-- Path `b` takes a read of the dispatch engine: a berth, or the host port as 16 (R449, R451, R456). -/
def pathOpen (s : State) (b : Nat) : Bool := if b < 16 then s.berthOpen b else s.hostUp

/-- The read that the dispatch engine of partition `p` waits with has waited for the fabric timeout (R456). -/
def fetchLate (s : State) (p : Nat) : Bool := (s.part p).barred.any fun e => decide (s.usCycles e.2.1 ≤ s.cycle - e.1)

/-- A path that is not open: the read waits for it, and at the fabric timeout faults with BERTH_GONE, or at once where the berth is lost (R443, R456). DESIGN CHOICE: log entry 116. -/
def fetchBarred (s : State) (p b a : Nat) : DispatchRead :=
  if (b < 16 && (s.berth b).down) || fetchLate s p then .fault Cause.berthGone.code a else .wait b

/-- Bytes at a virtual address, read at once by the partition's dispatch engine (R374, R388, R445, R449, R456). -/
def readVa (s : State) (p : Nat) (va : Nat) : Nat → DispatchRead
  | 0 => .ok []
  | n + 1 =>
    match readVa s p va n with
    | .ok bs =>
      let a := va + n
      match reachNow s (s.part p).originDie p .read a with
      | .ok g => match g.tgt with
        | .remote b _ _ =>
          if !pathOpen s b then fetchBarred s p b a
          else match remoteCause s with
            | some c => .fault c a
            | none => .ok (bs ++ [Config.remote s.free n])
        | .home _ b => if s.converting b then .fault Cause.convertBusy.code a else .ok (bs ++ [SMap.get 0 s.mem b])
        | .cxl b a' => if pathOpen s b then .ok (bs ++ [SMap.get 0 s.mem a']) else fetchBarred s p b a
        | .host a' => if pathOpen s 16 then .ok (bs ++ [SMap.get 0 s.mem a']) else fetchBarred s p 16 a
        | .core _ a' => .ok (bs ++ [SMap.get 0 s.mem a'])
      | .fault c => .fault c a
      | .miss => .fault Cause.transMiss.code a
    | e => e

/-- The requests of a read of the dispatch engine take flits on the berths that it went through (R451). -/
def readFlits (s : State) (p va n : Nat) : State :=
  if n = 0 then s else ((List.range ((n + 63) / 64 + 1)).filterMap fun i => match reachNow s (s.part p).originDie p .read (va + min (64 * i) (n - 1)) with
    | .ok g => match g.tgt.dest with
      | .berth b _ => some b
      | _ => none
    | _ => none).eraseDups.foldl State.flit { s with free := s.free + 1 }

/-- A fault of the dispatch engine, with its queue and index (R136, Table 16.3). -/
def dispatchFault (s : State) (p cause va queue index job : Nat) : State :=
  s.raise p { unit := unitDispatch (s.part p).originDie, kind := 6, cause, tag := 0, pc := 0, va, count := 0
              detail := queue % 16 + index % 2 ^ 32 * 2 ^ 16, job, syl := 0, slot := 0, cycle := s.cycle }

/-- A read has not come: its fault halts the partition (R136), or the dispatch engine begins to wait for its path. None where it waits already. -/
def fetchStop (s : State) (p : Nat) (f : DispatchRead) (queue index job : Nat) : Option State :=
  match f with
  | .ok _ => none
  | .fault c va => some (dispatchFault (s.onPart p fun q => { q with barred := none }) p c va queue index job)
  | .wait b => if (s.part p).barred.isSome then none else some (s.onPart p fun q => { q with barred := some (s.cycle, s.mgmt.fto, b) })

/-- The path that the dispatch engine waits for has opened. -/
def unbar (s : State) (p : Nat) : State :=
  if (s.part p).barred.any fun e => pathOpen s e.2.2 then s.onPart p fun q => { q with barred := none } else s

/-- The dispatch engine of partition `p` may start work: the partition is enabled and runs, no seal drains it, and its group has no request that a drain is to meet (R400, R433). DEDUCED: log entry 67. -/
def mayStart (s : State) (p : Nat) : Bool :=
  let q := s.part p
  q.en && q.halt.isNone && q.state != 2 && q.gstate == 0 && (s.part (s.lead p)).reqs.isEmpty

/-! ### Record fields -/

/-- An unsigned field of `n` bytes. -/
def field (bs : List Byte) (at_ n : Nat) : Nat := ofBytes ((bs.drop at_).take n)

/-- Every byte from `a` to `b - 1` is zero. -/
def zeros (bs : List Byte) (a b : Nat) : Bool := ((bs.drop a).take (b - a)).all (· == 0)

/-- A nest record's zero fields are zero (Table 4.3). -/
def nestZeros (bs : List Byte) : Bool :=
  let w := field bs 0 8
  bits w 15 10 == 0 && bits w 31 27 == 0 && bits w 63 55 == 0 && zeros bs 92 120

/-- A copy record's zero fields are zero (Table 12.2). -/
def copyZeros (bs : List Byte) : Bool := bits (field bs 0 8) 63 10 == 0 && zeros bs 36 40 && zeros bs 108 120

/-- R103: a record in a queue keeps its layout. -/
def recordOk (bs : List Byte) : Bool :=
  match field bs 0 1 with
  | 0x01 => nestZeros bs
  | 0x02 => zeros bs 1 8 && zeros bs 18 24 && zeros bs 44 120
  | 0x03 => copyZeros bs
  | 0x10 => zeros bs 1 8 && decide (field bs 8 1 ≤ 2) && zeros bs 9 120
  | 0x11 => zeros bs 1 120
  | 0x12 => zeros bs 1 8 && zeros bs 12 120
  | _ => false

/-- The fields of a nest record. -/
def nestRec (bs : List Byte) : NestRec :=
  let w := field bs 0 8
  { m3 := bit w 8, zs := bit w 9, tw := bits w 19 16, th := bits w 23 20, nl := bits w 26 24
    order := (List.range 6).map fun k => bits w (34 + 3 * k) (32 + 3 * k), dph0 := bits w 54 50
    code := field bs 8 8, clen := field bs 16 4, cdst := field bs 20 4, entry := field bs 24 4, alen := field bs 28 4, args := field bs 32 8
    ext := (List.range 6).map fun j => field bs (40 + 4 * j) 4, seed := field bs 64 8, jcb := field bs 72 8, status := field bs 80 8
    job := field bs 88 4 }

namespace NestRec

/-- The number of iterations (R110). -/
def total (r : NestRec) : Nat := r.ext.foldl (· * ·) 1

/-- NEST_FIELD (R109, rule 1) does not arise. -/
def fieldsOk (r : NestRec) : Bool :=
  decide (1 ≤ r.tw ∧ r.tw ≤ 8 ∧ 1 ≤ r.th ∧ r.th ≤ 8 ∧ 1 ≤ r.nl ∧ r.nl ≤ 6) &&
  r.code % 8 == 0 && r.clen % 8 == 0 && decide (8 ≤ r.clen) && r.cdst % 8 == 0 && r.entry % 8 == 0 && decide (r.alen ≤ 4096) &&
  ((List.range r.nl).all fun j => (r.order.take r.nl).contains j) && (r.order.drop r.nl).all (· == 0) &&
  (r.ext.drop r.nl).all (· == 1) && decide (r.cdst + r.clen ≤ 0x7FF000 ∧ r.entry < r.clen) && decide (r.total < 2 ^ 64)

/-- Indices i0 to i5 of task index `n` (R110): level NL − 1 varies fastest. -/
def indices (r : NestRec) (n : Nat) : List Nat :=
  let order := r.order.take r.nl
  let step := order.reverse.foldl (fun (acc : Nat × List (Nat × Nat)) j =>
    let e := r.ext.getD j 1
    (acc.1 / e, (j, acc.1 % e) :: acc.2)) (n, [])
  (List.range 6).map fun j => ((step.2.find? fun e => e.1 == j).map Prod.snd).getD 0

end NestRec

/-! ### Candidates and placement (R111 to R114) -/

/-- A `w` × `h` block at (x, y) lies inside one die. -/
def inOneDie (x y w h : Nat) : Bool := x / 8 == (x + w - 1) / 8 && y / 8 == (y + h - 1) / 8

/-- The candidate rectangles in raster order (R111). -/
def candidates (q : Part) (w h : Nat) : List (Nat × Nat) :=
  (range q.y0 (q.y0 + q.height + 1 - h)).flatMap fun y => (range q.x0 (q.x0 + q.width + 1 - w)).filterMap fun x =>
    if inOneDie x y w h then some (x, y) else none

/-- Two blocks share a core. -/
def overlap (x y w h x' y' w' h' : Nat) : Bool := decide (x < x' + w' ∧ x' < x + w ∧ y < y' + h' ∧ y' < y + h)

/-- The team holds its cores: it runs, or its images are still being written. DEDUCED: log entry 61. -/
def Team.holds (t : Team) : Bool := match t.phase with
  | .out _ => false
  | _ => true

/-- No team of the partition holds a core of the block. DEDUCED: log entry 61. -/
def blockFree (q : Part) (x y w h : Nat) : Bool := q.teams.all fun t => !(t.holds && overlap x y w h t.x t.y t.w t.h)

/-- R113. -/
def place (seed n : Nat) : Nat :=
  let m := 2 ^ 64
  let h := seed ^^^ (n * 0x9E3779B97F4A7C15 % m)
  let h := (h ^^^ (h >>> 30)) * 0xBF58476D1CE4E5B9 % m
  let h := (h ^^^ (h >>> 27)) * 0x94D049BB133111EB % m
  h ^^^ (h >>> 31)

/-- R114: the logical set once its oldest teams, retired, have left it for want of a free candidate. -/
def pruneLogical (cs : List (Nat × Nat)) (w h : Nat) : List Placed → List Placed
  | [] => []
  | l :: ls =>
    if cs.all (fun c => (l :: ls).any fun m => overlap c.1 c.2 w h m.x m.y w h) && l.retired then pruneLogical cs w h ls else l :: ls

/-- The rectangle of a nest's next iteration by its level, whether or not it is free now; with the logical set that gave it (R112, R114). -/
def placeNext (q : Part) (n : ANest) : Option (Nat × Nat) × List Placed :=
  let cs := candidates q n.recd.tw n.recd.th
  if q.level = 0 then (cs.find? fun c => blockFree q c.1 c.2 n.recd.tw n.recd.th, n.logical)
  else
    let set := pruneLogical cs n.recd.tw n.recd.th n.logical
    let free := cs.filter fun c => set.all fun m => !overlap c.1 c.2 n.recd.tw n.recd.th m.x m.y n.recd.tw n.recd.th
    if free.isEmpty then (none, set) else (free[place n.recd.seed n.next % free.length]?, set)

/-! ### Doorbells and queue configuration -/

/-- Queue `q` of a partition. -/
def Part.queue (p : Part) (q : Nat) : Queue := SMap.get Queue.reset p.queues q

/-- Changes queue `q` of a partition. -/
def Part.onQueue (p : Part) (q : Nat) (f : Queue → Queue) : Part := { p with queues := SMap.put Queue.reset p.queues q (f (p.queue q)) }

/-- A tail within R102. -/
def tailOk (u : Queue) (v : Nat) : Bool :=
  let d := (v + 2 ^ 32 - u.head) % 2 ^ 32
  decide (d ≤ 2 ^ u.log2n ∧ (v + 2 ^ 32 - u.tail) % 2 ^ 32 ≤ d)

/-- A new tail; the head's wait begins if it covers the head for the first time (R104). -/
def Queue.setTail (u : Queue) (v cycle : Nat) : Queue :=
  if u.head = u.tail ∧ v ≠ u.tail then { u with tail := v, since := cycle, boost := 0 } else { u with tail := v }

/-- QTAIL_WRITE: the doorbell of the host (R101, R102). -/
def qtailWrite (p q : Nat) (v : Word) (s : State) : State :=
  let n := v.toNat % 2 ^ 32
  s.onPart p fun x => x.onQueue q fun u =>
    if u.tl then { u with qerr := 2 }
    else if tailOk u n then u.setTail n s.cycle
    else { u with qerr := 1, en := false }

/-- QCFG_WRITE (Table 4.1, R101). DESIGN CHOICE: log entry 98. -/
def qcfgWrite (p q : Nat) (v : Word) (s : State) : State :=
  s.onPart p fun x => x.onQueue q fun u =>
    let n := fld v 3 0
    let en := v.getLsbD 16
    let bad := en && !decide (4 ≤ n ∧ n ≤ 12)
    { u with tl := v.getLsbD 17, en := en && !bad, prio := fld v 10 8, log2n := n, qerr := if bad then 3 else u.qerr }

/-- The address of record `i` of a queue (R101). -/
def Queue.recAt (u : Queue) (i : Nat) : Nat := u.base + i % 2 ^ u.log2n * 128

/-- Record `i` of a queue lies in a range under conversion (R374). -/
def recConverting (s : State) (u : Queue) (i : Nat) : Bool :=
  let at_ (a : Nat) : Bool := (s.dram a).any s.converting
  at_ (u.recAt i) || at_ (u.recAt i + 64)

/-- Record `i` of a queue; none where queue memory cannot be read. -/
def queueRec (s : State) (u : Queue) (i : Nat) : Option (List Byte) :=
  let a := u.recAt i
  if (s.dram a).isSome && (s.dram (a + 127)).isSome && !recConverting s u i then some (s.readPhys a 128) else none

/-- R104: the head's effective priority. -/
def Queue.effective (u : Queue) : Nat := min 7 (u.prio + u.boost)

/-! ### What a queue still has under way -/

/-- The record started at `index` of queue `q`, or one that it led to, has not retired or not written its log. -/
def busyRec (x : Part) (s : State) (p : Nat) (f : Src → Bool) : Bool :=
  x.nests.any (fun n => f n.src) || x.graphs.any (fun g => f g.src) || x.logs.any (fun l => f l.src) ||
  s.copies.any fun c => c.part == p && match c.by_ with
    | .record src _ _ => f src
    | .cpy .. => false

/-- A control packet of the queue is under way. -/
def busyCtrl (x : Part) (f : Nat → Nat → Bool) : Bool := x.ctrls.any fun c => f c.queue c.index

/-- Every started record of queue `q` has retired (R106). -/
def queueQuiet (s : State) (p q : Nat) : Bool :=
  let x := s.part p
  !busyRec x s p (fun r => r.queue == q) && !busyCtrl x fun c _ => c == q

/-- Every started record of the partition has retired (R106). -/
def allQuiet (s : State) (p : Nat) : Bool := !busyRec (s.part p) s p fun _ => true

/-- Record copies of a partition that are incomplete (R329). -/
def recordCopies (s : State) (p : Nat) : Nat :=
  (s.copies.filter fun c => c.part == p && match c.by_ with
    | .record .. => true
    | .cpy .. => false).length

/-- The head record of queue `q` can start now, whatever its type (R104 to R106, R329). -/
def headReady (s : State) (p q : Nat) : Bool :=
  let x := s.part p
  let u := x.queue q
  u.en && u.head != u.tail && match queueRec s u u.head with
    | none => true
    | some bs =>
      if !recordOk bs then true
      else match field bs 0 1 with
        | 0x01 => decide (x.nests.length < 8)
        | 0x03 => decide (recordCopies s p < 16)
        | 0x10 => queueQuiet s p q
        | 0x11 => queueQuiet s p q
        | _ => true

/-- The queue whose head starts next (R104): the highest effective priority, and in its turn. -/
def pickQueue (s : State) (p : Nat) : Option Nat :=
  let x := s.part p
  if !mayStart s p || x.switch.isSome then none
  else
    let qs := (List.range 16).filter (headReady s p)
    let top := qs.foldl (fun m q => max m (x.queue q).effective) 0
    let qs := qs.filter fun q => (x.queue q).effective == top
    let ptr := SMap.get 0 x.rr top
    (qs.find? fun q => decide (ptr ≤ q)).or qs.head?

/-- The head of queue `q` has started or been passed over (R104). -/
def advance (s : State) (p q : Nat) : State :=
  s.onPart p fun x =>
    let u := x.queue q
    let top := u.effective
    { x.onQueue q fun u => { u with head := (u.head + 1) % 2 ^ 32, since := s.cycle, boost := 0 } with
      rr := SMap.put 0 x.rr top ((q + 1) % 16) }

/-- A packet's status in its bytes 120 to 127 (R103, R106): a write of the dispatch engine in the partition's pour (R426). -/
def packetStatus (s : State) (p : Nat) (u : Queue) (i v : Nat) : State :=
  match s.dram (u.recAt i + 120) with
  | none => s
  | some a => { s with fabric := s.fabric ++ [{ origin := .notify p, part := p, dest := .home (homeOf a), src := 0, seq := 0, floor := 0, job := 0
                                                body := .write ((bytesOf v 8).zipIdx.map fun e => (a + e.2, e.1, 0xFF#8)) 1 false, since := none }] }

/-- Starts the head record of queue `q`, if it is the next one and of type `ty`: its index and its bytes, and the state with the head advanced. -/
def startHead (s : State) (p q ty : Nat) : Option (State × Nat × List Byte) :=
  if pickQueue s p = some q then
    let u := (s.part p).queue q
    match queueRec s u u.head with
    | some bs => if recordOk bs && field bs 0 1 == ty then some (advance s p q, u.head, bs) else none
    | none => none
  else none

/-- What the dispatch engine passes over at a head: a record of no type or of a broken layout, or one that cannot be read (R103, R136). A record that a converter works on is refused, and the partition halts (R374). -/
def passHead (s : State) (p : Nat) : State :=
  match pickQueue s p with
  | none => s
  | some q =>
    let u := (s.part p).queue q
    match queueRec s u u.head with
    | none =>
      if recConverting s u u.head then dispatchFault s p Cause.convertBusy.code (u.recAt u.head) q u.head 0
      else s.onPart p fun x => x.onQueue q fun u => { u with qerr := 1, en := false }
    | some bs => if recordOk bs then s else packetStatus (advance s p q) p u u.head 5

/-- QUEUE_PRIORITY_AGING: a waiting head gains a level (R104). -/
def queueAging (p q : Nat) (s : State) : Option State :=
  let u := (s.part p).queue q
  if u.head ≠ u.tail ∧ u.effective < 7 ∧ (u.boost + 1) * 2 ^ 20 ≤ s.cycle - u.since ∧ (s.part p).en then
    some (s.onPart p fun x => x.onQueue q fun u => { u with boost := u.boost + 1 })
  else none

/-! ### Retirement logs (R107, R117) -/

/-- Adds a retirement log. -/
def addLog (s : State) (p : Nat) (l : Log) : State :=
  { s.onPart p fun x => { x with logs := x.logs ++ [{ l with id := s.nextId }] } with nextId := s.nextId + 1 }

/-- An earlier record of the same queue has not written its log, or, for a nest of a graph, one earlier than its graph-launch record (R107). -/
def logBlocked (s : State) (p : Nat) (l : Log) : Bool :=
  let x := s.part p
  let u := x.queue l.src.queue
  let age (i : Nat) : Nat := (u.head + 2 ^ 32 - i) % 2 ^ 32
  if x.level = 0 then false
  else
    busyRec x s p (fun r => r.queue == l.src.queue && decide (age l.src.index < age r.index)) ||
    busyCtrl x (fun c i => c == l.src.queue && decide (age l.src.index < age i)) ||
    (x.logs.takeWhile fun m => m.id != l.id).any fun m => m.src.queue == l.src.queue && m.src.index == l.src.index

/-- Table 4.5. -/
def statusRecord (l : Log) (seq time : Nat) : List Byte :=
  bytesOf (l.state + l.cause * 256) 8 ++ bytesOf l.done 8 ++ bytesOf l.first 8 ++ bytesOf seq 8 ++ bytesOf time 8 ++ List.replicate 24 0

/-- The writes of a status record: one per line it touches. -/
def writeStatus (s : State) (p : Nat) (o : Origin) (va : Nat) (bs : List Byte) (detail job : Nat) : State :=
  let n := min bs.length (64 - va % 64)
  let s := dispatchWrite s p o va (bs.take n) detail job
  if n < bs.length then dispatchWrite s p o (va + n) (bs.drop n) detail job else s

/-- The dispatch engine's own post to a JCB, on its way to the JCB's home (R117, R128). DESIGN CHOICE: log entry 121. -/
def sendPost (s : State) (p : Nat) (o : Origin) (jcb detail job : Nat) : State :=
  match reachNow s (s.part p).originDie p .both jcb with
  | .ok g => { s with fabric := s.fabric ++ [{ origin := o, part := p, dest := g.tgt.dest, src := 0, seq := 0, floor := 0, time := [(4, s.mtime)], job
                                               body := .op g.tgt.addr 0 (.jpost 0 jcb 1 false), since := none }] }
  | r =>
    let c := match r with
      | .fault c => c
      | _ => Cause.transMiss.code
    s.raise p { unit := unitDispatch (s.part p).originDie, kind := 6, cause := c, tag := 0, pc := 0, va := jcb, count := 0, detail, job
                syl := 0, slot := 0, cycle := s.cycle }

/-- RETIRE_LOG_WRITE for queue `q`: the next retirement log of that queue that may be written (R107). -/
def retireLogWrite (p q : Nat) (s : State) : Option State := do
  let x := s.part p
  let l ← x.logs.find? fun l => l.src.queue == q && !l.sent && !logBlocked s p l
  if x.halt.isSome || !x.en then none
  else
    let seq := if x.level = 0 ∨ l.src.node.isSome then 0 else (x.jseq + 1) % 2 ^ 64
    let s0 := s
    let s := if l.status = 0 then s else writeStatus s p (.log p l.id) l.status (statusRecord l seq s.mtime) l.src.detail 0
    let s := if l.jcb = 0 ∨ (s.part p).halt.isSome then s else sendPost s p (.log p l.id) l.jcb l.src.detail 0
    if (s.part p).halt.isSome then
      some { s with fabric := s0.fabric }
    else some (s.onPart p fun x => { x with jseq := if seq = 0 then x.jseq else seq
                                            logs := x.logs.map fun m => if m.id = l.id then { m with sent := true } else m })

/-- Logs whose writes are performed are gone. -/
def sweepLogs (s : State) (p : Nat) : State :=
  if (s.part p).logs.any (·.sent) then
    s.onPart p fun x => { x with logs := x.logs.filter fun l => !(l.sent && !s.fabric.any fun k => k.origin == .log p l.id) }
  else s

/-! ### NLAUNCH (R130) -/

/-- The 128 bytes of a record are written at `a`, two lines of one home, in the partition's pour (R130, R426). -/
def recordWrite (s : State) (p h a : Nat) (bs : List Byte) : Option State :=
  (s.homeStore p (State.homeUnit h (unitDispatch (s.part p).originDie)) a (bs.take 64)).bind fun s =>
    s.homeStore p (State.homeUnit h (unitDispatch (s.part p).originDie)) (a + 64) (bs.drop 64)

/-- NLAUNCH_APPEND: the record is appended to its queue, once, or refused; RSLT goes back (R130, R355). -/
def nlaunchAppend (k : Nat) (s : State) : Option State := do
  let q ← s.fabric[k]?
  match q.body, q.dest with
  | .nlaunch n bs, .dispatch =>
    let x := s.part q.part
    if x.halt.isSome then none
    else arriveAt s k q 600 fun s =>
      (let u := x.queue n
       let r := if !u.en then 2 else if !u.tl then 3 else if 2 ^ u.log2n ≤ (u.tail + 2 ^ 32 - u.head) % 2 ^ 32 then 1 else 0
       let done (s : State) : State := s.onPart q.part fun x => x.onQueue n fun u => u.setTail ((u.tail + 1) % 2 ^ 32) s.cycle
       if r ≠ 0 then some (s, .ret (bytesOf r 8))
       else match s.dram (u.recAt u.tail) with
         | none => some (done s, .ret (bytesOf r 8))
         | some a =>
           if s.converting a || s.converting (a + 64) then some (s, .fault Cause.convertBusy.code 0 (homeOf a))
           else (recordWrite s q.part (homeOf a) a bs).map fun s => (done s, .ret (bytesOf r 8)))
  | _, _ => none

/-- JCB_POST_APPLY: a post at the JCB's home, from a task or from a dispatch engine (R128); or a NOTIFY that faulted is attempted again (R409). -/
def jcbPostStep (k : Nat) (s : State) : Option State := do
  let q ← s.fabric[k]?
  match q.origin, q.body, q.dest with
  | .notify p, .write bs _ _, .dispatch =>
    if (s.part p).halt.isSome || !(s.part p).en then none
    else some (notifyWrite { s with fabric := dropAt s.fabric k } p ((bs.map Prod.fst).headD 0) (ofBytes (bs.map fun b => b.2.1)) q.seq q.job)
  | .log p _, .op pa _ (.jpost _ j n _), .home h =>
    let unit := State.homeUnit h (unitDispatch (s.part p).originDie)
    if !homeWorks s p h then none
    else if s.converting pa then packetFault s { q with va := j } unit Cause.convertBusy.code
    else
      let detail := q.origin.detail s
      let (s1, excess) ← applyPost { s with fabric := dropAt s.fabric k } p (unitDispatch (s.part p).originDie) pa j n q.job detail
      some (if excess then s1.raise p { unit, kind := unitKind unit, cause := Cause.jcbOver.code, tag := 0, pc := 0, va := j, count := 0
                                        detail, job := q.job, syl := 0, slot := 0, cycle := s.cycle } else s1)
  | .log p _, .op _ _ (.jpost l j n r), .berth b _ =>
    if !pathOk s q then pathFault s { q with va := j }
    else if !s.berthServes b q then none
    else match causeOf s (LOp.jpost l j n r).causes with
      | some c => packetFault { s with free := s.free + 1 } { q with va := j } (unitDispatch (s.part p).originDie) c
      | none => some ({ s with fabric := dropAt s.fabric k }.flit b)
  | _, _, _ => jcbPostApply k s

def execNlaunchAppend (k : Nat) (s : State) : Out := engine (nlaunchAppend k) s
def execJcbPostApply (k : Nat) (s : State) : Out := engine (jcbPostStep k) s
def execQueuePriorityAging (p q : Nat) (s : State) : Out := engine (queueAging p q) s
def execRetireLogWrite (p q : Nat) (s : State) : Out := engine (retireLogWrite p q) s
def execQtailWrite (p q : Nat) (v : Word) (s : State) : Out := .next (qtailWrite p q v s)
def execQcfgWrite (p q : Nat) (v : Word) (s : State) : Out := .next (qcfgWrite p q v s)

end Sys2Proof.Machine
end

