-- ==== Sys2Proof/Machine/Pilot.lean ====
section
/-!
DEFINITION. The rest of the dispatch engine: partitions (R99, R100, R133, R134, R380, R410), nests and their teams (R105, R109 to R119), record copies (R328, R329), the pilot's graphs (R120 to R125), and control packets (R106).
-/

namespace Sys2Proof.Machine

/-- All ones of a 64-bit field. -/
def allOnes64 : Nat := 2 ^ 64 - 1

/-! ### Changing nests and graphs -/

/-- Changes nest `n` of partition `p`. -/
def State.onNest (s : State) (p n : Nat) (f : ANest → ANest) : State :=
  s.onPart p fun q => { q with nests := q.nests.map fun m => if m.id = n then f m else m }

/-- Changes graph `g` of partition `p`. -/
def State.onGraph (s : State) (p g : Nat) (f : Graph → Graph) : State :=
  s.onPart p fun q => { q with graphs := q.graphs.map fun m => if m.id = g then f m else m }

namespace Graph

/-- Node `i`. -/
def node (g : Graph) (i : Nat) : GNode := g.nodes.getD i ⟨0, 0, [], 0, 0⟩

/-- R123: node `j` fires, and its count is reset. It is ready until the dispatch engine can start it. -/
def fire (g : Graph) (j : Nat) : Graph := { g with ready := g.ready ++ [j], counts := g.counts.set j (g.node j).npred }

/-- R123: one trigger of node `j`. One that has fired and not finished fires again when it does. -/
def trigger (g : Graph) (j : Nat) : Graph :=
  if g.failed.isSome then g
  else
    let c := g.counts.getD j 0
    if c = 0 then { g with failed := some (7, j) }
    else if c ≠ 1 then { g with counts := g.counts.set j (c - 1) }
    else if g.running.contains j || g.ready.contains j then { g with counts := g.counts.set j 0, again := g.again ++ [j] }
    else g.fire j

/-- R123: node `i` finishes and triggers `succ` in order; a firing that waited for it comes next. -/
def finish (g : Graph) (i : Nat) (succ : List Nat) : Graph :=
  let g := succ.foldl trigger { g with running := g.running.filter (· != i) }
  if g.again.contains i then { g with again := g.again.filter (· != i) }.fire i else g

/-- R125: node `i` ends, and the graph fails with `cause` at it. -/
def fail (g : Graph) (i cause : Nat) : Graph :=
  { g with running := g.running.filter (· != i), failed := some (g.failed.getD (cause, i)) }

/-- R125: nothing runs, and nothing is left to fire. -/
def excess (g : Graph) : Bool := g.running.isEmpty && (g.failed.isSome || g.ready.isEmpty)

end Graph

/-- A node of a graph finishes with all its successors triggered. -/
def nodeDone (s : State) (p g i : Nat) : State := s.onGraph p g fun r => r.finish i (r.node i).succ

/-- What a record's end tells the graph node that started it. -/
def tellNode (s : State) (p : Nat) (src : Src) (done : Bool) : State :=
  match src.node with
  | none => s
  | some (g, i) => if done then nodeDone s p g i else s.onGraph p g fun r => r.fail i 9

/-! ### The end of nests, copies and graphs -/

/-- R117, R125, R329: a record ends: its retirement log, and its node. The JCB is posted only when it is done. -/
def endRecord (s : State) (p : Nat) (src : Src) (state cause done first status jcb : Nat) : State :=
  let s := if status = 0 ∧ jcb = 0 ∧ src.node.isSome then s
    else addLog s p ⟨0, src, state, cause, done, first, status, if state = 1 then jcb else 0, false⟩
  tellNode s p src (state == 1)

/-- A nest leaves the active nests with the given state and cause. -/
def endNest (s : State) (p : Nat) (n : ANest) (state cause first : Nat) : State :=
  endRecord (s.onPart p fun q => { q with nests := q.nests.filter fun m => m.id != n.id }) p n.src state cause n.retired first
    n.recd.status n.recd.jcb

/-- NEST_RETIRE: a nest with nothing left retires (R117). -/
def retireNests (s : State) (p : Nat) : State :=
  (s.part p).nests.foldl (fun s n =>
    if (s.part p).teams.any fun t => t.nest == n.id then s
    else match n.failed with
      | some c => endNest s p n 2 c (n.first.getD allOnes64)
      | none => if n.recd.total ≤ n.next then endNest s p n 1 0 allOnes64 else s) s

/-- GRAPH_COMPLETE and GRAPH_FAIL: a graph in which nothing runs ends (R125). -/
def retireGraphs (s : State) (p : Nat) : State :=
  (s.part p).graphs.foldl (fun s g =>
    if !g.excess then s
    else
      let s := s.onPart p fun q => { q with graphs := q.graphs.filter fun m => m.id != g.id }
      match g.failed with
      | some (c, i) => endRecord s p g.src 2 c g.firings i g.status g.jcb
      | none => endRecord s p g.src 1 0 g.firings allOnes64 g.status g.jcb) s

/-- A record copy whose last byte is performed ends (R329). -/
def retireCopies (s : State) (p : Nat) : State :=
  s.copies.foldl (fun s k =>
    match k.by_ with
    | .cpy .. => s
    | .record src status jcb =>
      if k.part = p ∧ k.done = k.n ∧ !k.stopped then endRecord (copyOver s k) p src 1 0 (k.bytes s) allOnes64 status jcb else s) s

/-! ### M3 code (R39) -/

/-- The syllables of a translated bundle in slot order, each slot once. -/
def m4Slots (b : List (Nat × Nat)) : List (Nat × Nat) := (List.range 10).filterMap fun n => b.find? fun e => e.1 == n

/-- The length of a translated bundle in bytes (R16). -/
def m4Length (b : List (Nat × Nat)) : Nat := 8 * (1 + (m4Slots b).length)

/-- Where translated bundle `i` starts. -/
def m4At (bs : List (List (Nat × Nat) × Bool × Nat)) (i : Nat) : Nat := (bs.take i).foldl (fun a b => a + m4Length b.1) 0

/-- A syllable of slot `n` whose result has a latency of its own under L3 = 1 (Table 1.10). -/
def m3Slow (n w : Nat) : Bool :=
  let o := w >>> 57 % 128
  if n < 2 then o == 0x23
  else if n < 4 then [0x11, 0x13, 0x14, 0x20, 0x2C, 0x2E].contains o
  else if n = 4 then o == 0x08 || o == 0x09
  else n == 5 && o != 0 && o != 0x02 && o != 0x0F

/-- The words of translated bundle `i`: a header with VER = 4, L3 only where an operation of Table 1.10 is there (R40), and its syllables, with the offset of a branch rewritten to the new addresses (R15, R17, R39, Table 5.1). -/
def m4Words (bs : List (List (Nat × Nat) × Bool × Nat)) (i : Nat) (b : List (Nat × Nat) × Bool × Nat) : List Nat :=
  let off := modPow 34 (((m4At bs b.2.2 : Int) - m4At bs i) / 8)
  let branch (w : Nat) : Bool := [1, 3, 6, 7].contains (w >>> 57 % 128)
  ((m4Slots b.1).foldl (fun h e => h + 2 ^ (63 - e.1)) (4 * 2 ^ 50 + b2n (b.2.1 && (m4Slots b.1).any fun e => m3Slow e.1 (e.2 % 2 ^ 64)) * 2 ^ 49)) ::
    (m4Slots b.1).map fun e => let w := e.2 % 2 ^ 64; if e.1 = 9 ∧ branch w then w / 2 ^ 34 * 2 ^ 34 + off else w

/-- The M4 code of an M3 image, one M4 bundle for each M3 bundle (R39). DESIGN CHOICE: log entry 15. -/
def m4Code (bs : List (List (Nat × Nat) × Bool × Nat)) : List Byte :=
  bs.zipIdx.flatMap fun e => (m4Words bs e.2 e.1).flatMap fun w => bytesOf w 8

/-! ### The start of nests and copies -/

/-- The read that the checks of a nest make: its M3 image (R109). -/
def nestPaid (s : State) (p : Nat) (r : NestRec) : State := if r.m3 then readFlits s p r.code r.clen else s

/-- The checks of R109 in their order: the cause of a rejection and FIRST, where there is one; or what the read of an M3 image met. DESIGN CHOICE: log entry 15. -/
def nestCheck (s : State) (p : Nat) (r : NestRec) (zerosOk : Bool) : Option (Nat × Nat) ⊕ DispatchRead :=
  if !(zerosOk && r.fieldsOk) then .inl (some (2, allOnes64))
  else if (candidates (s.part p) r.tw r.th).isEmpty then .inl (some (1, allOnes64))
  else if !r.m3 then .inl none
  else match readVa s p r.code r.clen with
    | .ok code => .inl ((Config.m3 code).1.map fun off => (3, off))
    | e => .inr e

/-- R109: a nest record starts, or is rejected with the cause and FIRST that its checks gave. -/
def startNest (s : State) (p : Nat) (src : Src) (prio : Nat) (r : NestRec) (addr : Nat) (bad : Option (Nat × Nat)) : State :=
  let n : ANest := { id := s.nextId, recd := r, addr, prio, src, next := 0, logical := [], retired := 0, first := none, failed := none
                     refused := none, boost := 0 }
  let s := { s with nextId := s.nextId + 1 }
  match bad with
  | some (cause, first) => endNest s p n 3 cause first
  | none => s.onPart p fun q => { q with nests := q.nests ++ [n] }

/-- NEST_RECORD_START: the head record of queue `q` starts (R105). A fault of the read of its M3 image halts the partition, and the record starts again on resume (R136). -/
def nestRecordStart (p q : Nat) (s : State) : Option State := do
  let (s1, i, bs) ← startHead s p q 1
  let u := (s.part p).queue q
  match nestCheck s p (nestRec bs) true with
  | .inr f => fetchStop s p f q i (nestRec bs).job
  | .inl bad => some (retireNests (startNest (nestPaid s1 p (nestRec bs)) p ⟨q, i, none⟩ u.prio (nestRec bs) (u.recAt i) bad) p)

/-- A signed 64-bit field. -/
def sfield (bs : List Byte) (at_ : Nat) : Int := sext 64 (field bs at_ 8)

/-- One side of a record copy as a view (R328): elements of 8 bytes are pairs of 4-byte ones. -/
def recordView (esz base : Nat) (ext : List Nat) (str : List Int) : View :=
  { fmt := match esz with
      | 1 => 3
      | 2 => 1
      | _ => 0
    global := true, rb := false, ring := 0, d := if esz = 8 then 2 else 1, planar := false, base, pstr := 0, rank := 3, ext
    str := str.map fun x => x / (esz : Int), sb := 0 }

/-- R329: a copy record starts, or is rejected. -/
def startCopy (s : State) (p : Nat) (src : Src) (bs : List Byte) (job : Nat) (zerosOk : Bool) : State :=
  let esz := 2 ^ bits (field bs 0 8) 9 8
  let a := field bs 8 8
  let b := field bs 16 8
  let ext := (List.range 3).map fun j => field bs (24 + 4 * j) 4
  let ss := (List.range 3).map fun j => sfield bs (40 + 8 * j)
  let ds := (List.range 3).map fun j => sfield bs (64 + 8 * j)
  let n := ext.foldl (· * ·) 1
  let jcb := field bs 88 8
  let status := field bs 96 8
  let ok := zerosOk && a % esz == 0 && b % esz == 0 && (ss ++ ds).all (fun x => x % (esz : Int) == 0) && decide (n * esz < 2 ^ 48)
  if !ok then endRecord s p src 3 10 0 allOnes64 status jcb
  else
    let unit := if esz = 8 then 2 else 1
    let d := (s.part p).originDie
    let k : Copy :=
      { id := s.nextId, die := d, engine := (s.copyEngines p d).headD 0, part := p, job, by_ := .record src status jcb, scope := 4
        acq := true, rel := true, issued := 0, w := min 32 (8 * esz), n := n * unit, unit, src := .view (recordView esz a ext ss)
        dst := .view (recordView esz b ext ds), done := 0, upto := 0, bursts := [], fault := none, slots := 0
        rtWait := none, stopped := false, shadow := [], since := none }
    { s with copies := s.copies ++ [k], nextId := s.nextId + 1 }

/-- COPY_RECORD_START (R329). -/
def copyRecordStart (p q : Nat) (s : State) : Option State := do
  let (s1, i, bs) ← startHead s p q 3
  some (startCopy s1 p ⟨q, i, none⟩ bs (field bs 104 4) true)

/-! ### Control packets (R106) -/

/-- QUEUE_FENCE: its queue's earlier records have retired; it is done at once. -/
def queueFence (p q : Nat) (s : State) : Option State := do
  let (s1, i, _) ← startHead s p q 0x11
  some (packetStatus s1 p ((s.part p).queue q) i 0)

/-- SEAL_REQUEST_PACKET (R106, R432). -/
def sealRequestPacket (p q : Nat) (s : State) : Option State := do
  let (s1, i, bs) ← startHead s p q 0x12
  let u := (s.part p).queue q
  if field bs 8 4 = (s.part p).gid then some (packetStatus (s1.requestSeal p .plain) p u i 0) else some (packetStatus s1 p u i 2)

/-- LEVEL_SWITCH: from its start on, no queue of the partition starts a record. -/
def levelSwitch (p q : Nat) (s : State) : Option State := do
  let (s1, i, bs) ← startHead s p q 0x10
  some (s1.onPart p fun x => { x with switch := some (field bs 8 1), state := 3, ctrls := x.ctrls ++ [⟨q, i, 0x10, field bs 8 1⟩] })

/-- R380: the lowest free aligned block of `size` values below `limit` that overlaps none of `taken` (starts and sizes). -/
def freeBlock (size limit : Nat) (taken : List (Nat × Nat)) : Option Nat :=
  ((List.range (limit / size + 1)).map (· * size)).find? fun b =>
    decide (b + size ≤ limit) && taken.all fun t => decide (b + size ≤ t.1 ∨ t.1 + t.2 ≤ b)

/-- The enabled D2 partitions other than `p`. -/
def atD2 (s : State) (p : Nat) : List Part :=
  ((List.range 16).filter fun q => q != p && (s.part q).en && (s.part q).level == 2).map s.part

/-- The HBM4E block that partition `p` would take (R133, R380). -/
def hbmBlock (s : State) (p : Nat) : Option Nat :=
  freeBlock (2 ^ (s.part p).hk) 56 ((atD2 s p).map fun q => (q.hblk, 2 ^ q.hk))

/-- The LPDDR-6 block that partition `p` would take. -/
def lpBlock (s : State) (p : Nat) : Option Nat :=
  freeBlock (2 ^ (s.part p).lj) 28 ((atD2 s p).map fun q => (q.lblk, 2 ^ q.lj))

/-- One-way fabric time between two cores (R134). -/
def fabricTime (x y x' y' : Nat) : Nat :=
  let d (a b : Nat) : Nat := max a b - min a b
  2 * (d x x' + d y y') + 6 * (d (x / 8) (x' / 8) + d (y / 8) (y' / 8))

/-- The largest one-way fabric time between a partition's cores and the stops listed. -/
def farthest (q : Part) (stops : List (Nat × Nat)) : Nat :=
  q.cores.foldl (fun m c => stops.foldl (fun m t => max m (fabricTime (c % 32) (c / 32) t.1 t.2)) m) 0

/-- Table 4.8. -/
def declared (q : Part) : List Nat :=
  let fh := farthest q ((List.range 8).map fun k => (8 * (k % 4) + 4, 8 * (k / 4) + 4))
  let fl := farthest q [(0, 8), (31, 8)]
  let fp := farthest q (q.cores.map fun c => (c % 32, c / 32))
  [2 * fh + 64 + 256 / 2 ^ q.hk + 200, 2 * fh + 96 + 256 / 2 ^ q.hk + 200, 2 * fl + 120 + 512 / 2 ^ q.lj + 340,
   2 * fl + 152 + 512 / 2 ^ q.lj + 340, fp + 16 + 8 * ((Config.putSize + 127) / 128), 2]

/-- A partition enters D2 with the blocks found for it. -/
def enterD2 (q : Part) (hb lb : Nat) : Part := { q with level := 2, hblk := hb, lblk := lb, dlat := declared q }

/-- LEVEL_SWITCH_COMPLETE: every started record of the partition has retired (R106). DEDUCED: log entry 66. -/
def levelSwitchComplete (p : Nat) (s : State) : Option State := do
  let x := s.part p
  let l ← x.switch
  let c ← x.ctrls.find? fun c => c.kind == 0x10
  if !allQuiet s p || x.halt.isSome then none
  else
    let u := x.queue c.queue
    let s1 := s.onPart p fun x => { x with switch := none, state := 1, ctrls := x.ctrls.filter fun d => d.kind != 0x10 }
    if l ≠ 2 then some (packetStatus ((s1.onPart p fun x => { x with level := l }).blackBox p 5 0 l) p u c.index 0)
    else if x.level = 2 then some (packetStatus s1 p u c.index 0)
    else match hbmBlock s p, lpBlock s p with
      | some hb, some lb =>
        if x.lane = 0 ∨ s.mgmt.phase < 5 then some (packetStatus s1 p u c.index 1)
        else some (packetStatus ((s1.onPart p fun x => enterD2 x hb lb).blackBox p 5 0 2) p u c.index 0)
      | _, _ => some (packetStatus s1 p u c.index 1)

/-! ### Teams (R111 to R117) -/

namespace ANest

/-- R119: the effective priority of a nest's waiting iteration. -/
def effective (n : ANest) : Nat := min 7 (n.prio + n.boost)

/-- An iteration is left to launch. -/
def live (n : ANest) : Bool := n.failed.isNone && decide (n.next < n.recd.total)

end ANest

/-- The rectangle that a nest's next iteration can take now. -/
def rectNow (s : State) (p : Nat) (n : ANest) : Option (Nat × Nat) :=
  if !n.live then none
  else match (placeNext (s.part p) n).1 with
    | some r => if blockFree (s.part p) r.1 r.2 n.recd.tw n.recd.th then some r else none
    | none => none

/-- The nest whose iteration is launched next (R105): the highest effective priority, then the earliest start. DESIGN CHOICE: log entry 120. -/
def nextNest (s : State) (p : Nat) : Option ANest :=
  if !mayStart s p then none
  else
    let ns := (s.part p).nests.filter fun n => (rectNow s p n).isSome
    let top := ns.foldl (fun m n => max m n.effective) 0
    ns.find? fun n => n.effective == top

/-- The argument block's address (R115). -/
def argBase : Nat := 0x7FF000

/-- The start state of a task (Table 4.4, R217, R250, R263). DEDUCED: log entry 41. DEDUCED: log entry 87. DESIGN CHOICE: log entry 91. -/
def startCtx (s : State) (p : Nat) (n : ANest) (team core rank : Nat) : Ctx :=
  let r := n.recd
  let six : List (Nat × Nat) := (r.indices n.next).zipIdx.map fun e => (1 + e.2, e.1)
  let low : List (Nat × Nat) := six ++ [(7, rank), (8, r.tw * r.th), (9, argBase), (10, r.job)]
  { core, part := p, job := r.job, team, rank, size := r.tw * r.th, nest := n.id, translated := r.m3, state := .run, pc := r.cdst + r.entry
    bn := 0, s := (low ++ low.map fun (e : Nat × Nat) => (64 + e.1, e.2)).foldl (fun (m : SMap Word) (e : Nat × Nat) => SMap.put 0 m e.1 (BitVec.ofNat 64 e.2)) []
    v := [], p := 0, k := [], ctl := Ctl.start r.dph0, shapeAct := [], shapeShd := [], tables := [], results := [], bypass := []
    stores := [], cellRes := [], nextId := 0, msteps := [], arrayFree := 0, tbuf := [], tcfg0 := ⟨0, 32, 32⟩, tcfg1 := ⟨0, 32, 32⟩
    tchg := [], streams := List.replicate 8 none, pops := [], rings := [], sbal := [], nests := [], dphAdv := 0, copies := [], ln := [], lnSeen := []
    lq := [], ltag := 0, rv := [], vainv := 0, seen := (List.range 5).foldl (fun m sc => SMap.put 0 m sc s.mtime) [], relTime := [], lost := [], tfail := none, live := 0, codeBase := r.cdst
    codeLen := r.clen, argLen := r.alen, dirty := (if r.zs then [] else List.range 2048) ++ low.map (fun e => 4096 + e.1) ++ low.map fun e => 4160 + e.1, jump := none, pend := none, l3 := false, free := 0, lastPc := 0 }

/-- R115: one core of a team is loaded. It issues from the end of the cycle on, as its whole team does. -/
def loadCore (s : State) (p : Nat) (n : ANest) (team : Nat) (code args : List Byte) (core rank : Nat) : State :=
  let k := s.core core
  let m := if n.recd.zs then [] else k.mem
  let m := SMap.write (SMap.write m n.recd.cdst code) argBase (args ++ List.replicate (4096 - args.length) 0)
  s.setCore core { k with mem := m, cells := [], window := [], phase := [], full := false,
                           ctx := some { startCtx s p n team core rank with state := .loading, codeLen := code.length } }

/-- A context enters a new cycle: its syllables see the increments and the acquires of the last one (R334, R458), and once loaded, resumed or restored it begins to issue (R115, R409, R414). -/
def Ctx.nextCycle (x : Ctx) : Ctx := { x with lnSeen := x.ln, ctl := { x.ctl with floorNow := x.ctl.tfloor }, state := if x.state = .loading then .run else x.state }

/-- Every context enters a new cycle. -/
def wake (s : State) : State := { s with cores := s.cores.map fun e => (e.1, { e.2 with ctx := e.2.ctx.map Ctx.nextCycle }) }

/-- A team after its launch: 24 points that expect every member (R152). -/
def newTeam (s : State) (n : ANest) (x y : Nat) : Team :=
  { id := s.nextId, nest := n.id, index := n.next, x, y, w := n.recd.tw, h := n.recd.th, phase := .running
    points := List.replicate 24 ⟨n.recd.tw * n.recd.th, 0, 0, none, 0, 0⟩, arrivals := [], sbals := [], start := s.cycle, sliced := false
    request := false, stopped := none, saveAt := 0, preempts := 0, kept := [] }

/-- Starts a team on all its cores (R115). -/
def startTeam (s : State) (p : Nat) (n : ANest) (x y : Nat) (set : List Placed) (code args : List Byte) : State :=
  let t := newTeam s n x y
  let s1 := t.cores.zipIdx.foldl (fun s e => loadCore s p n t.id code args e.1 e.2) { s with nextId := s.nextId + 1 }
  (s1.onPart p fun q => { q with teams := q.teams ++ [t] }).onNest p n.id fun m =>
    { m with next := m.next + 1, logical := if (s.part p).level = 0 then m.logical else set ++ [⟨t.id, x, y, false⟩], refused := none, boost := 0 }

/-- TEAM_LAUNCH of nest `n` (R112 to R116). A fault of the copies halts the partition, and the launch is tried again on resume. DESIGN CHOICE: log entry 15. -/
def teamLaunch (p n : Nat) (s : State) : Option State := do
  let m ← nextNest s p
  if m.id ≠ n then none
  else
    let r ← rectNow s p m
    let set := (placeNext (s.part p) m).2
    match readVa s p m.recd.code m.recd.clen, readVa s p m.recd.args m.recd.alen with
    | .ok code, .ok args =>
      let s := readFlits (readFlits s p m.recd.code m.recd.clen) p m.recd.args m.recd.alen
      if !m.recd.m3 then some (startTeam s p m r.1 r.2 set code args)
      else match Config.m3 code with
        | (some off, _) =>
          some (if m.next = 0 then endNest s p m 3 3 off
            else retireNests (s.onNest p n fun k => { k with failed := some 3, first := some off }) p)
        | (none, bs) => some (startTeam s p m r.1 r.2 set (m4Code bs) args)
    | .ok _, f => fetchStop s p f m.src.queue m.src.index m.recd.job
    | f, _ => fetchStop s p f m.src.queue m.src.index m.recd.job

/-- Nothing of a task is left to do (R93, R117, R271): no result, no command of an engine, no write of a flag on its way. -/
def taskDone (s : State) (c t : Nat) : Bool :=
  match s.ctx c with
  | none => true
  | some x =>
    x.team != t ||
    (x.state == .ended && x.results.isEmpty && x.cellRes.isEmpty && x.msteps.isEmpty && x.tchg.isEmpty && x.stores.isEmpty &&
      x.lq.isEmpty && x.streams.all (·.isNone) && x.nests.all (fun n => !n.incomplete) && x.vainv == 0 && x.sbal.isEmpty && (s.copiesOf c).isEmpty &&
      !s.fabric.any fun q => match q.origin with
        | .flag d _ => d == c
        | _ => false)

/-- TEAM_RETIRE (R117). -/
def teamRetire (p t : Nat) (s : State) : Option State := do
  let m ← s.team p t
  if !m.arrivals.isEmpty || !m.sbals.isEmpty || m.phase != .running || (s.part p).halt.isSome || !m.cores.all fun c => taskDone s c t then none
  else
    let s1 := m.cores.foldl (fun s c => s.setCore c { s.core c with ctx := none, window := [], phase := [], full := false }) s
    let s1 := s1.onPart p fun q => { q with teams := q.teams.filter fun u => u.id != t }
    let s1 := s1.onNest p m.nest fun n =>
      { n with retired := n.retired + 1, logical := n.logical.map fun l => if l.team = t then { l with retired := true } else l }
    some (retireNests s1 p)

/-- The next iteration of a nest waits: no candidate rectangle is free for it (R119). -/
def ANest.waits (s : State) (p : Nat) (n : ANest) : Bool := n.live && (rectNow s p n).isNone

/-- Notes since when each nest's next iteration waits; its first refusal counts until it is launched (R119). -/
def noteRefusals (s : State) (p : Nat) : State :=
  if mayStart s p && (s.part p).nests.any fun n => n.waits s p && n.refused.isNone then
    s.onPart p fun q => { q with nests := q.nests.map fun n => if n.waits s p ∧ n.refused = none then { n with refused := some s.cycle } else n }
  else s

/-- ITERATION_PRIORITY_AGING: a waiting iteration gains a level (R119). -/
def iterationAging (p n : Nat) (s : State) : Option State := do
  let m ← (s.part p).nests.find? fun m => m.id == n
  let c ← m.refused
  if m.effective < 7 ∧ (m.boost + 1) * 2 ^ 20 ≤ s.cycle - c then
    some (s.onNest p n fun m => { m with boost := m.boost + 1 })
  else none

/-! ### Pre-emption requests (R119, R411) -/

/-- Image slots of a partition that hold nothing (Table 16.1). -/
def Part.slotFree (q : Part) : Nat := q.nslot - q.slots.length

/-- The teams of partition `p` whose cores the waiting nest `n` could use. -/
def usable (q : Part) (n : ANest) : List Team :=
  let rects := if q.level = 0 then candidates q n.recd.tw n.recd.th else ((placeNext q n).1.map fun r => [r]).getD []
  q.teams.filter fun t => t.phase == .running && rects.any fun r => overlap r.1 r.2 n.recd.tw n.recd.th t.x t.y t.w t.h

/-- P of a team's nest. -/
def Part.prioOf (q : Part) (t : Team) : Nat := ((q.nests.find? fun n => n.id == t.nest).map ANest.prio).getD 0

/-- The team that a waiting iteration of nest `n` asks to be pre-empted: of lowest priority, and of those the one that was launched first. No second request is made while a team that the nest could use has one. DEDUCED: log entry 61. -/
def victim (q : Part) (n : ANest) : Option Team :=
  let ts := usable q n
  if ts.any (·.request) then none
  else
    let ts := ts.filter fun t => (decide (q.prioOf t < n.effective) || (t.sliced && q.prioOf t == n.effective)) && decide (t.w * t.h ≤ q.slotFree)
    firstBy (fun a b => decide (q.prioOf a < q.prioOf b ∨ (q.prioOf a = q.prioOf b ∧ a.id < b.id))) ts

/-- PREEMPT_REQUEST: the requests that the waiting iterations of a partition make (R119). DEDUCED: log entry 61. -/
def requestPreempts (s : State) (p : Nat) : State :=
  let q := s.part p
  if q.level = 2 || !mayStart s p then s
  else (q.nests.filter fun n => n.refused.isSome && n.waits s p).foldl (fun s n =>
    match victim (s.part p) n with
    | some t => s.onTeam p t.id fun t => { t with request := true }
    | none => s) s

/-- SLICE_EXPIRY: team `t` has used SLICE cycles since its last start or restore (R119). -/
def sliceExpiry (p t : Nat) (s : State) : Option State := do
  let m ← s.team p t
  if m.sliced || m.phase != .running || (s.part p).level == 2 || decide (s.cycle - m.start < (s.part p).slice) then none
  else some (requestPreempts (s.onTeam p t fun m => { m with sliced := true }) p)

/-! ### The pilot (R120 to R125) -/

/-- A node's fields (Table 4.6). -/
def gnode (bs : List Byte) : GNode :=
  { kind := field bs 0 1, npred := field bs 2 2, succ := (List.range (field bs 1 1)).map fun k => field bs (8 + 2 * k) 2
    arg0 := field bs 24 8, arg1 := field bs 32 8 }

/-- A node keeps Tables 4.6 and 4.7 in a graph of `n` nodes (R121). -/
def nodeOk (n : Nat) (bs : List Byte) : Bool :=
  let g := gnode bs
  decide (field bs 1 1 ≤ 8) && zeros bs 4 8 && zeros bs 40 64 && g.succ.all (fun j => decide (j < n)) && zeros bs (8 + 2 * min 8 (field bs 1 1)) 24 &&
  match g.kind with
  | 1 => g.arg1 == 0
  | 2 => g.arg1 == 0
  | 3 => decide (g.arg1 ≤ g.succ.length)
  | 4 => g.arg1 == 0 && g.succ.length == 2
  | 5 => g.arg1 == 0
  | 6 => g.arg0 % 8 == 0
  | 7 => g.arg0 == 0 && g.arg1 == 0
  | _ => false

/-- The graph that a launch record starts over the bytes of its nodes. -/
def newGraph (s : State) (src : Src) (prio : Nat) (bs nodes : List Byte) : Graph :=
  let n := field bs 16 2
  let g : Graph := { id := s.nextId, src, prio, jcb := field bs 24 8, status := field bs 32 8, job := field bs 40 4, nodes := [], counts := []
                     ready := [], running := [], again := [], firings := 0, failed := none }
  if field bs 8 8 % 64 ≠ 0 ∨ n = 0 ∨ 4096 < n then { g with failed := some (6, allOnes64) }
  else
    let part (i : Nat) : List Byte := (nodes.drop (64 * i)).take 64
    match (List.range n).find? fun i => !nodeOk n (part i) with
    | some i => { g with failed := some (6, i) }
    | none =>
      let ns := (List.range n).map fun i => gnode (part i)
      { g with nodes := ns, counts := ns.map GNode.npred, ready := (List.range n).filter fun i => (ns.map GNode.npred).getD i 0 == 0 }

/-- Reads a node's record; a fault halts the partition (R136). -/
def nodeRecord (s : State) (p : Nat) (g : Graph) (a : Nat) : List Byte ⊕ State :=
  match readVa s p a 128 with
  | .ok bs => .inl bs
  | f => .inr ((fetchStop s p f g.src.queue g.src.index g.job).getD s)

/-- The condition word (R124), or that the graph fails with GRAPH_COND, or what its read waits for. A read that a running conversion refuses, or that another module does, fails the graph as well. DESIGN CHOICE: log entry 117. -/
def condWord (s : State) (p a : Nat) : DispatchRead := if a % 8 ≠ 0 then .fault Cause.misalign.code a else readVa s p a 8

/-- A firing of node `i` begins, and is counted (R125). -/
def Graph.begin_ (g : Graph) (i : Nat) : Graph :=
  { g with ready := dropOne i g.ready, running := g.running ++ [i], firings := g.firings + 1 }

/-- Node `i` of graph `g` fires (R122, R123). It waits while 8 nests are active, or 16 record copies incomplete. -/
def fireNode (s : State) (p : Nat) (g : Graph) (i : Nat) : State :=
  let n := g.node i
  let src : Src := ⟨g.src.queue, g.src.index, some (g.id, i)⟩
  let s1 := s.onGraph p g.id fun r => r.begin_ i
  let fail (c : Nat) : State := s1.onGraph p g.id fun r => r.fail i c
  let cond (succ : Nat → List Nat) : State := match condWord s p n.arg0 with
    | .ok bs => (readFlits s1 p n.arg0 8).onGraph p g.id fun r => r.finish i (succ (ofBytes bs))
    | .wait b => (fetchStop s p (.wait b) g.src.queue g.src.index g.job).getD s
    | .fault _ _ => fail 8
  match n.kind with
  | 1 =>
    if 8 ≤ (s.part p).nests.length then s
    else match nodeRecord s p g n.arg0 with
      | .inr t => t
      | .inl bs => if field bs 0 1 ≠ 1 then fail 9
          else match nestCheck s p (nestRec bs) (nestZeros bs) with
            | .inr f => (fetchStop s p f g.src.queue g.src.index g.job).getD s
            | .inl bad => retireNests (startNest (nestPaid (readFlits s1 p n.arg0 128) p (nestRec bs)) p src g.prio { nestRec bs with job := g.job } n.arg0 bad) p
  | 2 =>
    if 16 ≤ recordCopies s p then s
    else match nodeRecord s p g n.arg0 with
      | .inr t => t
      | .inl bs => if field bs 0 1 ≠ 3 then fail 9 else startCopy (readFlits s1 p n.arg0 128) p src bs (field bs 104 4) (copyZeros bs)
  | 3 => cond fun w => if w ≠ 0 then n.succ.take n.arg1 else n.succ.drop n.arg1
  | 4 => cond fun w => if w ≠ 0 then n.succ.take 1 else n.succ.drop 1
  | 5 => if n.arg0 ≠ (s.part p).gid then fail 9 else s1.requestSeal p (.node p g.id i)
  | 6 =>
    let t := dispatchWrite s1 p (.node p g.id i) n.arg0 (bytesOf n.arg1 8) (g.src.queue % 16 + g.src.index % 2 ^ 32 * 2 ^ 16) g.job
    if (t.part p).halt.isSome then dispatchWrite s p (.node p g.id i) n.arg0 (bytesOf n.arg1 8) (g.src.queue % 16 + g.src.index % 2 ^ 32 * 2 ^ 16) g.job
    else t
  | _ => nodeDone s1 p g.id i

/-- Fires the nodes of a graph that are ready, in order, and ends graphs in which nothing is left. DEDUCED: log entry 62. -/
def runGraphs (s : State) (p : Nat) : State :=
  let s := (s.part p).graphs.foldl (fun s g => g.ready.foldl (fun s i =>
    if !mayStart s p then s
    else match (s.part p).graphs.find? fun r => r.id == g.id with
      | some r => if r.failed.isNone && r.ready.contains i then fireNode s p r i else s
      | none => s) s) s
  retireGraphs s p

/-- GRAPH_LAUNCH (R120, R123): the nodes without predecessors fire. DEDUCED: log entry 63. -/
def graphLaunch (p q : Nat) (s : State) : Option State := do
  let (s1, i, bs) ← startHead s p q 2
  let n := field bs 16 2
  let u := (s.part p).queue q
  let src : Src := ⟨q, i, none⟩
  let put (s1 : State) (nodes : List Byte) : State :=
    runGraphs ({ s1 with nextId := s.nextId + 1 }.onPart p fun x => { x with graphs := x.graphs ++ [newGraph s src u.prio bs nodes] }) p
  if field bs 8 8 % 64 ≠ 0 ∨ 4096 < n then some (put s1 [])
  else match readVa s p (field bs 8 8) (64 * n) with
    | .ok nodes => some (put (readFlits s1 p (field bs 8 8) (64 * n)) nodes)
    | f => fetchStop s p f q i (field bs 40 4)

/-- SIGNAL_WRITE_ACCEPTED: the write of a SIGNAL node has been performed, or held (R122). -/
def signalAccepted (p g n : Nat) (s : State) : Option State := do
  let r ← (s.part p).graphs.find? fun r => r.id == g
  if r.running.contains n && (r.node n).kind == 6 && !s.fabric.any fun k => k.origin == .node p g n then
    some (runGraphs (nodeDone s p g n) p)
  else none

/-! ### Enabling and disabling partitions (R99, R100, R410) -/

/-- PCFG's writable fields from a word. DEDUCED: log entry 64. -/
def Part.config (q : Part) (v : Word) : Part :=
  { q with lj := fld v 50 48, hk := fld v 46 40, lane := fld v 37 35, level := fld v 33 32, hm1 := fld v 28 24, wm1 := fld v 20 16
           y0 := fld v 12 8, x0 := fld v 4 0 }

/-- R99: bounds, alignment and ranges. -/
def Part.shapeOk (q : Part) : Bool :=
  q.x0 % 2 == 0 && q.y0 % 2 == 0 && q.wm1 % 2 == 1 && q.hm1 % 2 == 1 && decide (q.x0 + q.width ≤ 32 ∧ q.y0 + q.height ≤ 16) &&
  decide (q.level ≤ 2 ∧ q.hk ≤ 6 ∧ q.lj ≤ 4)

/-- The first failing check of an enable (R99), or 0. DEDUCED: log entry 64. -/
def enableErr (s : State) (p : Nat) : Nat :=
  let q := s.part p
  let others := ((List.range 16).filter fun r => r != p && (s.part r).en).map s.part
  if !q.shapeOk then 1
  else if others.any fun r => overlap q.x0 q.y0 q.width q.height r.x0 r.y0 r.width r.height then 2
  else if (q.level = 2 ∧ q.lane = 0) ∨ (q.lane ≠ 0 ∧ others.any fun r => r.lane == q.lane) then 3
  else if q.level ≠ 2 then 0
  else if (hbmBlock s p).isNone then 4
  else if (lpBlock s p).isNone then 5
  else 0

/-- A core joins an enabled partition: its scratchpad and accumulator store are zero (R99). -/
def zeroCore (s : State) (c : Nat) : State :=
  s.setCore c { s.core c with mem := [], cells := [], window := [], phase := [], full := false, ctx := none, trace := (s.core c).trace.unstall }

/-- The pour that a partition joins when it is enabled (R425): its group's, or the first one. -/
def joinPour (s : State) (p : Nat) (q : Part) : Part :=
  match (List.range 16).find? fun r => r != p && (s.part r).en && (s.part r).gid == q.gid with
  | some r => { q with cur := (s.part r).cur, sealed := (s.part r).sealed, top := (s.part r).top }
  | none => { q with cur := 1, sealed := 0, top := 1 }

/-- PARTITION_ENABLE: a write of PCFG with EN = 1 (R99). -/
def partitionEnable (p : Nat) (v : Word) (s : State) : State :=
  if (s.part p).en then s
  else
    let s := s.onPart p fun q => q.config v
    let e := enableErr s p
    if e ≠ 0 then s.onPart p fun q => { q with err := e }
    else
      let hb := (hbmBlock s p).getD 0
      let lb := (lpBlock s p).getD 0
      let s := ((s.part p).cores.foldl zeroCore s).blackBox p 6 0 1
      s.onPart p fun q =>
        let q := if q.level = 2 then enterD2 q hb lb else q
        let q := joinPour s p q
        { q with en := true, state := 1, haltseq := 0, rollseq := 0, gstate := 0, wrote := false, sealAt := s.cycle, timed := false, gone := [], reqs := []
                 sealing := none, switch := none, halt := none, halted := false
                 restarts := [⟨0, (List.range 16).map fun j => (q.queue j).head, [], [], []⟩] }

/-- The logs of queue `q` that are still to be written, in queue order: the oldest record first, and those of one record as they retired (R107, R410). -/
def heldLogs (x : Part) (q : Nat) : List Log :=
  let u := x.queue q
  let age (l : Log) : Nat := (u.head + 2 ^ 32 - l.src.index) % 2 ^ 32
  (x.logs.filter fun l => l.src.queue == q && !l.sent).foldl (fun a l => insertBy (fun a b => decide (age b < age a)) l a) []

/-- The held logs of a partition are written at once, in queue order; no JCB is posted (R410). DEDUCED: log entry 65. -/
def flushLogs (s : State) (p : Nat) : State :=
  (List.range 16).foldl (fun s q =>
    (heldLogs (s.part p) q).foldl (fun s l =>
      let x := s.part p
      let seq := if x.level = 0 ∨ l.src.node.isSome then 0 else (x.jseq + 1) % 2 ^ 64
      let s := s.onPart p fun x => { x with jseq := if seq = 0 then x.jseq else seq, logs := x.logs.filter fun m => m.id != l.id }
      if l.status = 0 then s else writeStatus s p (.log p l.id) l.status (statusRecord l seq s.mtime) l.src.detail 0) s) s

/-- A partition's contexts are discarded, with the commands of their engines (R410, R438). -/
def discard (s : State) (p : Nat) : State :=
  let mine (c : Nat) : Bool := (s.ctx c).any fun x => x.part == p
  let cs := (List.range 512).filter mine
  let s := cs.foldl (fun s c => s.setCore c { s.core c with ctx := none, window := [], phase := [], full := false, trace := (s.core c).trace.unstall }) s
  { s with
    copies := s.copies.filter fun k => !(k.part == p && k.core.isSome)
    reqs := s.reqs.filter fun r => r.part != p
    puts := s.puts.filter fun r => !cs.contains r.core
    invals := s.invals.filter fun v => !(v.part == p && v.by_.isSome)
    grants := s.grants.filter fun g => g.part != p
    walks := s.walks.map fun w => if w.part = p then { w with joined := w.joined.filter fun j => match j with
      | .copy _ => true
      | _ => false } else w
    fabric := s.fabric.filter fun k => k.part != p || match k.origin with
      | .log _ _ => true
      | .notify _ => k.dest != .dispatch
      | .node _ _ _ => true
      | .berth _ _ => true
      | _ => false }

/-- One write that a record copy of partition `p` has under way is performed. -/
def settleOne (s : State) (p : Nat) : Option State :=
  (List.range s.fabric.length).findSome? fun i => (s.fabric[i]?).bind fun x =>
    let mine := x.part == p && match x.origin with
      | .copy id => (s.copy id).any fun k => k.core.isNone
      | _ => false
    if !mine || packetStuck s x then none
    else ((homeLineWrite (.fabric i) s).or (holdBufferEntry i s)).filter fun t => decide (t.fabric.length < s.fabric.length)

/-- The running record copies of a partition come to a burst boundary: what their bursts have sent is performed (R410). DEDUCED: log entry 65. -/
def settleCopies (p : Nat) : Nat → State → State
  | 0, s => s
  | n + 1, s => match settleOne s p with
    | some t => settleCopies p n t
    | none => s

/-- Ends what a partition has started, with STATE 2 and CAUSE 4, and no post (R410). -/
def endWork (s : State) (p : Nat) : State :=
  let q := s.part p
  let log (s : State) (src : Src) (done first status : Nat) : State := if status = 0 then s else addLog s p ⟨0, src, 2, 4, done, first, status, 0, false⟩
  let s := q.nests.foldl (fun s n => log s n.src n.retired (n.first.getD allOnes64) n.recd.status) s
  let s := q.graphs.foldl (fun s g => log s g.src g.firings allOnes64 g.status) s
  let s := s.copies.foldl (fun s k => match k.by_ with
    | .record src status _ => if k.part = p then log (copyOver s k) src (k.bytes s) allOnes64 status else s
    | .cpy .. => s) s
  s.onPart p fun q => { q with nests := [], graphs := [], teams := [] }

/-- A write of EN = 0 is accepted: the partition is halted or runs no team (R100). -/
def Part.mayEnd (q : Part) : Bool := q.halted || !q.teams.any fun t => t.phase == .running

/-- PARTITION_DISABLE: a write of PCFG with EN = 0 (R100, R410); accepted when the partition is halted or runs no team. DEDUCED: log entry 65. DESIGN CHOICE: log entry 119. -/
def partitionDisable (p : Nat) (v : Word) (s : State) : State :=
  let q := s.part p
  if !q.en then s.onPart p fun q => q.config v
  else if !q.mayEnd then s
  else
    let s := s.onPart p fun q => { q with halt := none }
    let s := flushLogs s p
    let s := settleCopies p s.fabric.length s
    let s := flushLogs (endWork s p) p
    let s := (discard s p).blackBox p 6 0 0
    s.onPart p fun q => { q with en := false, state := 0, halt := none, halted := false, dumping := false, dump := [], moving := false, slots := [], ctrls := []
                                 logs := [], switch := none, sealing := none, reqs := [], restarts := [], gstate := 0, barred := none }

/-! ### The dispatch engine's own turn -/

/-- What the dispatch engine of a partition does in every cycle without an event of its own: it passes broken heads, fires nodes, ends what is over, and notes waiting iterations. -/
def pilotTurn (s : State) (p : Nat) : State :=
  if !(s.part p).en then s
  else
    let s := unbar (sweepLogs (passHead s p) p) p
    let s := runGraphs (retireNests (retireCopies s p) p) p
    requestPreempts (noteRefusals s p) p

def execNestRecordStart (p q : Nat) (s : State) : Out := engine (nestRecordStart p q) s
def execGraphLaunch (p q : Nat) (s : State) : Out := engine (graphLaunch p q) s
def execCopyRecordStart (p q : Nat) (s : State) : Out := engine (copyRecordStart p q) s
def execQueueFence (p q : Nat) (s : State) : Out := engine (queueFence p q) s
def execLevelSwitch (p q : Nat) (s : State) : Out := engine (levelSwitch p q) s
def execLevelSwitchComplete (p : Nat) (s : State) : Out := engine (levelSwitchComplete p) s
def execSealRequestPacket (p q : Nat) (s : State) : Out := engine (sealRequestPacket p q) s
def execTeamLaunch (p n : Nat) (s : State) : Out := engine (teamLaunch p n) s
def execTeamRetire (p t : Nat) (s : State) : Out := engine (teamRetire p t) s
def execIterationPriorityAging (p n : Nat) (s : State) : Out := engine (iterationAging p n) s
def execSliceExpiry (p t : Nat) (s : State) : Out := engine (sliceExpiry p t) s
def execSignalWriteAccepted (p g n : Nat) (s : State) : Out := engine (signalAccepted p g n) s

end Sys2Proof.Machine
end

