-- ==== Sys2Proof/Machine/Images.lean ====
section
/-!
DEFINITION. Context images: the granule coder (R420, R421), the header, the section table and the sections (R418, R419, Tables 16.5 to 16.7), and their reading back at a restore (R414, R421).
-/

namespace Sys2Proof

/-- The bytes of section 5 or 6 of a context's image, whose layout belongs to the part that writes them (R418): a function of the section and of the context, since images of equal contexts are equal (R421). DESIGN CHOICE: log entry 59. -/
opaque Config.partBytes : Nat → Machine.Ctx → List Byte

end Sys2Proof

namespace Sys2Proof.Machine

/-! ### The granule coder -/

/-- A list cut into granules of 64 bytes, the last one padded with zeros. -/
def granules (bs : List Byte) : List (List Byte) :=
  (chunks 64 ((bs.length + 63) / 64) bs).map fun g => g ++ List.replicate (64 - g.length) 0

/-- The tag and payload of a granule after the previous one (R421). -/
def granuleTag (prev g : List Byte) : Nat × List Byte :=
  if g.all (· == 0) then (1, [])
  else if g = prev then (2, [])
  else if g = (List.replicate 8 (g.take 8)).flatten then (3, g.take 8)
  else (0, g)

/-- The tags and payloads of granules in order. -/
def granuleTags : List Byte → List (List Byte) → List (Nat × List Byte)
  | _, [] => []
  | prev, g :: gs => granuleTag prev g :: granuleTags g gs

/-- R420: a section as stored. -/
def codeSection (bs : List Byte) : List Byte :=
  let ts := granuleTags (List.replicate 64 0) (granules bs)
  (chunks 32 ((ts.length + 31) / 32) ts).flatMap fun g => bytesOf (ofElems 2 (g.map Prod.fst)) 8 ++ g.flatMap Prod.snd

/-- Granules read back: from the tags that are left, the previous granule and the stored bytes; the bytes not used are answered too. -/
def readGranules : List Nat → List Byte → List Byte → Option (List Byte × List Byte × List Byte)
  | [], prev, bs => some ([], prev, bs)
  | t :: ts, prev, bs => do
    let (g, bs) ← match t with
      | 1 => some (List.replicate 64 0, bs)
      | 2 => some (prev, bs)
      | 3 => if bs.length < 8 then none else some ((List.replicate 8 (bs.take 8)).flatten, bs.drop 8)
      | _ => if bs.length < 64 then none else some (bs.take 64, bs.drop 64)
    let (r, last, bs) ← readGranules ts g bs
    some (g ++ r, last, bs)

/-- A stored section read back: `n` granules in groups of 32; none where the payload does not match (R421). -/
def readGroups : Nat → Nat → List Byte → List Byte → Option (List Byte)
  | 0, _, _, bs => if bs.isEmpty then some [] else none
  | fuel + 1, n, prev, bs =>
    if n = 0 then (if bs.isEmpty then some [] else none)
    else if bs.length < 8 then none
    else do
      let w := ofBytes (bs.take 8)
      let (g, last, rest) ← readGranules ((List.range (min 32 n)).map fun i => bits w (2 * i + 1) (2 * i)) prev (bs.drop 8)
      let r ← readGroups fuel (n - 32) last rest
      some (g ++ r)

/-- The `len` bytes of a stored section. -/
def readSection (len : Nat) (bs : List Byte) : Option (List Byte) :=
  let n := (len + 63) / 64
  (readGroups ((n + 31) / 32) n (List.replicate 64 0) bs).map (·.take len)

/-! ### What an image saves -/

/-- What a liveness record, or a dump, keeps. -/
structure Keep where
  all : Bool
  bs : List Byte
  /-- Scratchpad ranges kept. -/
  ranges : List (Nat × Nat)
  deriving DecidableEq, Repr

namespace Keep

/-- A register whose logical number's bit is set in the bitmap at byte `at_`; `phys` gives the physical number (R159). -/
def reg (k : Keep) (at_ n : Nat) (phys : Nat → Nat) (count : Nat) : Bool :=
  k.all || (List.range count).any fun i => phys i == n && (liveField k.bs (at_ + i / 8) 1).testBit (i % 8)

/-- Byte `a` lies in a range that is kept, or in the code or the argument block. -/
def byte (k : Keep) (x : Ctx) (a : Nat) : Bool :=
  k.all || k.ranges.any (fun r => decide (r.1 ≤ a ∧ a < r.1 + r.2)) || decide (x.codeBase ≤ a ∧ a < x.codeBase + x.codeLen) ||
  decide (argBase ≤ a ∧ a < argBase + x.argLen)

end Keep

/-- Granules that hold code or arguments. -/
def codeGranule (x : Ctx) (g : Nat) : Bool :=
  (decide (0 < x.codeLen) && decide (x.codeBase / 4096 ≤ g ∧ g ≤ (x.codeBase + x.codeLen - 1) / 4096)) ||
  (decide (0 < x.argLen) && decide (g = argBase / 4096))

/-- A bitmap of `n` bytes with the listed bits set. -/
def bitmap (n : Nat) (l : List Nat) : List Byte := bytesOf (l.foldl (fun m i => m ||| 2 ^ i) 0) n

/-! ### The sections (Table 16.6) -/

/-- One point of a task: OUT, the held-arrival mark and the low bits of AG. -/
def rvByte (x : Ctx) (j : Nat) : Byte :=
  let r := x.rvTask j
  BitVec.ofNat 8 (b2n r.out + 2 * b2n r.mark + 4 * (r.ag % 64))

/-- One point of a team: EXP, ARR, HELD, FALL and GEN, in eight bytes. -/
def pointBytes (q : Point) : List Byte :=
  bytesOf q.exp 1 ++ bytesOf q.arr 1 ++ bytesOf (q.held.getD 255) 1 ++ bytesOf q.fall 1 ++ bytesOf q.gen 4

/-- Section 0. -/
def sect0 (x : Ctx) (t : Option Team) : List Byte :=
  (List.range 32).flatMap (fun n => bytesOf (x.ctl.read n) 8) ++ (List.range 24).map (rvByte x) ++
  (if x.rank = 0 then ((t.map Team.points).getD []).flatMap pointBytes else [])

/-- The registers of a section: a bitmap and the values that it sets. -/
def sectRegs (x : Ctx) (tag size : Nat) (kept : Nat → Bool) (val : Nat → Nat) : List Byte :=
  let l := (List.range 128).filter fun r => x.dirty.contains (tag + r) && kept r
  bitmap 16 l ++ l.flatMap fun r => bytesOf (val r) size

/-- Section 1. -/
def sect1 (k : Keep) (x : Ctx) : List Byte :=
  sectRegs x 4096 8 (fun r => k.reg 0 r (physS x.ctl.rrb) 128) fun r => x.file (.s r)

/-- Section 2. -/
def sect2 (k : Keep) (x : Ctx) : List Byte :=
  let p := (List.range 96).foldl (fun m i => if i = 0 ∨ (k.reg 32 i (physP x.ctl.rrb) 96 ∧ x.p.testBit i) then m ||| 2 ^ i else m) 0
  bytesOf p 12 ++ (List.range 16).flatMap fun i => bytesOf (if i = 0 then ones 128 else if k.reg 44 i id 16 then x.file (.k i) else 0) 16

/-- Section 3. -/
def sect3 (k : Keep) (x : Ctx) : List Byte :=
  sectRegs x 8192 512 (fun r => k.reg 16 r (physV x.ctl.rrb) 128) fun r => x.file (.v r)

/-- Section 4. -/
def sect4 (x : Ctx) : List Byte :=
  (List.range 20).flatMap (fun i =>
    (List.range 16).flatMap (fun f => bytesOf (SMap.get 0 x.shapeAct (16 * i + f)).toNat 8) ++
    (List.range 16).flatMap fun f => bytesOf (SMap.get 0 x.shapeShd (16 * i + f)).toNat 8) ++
  (List.range 4).flatMap (fun n => bytesOf (SMap.get 0 x.tables n) 72) ++ (List.range 64).flatMap fun n => bytesOf (SMap.get 0 x.ln n) 4

/-- A transposer configuration as a TRST lane, PEND with it (R252). -/
def tcfgWord (c : TCfg) (pending : Bool) : Nat := c.fmt + 32 * c.rows + 2048 * c.cols + 2 ^ 17 * b2n pending

/-- Section 8. -/
def sect8 (k : Keep) (x : Ctx) : List Byte :=
  if k.all || liveField k.bs 57 1 % 2 == 1 then
    let pending (b : Nat) : Bool := x.tchg.any fun t => t.buf == b
    SMap.read x.tbuf 0 8192 ++ bytesOf (tcfgWord x.tcfg0 (pending 0)) 4 ++ bytesOf (tcfgWord x.tcfg1 (pending 1)) 4
  else List.replicate 8192 0 ++ bytesOf (tcfgWord ⟨0, 32, 32⟩ false) 4 ++ bytesOf (tcfgWord ⟨0, 32, 32⟩ false) 4

/-- Section 9. -/
def sect9 (k : Keep) (c : Core) (x : Ctx) : List Byte :=
  let l := (List.range 32).filter fun w => x.dirty.contains (12288 + w) && (k.all || (liveField k.bs 48 4).testBit w)
  bitmap 4 l ++ l.flatMap fun w =>
    bitmap 16 ((List.range 128).filter fun i => (c.cell (128 * w + i)).f32) ++
    (List.range 128).flatMap fun i => bytesOf (c.cell (128 * w + i)).q.toNat 128

/-- Section 10. -/
def sect10 (k : Keep) (c : Core) (x : Ctx) : List Byte :=
  let l := (List.range 2048).filter fun g =>
    codeGranule x g || (x.dirty.contains g && (k.all || k.ranges.any fun r => decide (r.1 ≤ 4096 * g ∧ 4096 * g < r.1 + r.2)))
  bitmap 256 l ++ l.flatMap fun g => (List.range 4096).map fun i =>
    if k.byte x (4096 * g + i) then engineByte x c.mem (fun p => some p.isSlot) (4096 * g + i) else 0

/-! ### Results in flight (Table 16.7) -/

/-- An entry: its header and its payload in 16-byte units. -/
def flight (dkind : Nat) (slot : Slot) (full chain age : Nat) (t sr : Bool) (fst qst dest addr : Nat) (payload : List Byte) : List Byte :=
  let n := (payload.length + 15) / 16
  [BitVec.ofNat 8 dkind, BitVec.ofNat 8 (slotNo slot), BitVec.ofNat 8 full, BitVec.ofNat 8 chain, BitVec.ofNat 8 age
   , BitVec.ofNat 8 (b2n t + 2 * b2n sr), BitVec.ofNat 8 fst, BitVec.ofNat 8 qst] ++
  bytesOf dest 2 ++ bytesOf n 2 ++ bytesOf addr 4 ++ payload ++ List.replicate (16 * n - payload.length) 0

/-- The low and the high code of an element, t, and the flags that each choice raises (R406). -/
structure Both where
  lo : Nat
  hi : Nat
  t : Nat
  flo : Flags
  fhi : Flags
  deriving DecidableEq, Repr

/-- An element whose value is fixed. -/
def Both.fixed (v : Nat) (f : Flags) : Both := ⟨v, v, 0, f, f⟩

/-- Both candidates of a rounding under SR, and t (R48, R51): t + d reaches 32 for no t where d is 0, and for every t where d is 32. -/
def bothCodes (r : Rounding) : Both :=
  let at_ (d : Nat) : Nat × Flags := encodeV r.fmt r.x r.mode r.sat r.fo d
  let lo := at_ 0
  let hi := at_ 32
  ⟨lo.1, hi.1, srBits r.fmt r.x, lo.2, hi.2⟩

/-- Adds the flags of the operands to both choices. -/
def Both.raising (f : Flags) (b : Both) : Both := { b with flo := f ||| b.flo, fhi := f ||| b.fhi }

/-- The four bytes of an element in a payload with candidates (Table 16.7). -/
def Both.bytes (b : Both) : List Byte := [BitVec.ofNat 8 b.t, BitVec.ofNat 8 b.flo, BitVec.ofNat 8 b.fhi, 0]

/-- The flags that both choices of every element raise. -/
def Both.common (bs : List Both) : Flags := bs.foldl (fun f b => f ||| (b.flo &&& b.fhi)) 0

/-- A payload with candidates of `n` elements of `w` bits, those not listed zero: the low codes, the high codes, and four bytes an element. -/
def srPayload (w n : Nat) (es : List (Nat × Both)) : List Byte :=
  let el (i : Nat) : Both := ((es.find? fun e => e.1 == i).map Prod.snd).getD (Both.fixed 0 0)
  let put (f : Both → Nat) : List Byte := bytesOf (ofElems w ((List.range n).map fun i => f (el i))) ((w * n + 7) / 8)
  put Both.lo ++ put Both.hi ++ (List.range n).flatMap fun i => (el i).bytes

/-- DKIND, DEST and the bytes of a value at a place. -/
def locKind : Loc → Nat × Nat × Nat
  | .s r => (0, r, 8)
  | .p => (1, 0, 12)
  | .k r => (2, r, 16)
  | .v r => (3, r, 512)
  | .port j _ => (6, j, 512)
  | .table n => (8, n, 72)
  | .dph => (9, 0, 8)
  | .shape i f => (10, 16 * i + f, 8)
  | .ctl n => (11, n, 8)

/-- The byte mask of a bit mask. -/
def byteMask (n mask : Nat) : List Byte := bitmap ((n + 7) / 8) ((List.range n).filter fun i => bits mask (8 * i + 7) (8 * i) != 0)

/-- The predicate that a predicate result writes. -/
def predOf (mask : Nat) : Nat := ((List.range 96).find? fun i => mask.testBit i).getD 0

/-- A value's payload at a place, after its mask where the place has one. -/
def payloadOf (loc : Loc) (mask val : Nat) : List Byte :=
  match loc with
  | .v _ => bytesOf val 512 ++ byteMask 512 mask
  | .port _ _ => bytesOf val 512 ++ byteMask 512 mask
  | .k _ => bytesOf val 16 ++ bytesOf mask 16
  | .p => bytesOf (b2n (val.testBit (predOf mask))) 1
  | .table _ => bytesOf val 72 ++ byteMask 72 mask
  | l => bytesOf val (locKind l).2.2

/-- The byte mask that follows a vector's candidates, as it follows a vector's data. -/
def srMask (loc : Loc) (mask : Nat) : List Byte :=
  match loc with
  | .v _ => byteMask 512 mask
  | .port _ _ => byteMask 512 mask
  | _ => []

/-- A tree of R66 under SR: its last rounding's candidates, the nodes below it rounded under the dither phase of the save. DEDUCED: log entry 60. -/
def treeBoth (fmt : Nat) (sat fo : Bool) (dph : Nat) : Nat → Nat → List (Option Nat) → Both
  | _, _, [some a, some b] =>
    (bothCodes ⟨fmt, (sumV false [decodeV fmt a, decodeV fmt b]).1, 5, sat, fo, 0⟩).raising (snanFlag fmt a ||| snanFlag fmt b)
  | fuel + 1, step, a :: b :: rest =>
    let (cs, f) := Ctx.level fmt 5 sat fo dph step 0 (a :: b :: rest)
    (treeBoth fmt sat fo dph fuel (2 * step) cs).raising f
  | _, _, l => Both.fixed ((l.headD none).getD 0) 0

/-- A result in flight at the boundary before bundle `x.bn`. DEDUCED: log entry 60. -/
def resultEntry (x : Ctx) (r : Result) : List Byte :=
  let b := x.bn - 1
  let (kind, dest, n) := locKind r.loc
  let dest := if kind = 1 then predOf r.mask else dest
  let chain := if r.t then r.due + 2 - b else r.due - b
  let go (sr : Bool) (fst : Flags) (p : List Byte) : List Byte := flight kind r.slot (r.due - b) chain (b - r.issued) r.t sr fst 0 dest 0 p
  let sr (w : Nat) (es : List (Nat × Both)) (fl : Flags) : List Byte :=
    go true (fl ||| Both.common (es.map Prod.snd)) (srPayload w (8 * n / w) es ++ srMask r.loc r.mask)
  let plain : List Byte := let (v, f) := r.val.eval x.ctl.dph; go false f (payloadOf r.loc r.mask v)
  match r.val with
  | .rnd w es fl => if es.any fun e => e.2.mode == 5 then sr w (es.map fun e => (e.1, bothCodes e.2)) fl else plain
  | .sx q fl =>
    let wide (v : Nat) : Nat := modPow 64 (sext (fmtWidth q.fmt) v)
    if q.mode = 5 then let c := bothCodes q; sr 64 [(0, { c with lo := wide c.lo, hi := wide c.hi })] fl else plain
  | .tree fmt mode sat fo leaves fl => if mode = 5 then sr (fmtWidth fmt) [(0, treeBoth fmt sat fo x.ctl.dph 10 1 leaves)] fl else plain
  | .now .. => plain

/-- A transient that has landed and is still in its window. -/
def bypassEntry (x : Ctx) (e : Landed) : List Byte :=
  let b := x.bn - 1
  let (kind, dest, _) := locKind e.loc
  flight kind e.slot 0 (e.at_ + 2 - b) (b - e.issued) true false 0 0 (if kind = 1 then predOf e.mask else dest) 0 (payloadOf e.loc e.mask e.val)

/-- The 128 cells of one window as a payload: the mask, the tags and the cells, and with candidates the high ones and four bytes a cell. -/
def cellPayload (sr : Bool) (ws : List (CellWrite × Both)) : List Byte :=
  let el (i : Nat) : Both := ((ws.find? fun w => w.1.cell % 128 == i).map Prod.snd).getD (Both.fixed 0 0)
  let cells (f : Both → Nat) : List Byte := (List.range 128).flatMap fun i => bytesOf (f (el i)) 128
  bitmap 16 (ws.map fun w => w.1.cell % 128) ++ bitmap 16 ((ws.filter fun w => w.1.f32).map fun w => w.1.cell % 128) ++
  cells Both.lo ++ if sr then cells Both.hi ++ (List.range 128).flatMap fun i => (el i).bytes else []

/-- A cell value in flight with the accumulator that it waits for put in its place, at most `n` results deep; an accumulator's own open rounding takes the dither phase of the save. DEDUCED: log entry 60. -/
def CRes.settled (x : Ctx) (cell : Nat) : Nat → CRes → CRes
  | n + 1, .sum (some (.ref i)) ts m sat fo p =>
    let q : Quire := ((x.cellRes.find? fun r => r.id == i).bind fun r => (r.writes.find? fun w => w.cell == cell).map fun w =>
      ((CRes.settled x cell n w.val).eval x.ctl.dph).1).getD 0
    .sum (some (.code q)) ts m sat fo p
  | _, r => r

/-- The candidates of a cell value in flight (R406). -/
def CRes.both (dph : Nat) : CRes → Both
  | .code q => Both.fixed q.toNat 0
  | .sum acc ts m sat fo p =>
    let ts := match acc with
      | some (.code q) => cellV true q :: ts
      | _ => ts
    let (v, f) := sumV (m == 3) ts
    if m = 5 then (bothCodes ⟨0, v, m, sat, fo, p⟩).raising f
    else let (c, g) := encodeV 0 v m sat fo (dither dph (p % 32)); Both.fixed c (f ||| g)

/-- The value rounds under SR at its landing. -/
def CRes.isSr : CRes → Bool
  | .sum _ _ m _ _ _ => m == 5
  | .code _ => false

/-- A cell result in flight: one entry for each window it writes. -/
def cellEntries (x : Ctx) (r : CellResult) : List Byte :=
  let b := x.bn - 1
  let vs := r.writes.map fun w => (w, (w.val.settled x w.cell x.cellRes.length).both x.ctl.dph)
  let sr := r.writes.any fun w => w.val.isSr
  (List.range 32).flatMap fun w =>
    let mine := vs.filter fun v => v.1.cell / 128 == w
    if mine.isEmpty then [] else
      flight 4 r.slot (r.full - b) (if r.chained then 0 else r.chain - b) (b - r.issued) false sr (r.fl ||| Both.common (mine.map Prod.snd)) r.qfl w 0
        (cellPayload sr mine)

/-- A scratchpad write whose bytes are not yet visible: an entry for each run of addresses, or, where it rounds under SR, the candidates of all its elements in one (R302, R406). -/
def storeEntries (x : Ctx) (p : PStore) : List Byte :=
  let b := x.bn - 1
  let go (sr : Bool) (fst : Flags) (addr : Nat) (bs : List Byte) : List Byte := flight 5 p.slot (p.vis - b) (p.vis - b) (b - p.issued) false sr fst 0 0 addr bs
  match p.late.head? with
  | some (a, n, r) =>
    if r.mode = 5 then
      let es := p.late.zipIdx.map fun e => (e.2, bothCodes e.1.2.2)
      go true (p.fl ||| Both.common (es.map Prod.snd)) a (srPayload (8 * n) es.length es)
    else go false (p.late.foldl (fun f e => f ||| (e.2.2.eval x.ctl.dph).2) p.fl) a (p.late.flatMap fun e => bytesOf (e.2.2.eval x.ctl.dph).1 e.2.1)
  | none =>
    let bs := p.all x.ctl.dph
    let starts := bs.filter fun e => !bs.any fun f => f.1 + 1 == e.1
    starts.flatMap fun e =>
      let run := (List.range bs.length).map (fun i => lastByte (e.1 + i) bs) |>.takeWhile Option.isSome
      go false p.fl e.1 (run.map fun o => o.getD 0)

/-- A transposer change in flight. -/
def tchgEntry (x : Ctx) (t : TChange) : List Byte :=
  let b := x.bn - 1
  flight 7 .t (t.due - b) (t.due - b) (b - t.issued) false false 0 0 t.buf 0
    ([BitVec.ofNat 8 (b2n t.clear), BitVec.ofNat 8 t.w] ++ t.es.flatMap fun e => bytesOf e.1 2 ++ bytesOf e.2 4)

/-- An MSTEP before its read of the cells: an entry for each window of its tile group, whose cells hold the step's own sums over zero accumulators (R317). DEDUCED: log entry 60. -/
def mstepEntry (k : Core) (x : Ctx) (m : MStep) : List Byte :=
  let b := x.bn - 1
  let outs := kStep k m.ops true m.tile
  (range (2 * m.tile) (2 * (m.tile + m.ops.d))).flatMap fun w =>
    let mine := outs.filter fun o => o.write.cell / 128 == w
    flight 4 .m (m.issued + 12 - b) (m.issued + 12 - b) (b - m.issued) false false (mine.foldl (fun f o => f ||| o.fl) 0)
      (mine.foldl (fun f o => f ||| o.qfl) 0) w 0 (cellPayload false (mine.map fun o => (o.write, o.write.val.both x.ctl.dph)))

/-- Section 7 of a dump. -/
def sect7 (k : Core) (x : Ctx) : List Byte :=
  x.results.flatMap (resultEntry x) ++ x.bypass.flatMap (bypassEntry x) ++ x.cellRes.flatMap (cellEntries x) ++
  (x.stores.filter fun p => !p.isSlot).flatMap (storeEntries x) ++ x.tchg.flatMap (tchgEntry x) ++ x.msteps.flatMap (mstepEntry k x)

/-! ### The whole image -/

/-- The sections in ID order; 5 and 6 are in the part's own layout, a free value of at most 64 KiB, so that an image fits in its slot. What a restore takes from them the part keeps beside the team. -/
def sections (kind : Nat) (k : Keep) (c : Core) (x : Ctx) (t : Option Team) : List (List Byte) :=
  [sect0 x t, sect1 k x, sect2 k x, sect3 k x, sect4 x, (Config.partBytes 5 x).take 65536,
    (Config.partBytes 6 x).take 65536, if kind = 1 then sect7 c x else [], sect8 k x, sect9 k c x, sect10 k c x]

/-- Table 16.5. -/
def imageHeader (s : State) (kind total : Nat) (x : Ctx) : List Byte :=
  let q := s.part x.part
  let nest := ((q.nests.find? fun n => n.id == x.nest).map ANest.addr).getD 0
  bytesOf 1 2 ++ bytesOf kind 1 ++ [0] ++ bytesOf (if kind = 1 then q.haltseq else 0) 4 ++ bytesOf total 8 ++
  [BitVec.ofNat 8 (x.core % 32), BitVec.ofNat 8 (x.core / 32), BitVec.ofNat 8 x.rank, BitVec.ofNat 8 x.size] ++ bytesOf x.job 4 ++
  bytesOf nest 8 ++ bytesOf (max s.mtime x.ctl.tfloor) 8 ++ bytesOf x.pc 8 ++ [BitVec.ofNat 8 x.part] ++ List.replicate 79 0

/-- The first multiple of 64 from `n` on. -/
def align64 (n : Nat) : Nat := (n + 63) / 64 * 64

/-- Places sections one after the other: each one's ID, length, stored bytes and offset. -/
def placeSections : Nat → Nat → List (List Byte) → List (Nat × Nat × List Byte × Nat)
  | _, _, [] => []
  | id, off, b :: bs => let c := codeSection b; (id, b.length, c, off) :: placeSections (id + 1) (align64 (off + c.length)) bs

/-- A context's image (R418). DESIGN CHOICE: log entry 59. DEDUCED: log entry 60. -/
def image (s : State) (kind : Nat) (k : Keep) (c : Core) (x : Ctx) (t : Option Team) : List Byte :=
  let ps := placeSections 0 (align64 (128 + 176)) (sections kind k c x t)
  let total := ps.foldl (fun m p => max m (p.2.2.2 + p.2.2.1.length)) 0
  let head := imageHeader s kind total x ++
    ps.flatMap fun p => bytesOf p.1 1 ++ [0, 0, 0] ++ bytesOf p.2.1 4 ++ bytesOf p.2.2.1.length 4 ++ bytesOf p.2.2.2 4
  ps.foldl (fun m p => m ++ List.replicate (p.2.2.2 - m.length) 0 ++ p.2.2.1) head

/-! ### Reading an image back (R414, R421) -/

/-- Section `id` of a stored image; none where its descriptor or its coding does not fit. -/
def imageSection (bs : List Byte) (id : Nat) : Option (List Byte) :=
  let at_ := 128 + 16 * id
  let off := field bs (at_ + 12) 4
  let clen := field bs (at_ + 8) 4
  if field bs at_ 1 ≠ id ∨ bs.length < off + clen then none else readSection (field bs (at_ + 4) 4) ((bs.drop off).take clen)

/-- The bits of a bitmap that are set, ascending. -/
def bitsOf (bs : List Byte) : List Nat := let n := ofBytes bs; (List.range (8 * bs.length)).filter fun i => n.testBit i

/-- Values of `size` bytes at the numbers of a bitmap of `n` bytes; none where the length does not match. -/
def readRegs (n size : Nat) (bs : List Byte) : Option (List (Nat × List Byte)) :=
  let l := bitsOf (bs.take n)
  if bs.length ≠ n + size * l.length then none else some (l.zipIdx.map fun e => (e.1, ((bs.drop (n + size * e.2)).take size)))

/-- A transposer configuration from its word. -/
def tcfgOf (w : Nat) : TCfg := ⟨bits w 4 0, bits w 10 5, bits w 16 11⟩

/-- Control registers from section 0. -/
def ctlOf (bs : List Byte) : Ctl :=
  let c := (List.range 12).foldl (fun c n => c.write n (field bs (8 * n) 8)) (Ctl.start 0)
  let c := (List.range 16).foldl (fun c n => c.write (0x10 + n) (field bs (8 * (0x10 + n)) 8)) c
  { c with nopr := field bs 96 8, jpa := field bs 104 8 }

/-- The context and the core that an image gives, over what the part keeps itself (sections 5 and 6). DESIGN CHOICE: log entry 59. -/
def readImage (bs : List Byte) (x : Ctx) (gens : List Nat) : Option (SMap Byte × SMap Cell × Ctx) := do
  if field bs 0 2 ≠ 1 ∨ field bs 2 1 ≠ 0 then none
  let b0 ← imageSection bs 0
  let b1 ← imageSection bs 1
  let b2 ← imageSection bs 2
  let b3 ← imageSection bs 3
  let b4 ← imageSection bs 4
  let _ ← imageSection bs 5
  let _ ← imageSection bs 6
  let b7 ← imageSection bs 7
  let b8 ← imageSection bs 8
  let b9 ← imageSection bs 9
  let b10 ← imageSection bs 10
  let ss ← readRegs 16 8 b1
  let vs ← readRegs 16 512 b3
  let ws ← readRegs 4 (16 + 16384) b9
  let gs ← readRegs 256 4096 b10
  if b0.length < 280 ∨ b7 ≠ [] ∨ b2.length ≠ 268 ∨ b4.length ≠ 5664 ∨ b8.length ≠ 8200 then none
  let cells := ws.foldl (fun m w =>
    (List.range 128).foldl (fun m i =>
      let f32 := (ofBytes (w.2.take 16)).testBit i
      let q : Quire := BitVec.ofNat 1024 (field w.2 (16 + 128 * i) 128)
      SMap.put Cell.zero m (128 * w.1 + i) ⟨q, f32, .code q, f32⟩) m) ([] : SMap Cell)
  let mem := gs.foldl (fun m g => SMap.write m (4096 * g.1) g.2) ([] : SMap Byte)
  let rv := (List.range 24).foldl (fun m j =>
    let v := field b0 (256 + j) 1
    SMap.put ⟨false, 0, false⟩ m j ⟨v.testBit 0, if v.testBit 0 then gens.getD j 0 else 0, v.testBit 1⟩) ([] : SMap RvTask)
  let shape (copy : Nat) : SMap Word :=
    (List.range 320).foldl (fun m i => SMap.put 0 m i (BitVec.ofNat 64 (field b4 (256 * (i / 16) + 128 * copy + 8 * (i % 16)) 8))) []
  some (mem, cells,
    { x with
      pc := field bs 40 8 % 2 ^ 23, ctl := ctlOf b0, rv
      s := ss.foldl (fun m e => SMap.put 0 m e.1 (BitVec.ofNat 64 (ofBytes e.2))) []
      v := vs.foldl (fun m e => SMap.put 0 m e.1 (BitVec.ofNat 4096 (ofBytes e.2))) []
      p := ofBytes (b2.take 12) / 2 * 2
      k := (List.range 15).foldl (fun m i => SMap.put 0 m (i + 1) (BitVec.ofNat 128 (field b2 (28 + 16 * i) 16))) []
      shapeAct := shape 0, shapeShd := shape 1
      tables := (List.range 4).foldl (fun m n => SMap.put 0 m n (field b4 (5120 + 72 * n) 72)) []
      ln := (List.range 64).foldl (fun m n => SMap.put 0 m n (field b4 (5408 + 4 * n) 4)) []
      lnSeen := (List.range 64).foldl (fun m n => SMap.put 0 m n (field b4 (5408 + 4 * n) 4)) []
      tbuf := SMap.write [] 0 (b8.take 8192), tcfg0 := tcfgOf (field b8 8192 4), tcfg1 := tcfgOf (field b8 8196 4)
      results := [], bypass := [], stores := [], cellRes := [], msteps := [], tchg := []
      dirty := gs.map Prod.fst ++ ss.map (fun e => 4096 + e.1) ++ vs.map (fun e => 8192 + e.1) ++ ws.map fun e => 12288 + e.1 })

end Sys2Proof.Machine
end

