-- ==== Sys2Proof/Machine/Save.lean ====
section
/-!
DEFINITION. The save engine: the stop of every engine and its stop record (R400 to R404), the end of a halt (R401), resume (R408, R409), dumps (R422), and the save and restore of pre-empted teams (R411 to R416).
-/

namespace Sys2Proof.Machine

/-! ### Stop records (R402, R403, Table 16.3) -/

/-- The order of faults: the cycle, then the stop-record slot, then the cause (R402). -/
def FaultInfo.before (a b : FaultInfo) : Bool :=
  decide (a.cycle < b.cycle ∨ (a.cycle = b.cycle ∧ (a.unit < b.unit ∨ (a.unit = b.unit ∧ a.cause < b.cause))))

/-- The first fault of a halt. -/
def Halt.first (h : Halt) : Option FaultInfo := firstBy FaultInfo.before h.faults

/-- The fault that unit `k` reports. -/
def Halt.of (h : Halt) (k : Nat) : Option FaultInfo := firstBy FaultInfo.before (h.faults.filter fun f => f.unit == k)

/-- Bytes 16 and 17 of a unit's record: core coordinates, or the instance number. -/
def unitPlace (k : Nat) : Nat × Nat :=
  if k < 2048 then (k / 4 % 32, k / 4 / 32) else if k < 2304 then (k - 2048, 0) else if k < 2312 then (k - 2304, 0)
  else if k < 2320 then (k - 2312, 0) else if k < 2328 then (k - 2320, 0) else (0, 0)

/-- COUNT of a unit that raised no fault: the bytes of the copy whose burst it ran, the elements of the core's first stream that is not complete, the K-steps of its running nest. DESIGN CHOICE: log entry 96. -/
def idleCount (s : State) (k : Nat) : Nat :=
  match unitKind k with
  | 1 => (((s.ctx (k / 4)).bind fun x => x.nests.find? fun n => n.state == .running).map Nest.done).getD 0
  | 2 => (((s.ctx (k / 4)).bind fun x => x.streams.findSome? fun o => o.bind fun st => if st.pos < st.view.count then some st.pos else none)).getD 0
  | 4 => ((s.copies.find? fun c => c.bursts.any fun b => unitCopy c.die b.engine == k && !b.ended).map fun c => c.bytes s).getD 0
  | _ => 0

/-- The stop record of unit `k` in partition `p`'s halt. -/
def stopRecord (s : State) (p k : Nat) (h : Halt) : List Byte :=
  let f := h.of k
  let role := match f with
    | none => 0
    | some _ => if h.first.map FaultInfo.unit = some k then 2 else 1
  let x := if k < 2048 then s.ctx (k / 4) else none
  let (px, py) := unitPlace k
  let get (g : FaultInfo → Nat) : Nat := (f.map g).getD 0
  let pc := match f with
    | some f => f.pc
    | none => if unitKind k = 0 then (x.map Ctx.pc).getD 0 else 0
  let job := match f with
    | some f => f.job
    | none => (x.map Ctx.job).getD 0
  bytesOf ((s.part p).haltseq + 1) 4 ++ [BitVec.ofNat 8 (unitKind k), BitVec.ofNat 8 role] ++ bytesOf (get FaultInfo.cause) 2 ++
  bytesOf s.mtime 8 ++ [BitVec.ofNat 8 px, BitVec.ofNat 8 py] ++ bytesOf (get FaultInfo.tag) 2 ++ bytesOf (s.cycle - h.cycle) 4 ++
  bytesOf pc 8 ++ bytesOf (get FaultInfo.va) 8 ++ bytesOf ((f.map FaultInfo.count).getD (idleCount s k)) 8 ++ bytesOf (get FaultInfo.detail) 8 ++ bytesOf job 8 ++
  bytesOf (get FaultInfo.syl) 8 ++ bytesOf (get FaultInfo.slot) 1 ++ List.replicate 55 0

/-- The stack engines of stack `k` have nothing of partition `p` accepted that they can still complete, and no walk of a chain can come to them (R381). The I/O dies' homes stop with stack 0. DEDUCED: log entry 57. -/
def stackBoundary (s : State) (p k : Nat) : Bool :=
  !s.fabric.any fun q => q.part == p && !packetStuck s q && match q.dest, q.body with
    | .home _, .chase _ _ => true
    | .home h, b => b != .release && (h == k || (k == 0 && decide (8 ≤ h)))
    | _, _ => false

/-- Unit `k` is at a boundary where it may stop (Table 16.2). DEDUCED: log entry 57. -/
def atBoundary (s : State) (p k : Nat) : Bool :=
  match unitKind k with
  | 1 => (s.ctx (k / 4)).all fun x => x.nests.all fun n => n.cur.isNone
  | 4 => copyBoundary s p ((k - 2048) / 32) ((k - 2048) % 32)
  | 5 => stackBoundary s p (k - 2304)
  | 7 => !s.walks.any fun w => w.die == k - 2320 && w.part == p
  | 8 => true
  | _ => true

/-- Issue stops: the context waits for resume. -/
def stopIssue (x : Ctx) : Ctx := if x.state = .run ∨ x.state = .held ∨ x.state = .loading then { x with state := .stopped } else x

/-- A converter works on one of the `n` bytes from `pa` on, which begin a line (R374). -/
def saveBusy (s : State) (pa n : Nat) : Bool := (List.range ((n + 63) / 64)).any fun i => (s.dram (pa + 64 * i)).any s.converting

/-- A home refuses an access of the save engine to bytes that its converter works on, and its stack reports it (R374, R403). DEDUCED: log entry 57. -/
def saveRefused (s : State) (p pa : Nat) : State :=
  s.engineFault p (unitStack (homeOf ((s.dram pa).getD pa) % 8)) Cause.convertBusy.code 0 0 0 0

/-- The save engine writes bytes, outside every pour, where their homes take them (R374, R413). DEDUCED: log entry 57. -/
def saveWrite (s : State) (p pa : Nat) (bs : List Byte) : State :=
  if saveBusy s pa bs.length then saveRefused s p pa else s.writePhys pa bs

/-- Changes the halt of a partition. -/
def State.onHalt (s : State) (p : Nat) (f : Halt → Halt) : State := s.onPart p fun q => { q with halt := q.halt.map f }

/-- The address of unit `k`'s stop record (R403). -/
def Part.recordAt (q : Part) (k : Nat) : Nat := q.srbase + 128 * (1 + k)

/-- A stop record with the time and the skid of the one written before: the unit stopped then. -/
def stillStopped (old new : List Byte) : List Byte :=
  new.take 8 ++ (old.drop 8).take 8 ++ (new.drop 16).take 4 ++ (old.drop 20).take 4 ++ new.drop 24

/-- A unit stops: issue at a bundle boundary, a copy engine with its bursts (R331); the others keep what they have. -/
def stopUnit (s : State) (p k : Nat) (h : Halt) : State :=
  match unitKind k with
  | 0 => traceHalt (s.onCtx (k / 4) stopIssue) (k / 4) ((h.first.map FaultInfo.cause).getD 0)
  | 4 => dropBursts s fun c b => c.part == p && unitCopy c.die b.engine == k
  | _ => s

/-- ENGINE_STOP: unit `k` of partition `p` stops and writes its stop record (R400, R403), or, stopped already, writes it again with a fault that it has raised since (R402). DEDUCED: log entry 57. -/
def engineStop (p k : Nat) (s : State) : Option State := do
  let h ← (s.part p).halt
  let at_ := (s.part p).recordAt k
  if h.again.contains k then
    some (saveWrite (s.onHalt p fun h => { h with again := h.again.filter (· != k) }) p at_ (stillStopped (s.readPhys at_ 128) (stopRecord s p k h)))
  else if !h.pending.contains k || !atBoundary s p k then none
  else
    let t := (stopUnit s p k h).onHalt p fun h => { h with pending := h.pending.filter (· != k), stopped := h.stopped ++ [k] }
    some (saveWrite t p at_ (stopRecord s p k h))

/-- The area header (Table 16.3). -/
def areaHeader (s : State) (p : Nat) (h : Halt) : List Byte :=
  let get (g : FaultInfo → Nat) : Nat := (h.first.map g).getD 0
  bytesOf ((s.part p).haltseq + 1) 4 ++ [BitVec.ofNat 8 (get fun f => unitKind f.unit), 0] ++ bytesOf (get FaultInfo.cause) 2 ++ bytesOf s.mtime 8 ++
  bytesOf (get FaultInfo.unit) 2 ++ bytesOf h.stopped.length 2 ++ List.replicate 108 0

/-- A team's save is abandoned: its slots are freed and its members go on (R416). -/
def abandonSave (s : State) (p t : Nat) (slots : List Nat) : State :=
  let s := s.onTeam p t fun m => { m with phase := .running }
  abandon (s.onPart p fun q => { q with slots := q.slots.filter fun k => !slots.contains k, moving := false }) p t

/-- HALT_COMPLETE: every stop record is written (R401). A save under way is abandoned (R416). -/
def haltComplete (p : Nat) (s : State) : Option State := do
  let h ← (s.part p).halt
  if h.halted || !h.pending.isEmpty || !h.again.isEmpty then none
  else
    let s := (s.part p).teams.foldl (fun s t => match t.phase with
      | .saving slots => abandonSave s p t.id slots
      | _ => s) s
    let s := saveWrite s p (s.part p).srbase (areaHeader s p h)
    let f := h.first
    let cause := (f.map FaultInfo.cause).getD 0
    let core := match f with
      | some f => if f.unit < 2048 then f.unit / 4 else 0
      | none => 0
    let s := (s.onHalt p fun h => { h with halted := true }).onPart p fun q => { q with halted := true, hfirst := cause, haltseq := (q.haltseq + 1) % 2 ^ 32, state := 2 }
    some ((s.blackBox p 1 core cause).msi p)

/-! ### Resume (R408, R409) -/

/-- A cause that belongs to the recovery engine (R404, R410). -/
def recoveryCause (c : Nat) : Bool := decide (0x80 ≤ c) || c == Cause.riserExhausted.code || c == Cause.holdExhausted.code

/-- What resume does to a context: its issue goes on at the cycle's end, with every other one of its partition, and the commands that faulted are attempted again. DEDUCED: log entry 58. -/
def resumeCtx (x : Ctx) : Ctx :=
  { x with
    state := if x.state = .stopped then .loading else x.state
    lq := x.lq.map fun c => if c.faulted then { c with faulted := false, sent := none } else c
    nests := x.nests.map fun n => if n.state = .faulted then { n with state := if n.started = 0 then .queued else .running, cause := 0 } else n }

/-- A nest that resumes with no K-step left is done (R316). -/
def settleNests (x : Ctx) : Ctx :=
  { x with nests := x.nests.map fun n => if n.state = .running ∧ n.cur.isNone then n.finish else n }

/-- What walks have brought, or bring, for the streams, the copies and the commands that are attempted again is dropped: the new attempts ask for themselves (R390, R409). -/
def forgetFaulted (s : State) (p : Nat) : State :=
  let s := (s.copies.filter fun k => k.part == p).foldl (fun s k => s.forget (.copy k.id)) s
  (s.part p).cores.foldl (fun s c => match s.ctx c with
    | some x =>
      if x.part ≠ p then s
      else
        let s := ((List.range 8).filter fun j => streamDown s c j p).foldl (fun s j => s.forget (.stream c j)) s
        (x.lq.filter LCmd.faulted).foldl (fun s e => s.forget (.land c e.tag)) s
    | none => s) s

/-- The copy waits for the restore of its pre-empted team (R412, R414). -/
def Copy.away (s : State) (k : Copy) : Bool :=
  match k.by_ with
  | .cpy _ t _ _ _ => (s.team k.part t).any fun m => match m.phase with
    | .out _ => true
    | _ => false
  | .record .. => false

/-- HALT_RESUME: a write of HCTL.RESUME = 1 (R409); ignored where the halt is not one that resumes. DEDUCED: log entry 58. -/
def haltResume (p : Nat) (s : State) : State :=
  let q := s.part p
  if !q.halted || recoveryCause q.hfirst then s
  else
    let s := resumeCopies (forgetFaulted s p) fun k => k.part == p && !k.away s
    let s := q.cores.foldl (fun s c => s.onCtx c fun x => if x.part = p then settleNests (resumeCtx x) else x) s
    let s : State := { s with
      fabric := s.fabric ++ (s.reqs.filter fun r => r.part == p).flatMap Req.packets
      reqs := s.reqs.map fun r => if r.part = p then { r with cycle := s.cycle, time := s.mtime, retries := 0, refused := none } else r }
    s.onPart p fun q => { q with halt := none, halted := false, state := 1 }

/-! ### Dumps (R422) -/

/-- The contexts of a partition in raster order of their cores. -/
def contextsOf (s : State) (p : Nat) : List Ctx := ((s.part p).cores.filterMap s.ctx).filter fun x => x.part == p

/-- The address of image slot `k`. -/
def Part.slotAt (q : Part) (k : Nat) : Nat := q.imgbase + k * q.stride * 2 ^ 20

/-- The images of a partition's contexts, with the addresses of their slots (R422). -/
def dumpImages (s : State) (p : Nat) : List (Nat × List Byte) :=
  (contextsOf s p).zipIdx.map fun e => ((s.part p).slotAt e.2, image s 1 ⟨true, [], []⟩ (s.core e.1.core) e.1 (s.team p e.1.team))

/-- HCTL.DUMP = 1 (R422): the images are those of the contexts as they stand halted; ignored where a dump is not allowed. -/
def haltDump (p : Nat) (s : State) : State :=
  let q := s.part p
  if q.halted && q.slots.isEmpty && decide ((contextsOf s p).length ≤ q.nslot) then
    let d := dumpImages s p
    s.onPart p fun q => { q with dumping := true, dump := d }
  else s

/-- HALT_DUMP_COMPLETE: the images of the halted contexts are performed. -/
def haltDumpComplete (p : Nat) (s : State) : Option State :=
  if !(s.part p).dumping then none
  else
    let s := (s.part p).dump.foldl (fun s e => saveWrite s p e.1 e.2) s
    some (s.onPart p fun q => { q with dumping := false, dump := [] })

/-! ### Pre-emption (R411 to R416) -/

/-- QUIESCE_MARKER_RETURN: the markers of the context on core `c` have returned (R412). -/
def quiesceReturn (c : Nat) (s : State) : Option State := do
  let x ← s.ctx c
  if x.state = .hinted ∧ x.lq.isEmpty ∧ x.streams.all (fun o => o.all fun st => st.pos == st.sent) ∧
      (s.copiesOf c).all (fun k => !s.fabric.any fun q => q.origin == .copy k.id) then
    some ({ s with copies := s.copies.map fun (k : Copy) => if k.core = some c then parkCopy s k else k }.setCtx c { x with state := .quiet })
  else none

/-- What a pre-empted context keeps: its liveness record and its ranges. -/
def keepOf (k : Core) (x : Ctx) : Keep := ⟨false, liveBytes k x, (liveRanges k x (x.live + 64) 8).getD []⟩

/-- The rings and streams that a liveness record keeps; what it omits is unbound and empty (R159, R279). -/
def keptPart (k : Core) (x : Ctx) : Ctx :=
  let bs := liveBytes k x
  { x with
    streams := x.streams.zipIdx.map fun e => match e.1 with
      | some st => if (liveField bs 56 1).testBit e.2 then some st else none
      | none => none
    rings := x.rings.filter fun e => (liveField bs 52 4).testBit e.1 }

/-- Free image slots, ascending. -/
def Part.freeSlots (q : Part) : List Nat := (List.range q.nslot).filter fun k => !q.slots.contains k

/-- PREEMPT_SAVE: every context of the team is stopped; its images begin to be written into the lowest free slots (R413). -/
def preemptSave (p t : Nat) (s : State) : Option State := do
  let m ← s.team p t
  let q := s.part p
  if m.phase != .running || q.halt.isSome || !(m.cores.all fun c => (s.ctx c).any fun x => x.state == .quiet) ||
      decide (q.freeSlots.length < m.cores.length) then none
  else
    let slots := q.freeSlots.take m.cores.length
    let s := m.cores.foldl (fun s c => s.released c 4) s
    some ((s.onTeam p t fun m => { m with phase := .saving slots, saveAt := s.cycle }).onPart p fun q =>
      { q with slots := slots.foldl (fun l k => insertNat k l) q.slots, moving := true })

/-- PREEMPT_SAVE_COMPLETE: the images are performed; the cores are free (R413). A team pre-empted 2^16 times fails its nest (R119). -/
def preemptSaveComplete (p t : Nat) (s : State) : Option State := do
  let m ← s.team p t
  match m.phase with
  | .saving slots =>
    if (s.part p).halt.isSome then some (abandonSave s p t slots)
    else
      let q := s.part p
      let images := (m.cores.zip slots).filterMap fun e => (s.ctx e.1).map fun x => (q.slotAt e.2, image s 0 (keepOf (s.core e.1) x) (s.core e.1) x (some m))
      match images.find? fun e => saveBusy s e.1 e.2.length with
      | some e => some (abandonSave (saveWrite s p e.1 e.2) p t slots)
      | none =>
      let s := images.foldl (fun s e => saveWrite s p e.1 e.2) s
      let kept := m.cores.filterMap fun c => (s.ctx c).map (keptPart (s.core c))
      let s : State := { s with copies := s.copies.map fun (k : Copy) => if (k.core.any fun c => m.cores.contains c) then { k with stopped := true } else k }
      let s := m.cores.foldl (fun s c => (List.range 8).foldl (fun s j => s.forget (.stream c j)) s) s
      let s := m.cores.foldl (fun s c => s.setCore c { s.core c with ctx := none, window := [], phase := [], full := false }) s
      let s := (s.onTeam p t fun m => { m with phase := .out slots, kept, request := false, stopped := none, preempts := m.preempts + 1
                                               saveAt := s.cycle - m.saveAt }).onPart p fun q => { q with moving := false }
      some (if 2 ^ 16 ≤ m.preempts + 1 then s.onNest p m.nest fun n => { n with failed := some (n.failed.getD 5) } else s)
  | _ => none

/-- The rectangle on which a pre-empted team can be restored now (R112, R114). -/
def restoreAt (s : State) (p : Nat) (m : Team) : Option (Nat × Nat) :=
  let q := s.part p
  if q.level = 0 then (candidates q m.w m.h).find? fun r => blockFree q r.1 r.2 m.w m.h
  else if blockFree q m.x m.y m.w m.h then some (m.x, m.y) else none

/-- The bytes of the image in a slot, by its header (Table 16.5). -/
def imageLen (s : State) (p slot : Nat) : Nat :=
  min ((s.part p).stride * 2 ^ 20) (ofBytes (s.readPhys ((s.part p).slotAt slot + 8) 8))

/-- One context of a team returns to core `c` from its image in slot `slot`. -/
def restoreOne (s : State) (p : Nat) (m : Team) (x : Ctx) (slot c : Nat) : Option State := do
  let bs := s.readPhys ((s.part p).slotAt slot) (imageLen s p slot)
  let (mem, cells, y) ← readImage bs x (m.points.map Point.gen)
  let y := { y.note s.mtime (fun _ => true) with core := c, state := .loading }.raiseFloor 4
  let y := { y with ctl := { y.ctl with tfloor := max y.ctl.tfloor (field bs 32 8) } }
  let s := s.setCore c { s.core c with mem, cells, window := [], phase := [], full := false, ctx := some y }
  some { s with copies := s.copies.map fun k => match k.by_ with
    | .cpy o tm tag ln rt => if o = x.core ∧ tm = m.id then
        { resumeCopy s k with by_ := .cpy c tm tag ln rt, die := dieOf c, engine := (s.copyEngines p (dieOf c)).headD 0 } else k
    | .record .. => k }

/-- PREEMPT_RESTORE: a pre-empted team returns (R414, R421), and its cores issue from the end of the cycle on. It waits while an iteration of higher priority can be launched. The time that its restore takes is a free value (R119). DESIGN CHOICE: log entry 95. -/
def preemptRestore (p t : Nat) (s : State) : Option State := do
  let m ← s.team p t
  let q := s.part p
  match m.phase with
  | .out slots =>
    let r ← restoreAt s p m
    if q.halt.isSome || (nextNest s p).any fun n => decide (q.prioOf m < n.effective) then none
    else
      match slots.find? fun k => saveBusy s (q.slotAt k) (max 64 (imageLen s p k)) with
      | some k => some (saveRefused s p (q.slotAt k))
      | none =>
      let cores := { m with x := r.1, y := r.2 }.cores
      let s1 := s.onPart p fun q => { q with slots := q.slots.filter fun k => !slots.contains k }
      let s2 := ((m.kept.zip slots).zip cores).foldl (fun (o : Option State) e => o.bind fun s => restoreOne s p m e.1.1 e.1.2 e.2) (some s1)
      match s2 with
      | some s2 =>
        let s2 := s2.onTeam p t fun m =>
          { m with x := r.1, y := r.2, phase := .running, kept := [], start := s.cycle, sliced := false, request := false, stopped := none
                   arrivals := m.arrivals.map fun a => { a with core := ((m.cores.zip cores).find? fun e => e.1 == a.core).elim a.core Prod.snd } }
        let (u, s2) := s2.choose
        some (if q.slice < m.saveAt + Config.restoreTime u then s2.onPart p fun q => { q with ovr := (q.ovr + 1) % 2 ^ 64 } else s2)
      | none =>
        let s1 := { s1 with copies := s1.copies.filter fun k => match k.by_ with
          | .cpy _ tm _ _ _ => tm != t
          | .record .. => true }
        let s1 := s1.onPart p fun q => { q with teams := q.teams.filter fun u => u.id != t }
        some (retireNests (s1.onNest p m.nest fun n =>
          { n with failed := some (n.failed.getD 4), retired := n.retired + 1
                   logical := n.logical.map fun l => if l.team = t then { l with retired := true } else l }) p)
  | _ => none

/-- PWAIT_EXPIRY: a team not wholly stopped PWAIT cycles after its first member abandons its pre-emption (R416). -/
def pwaitExpiry (p t : Nat) (s : State) : Option State := do
  let m ← s.team p t
  let c ← m.stopped
  if m.phase == .running && decide ((s.part p).pwait ≤ s.cycle - c) && !(m.cores.all fun k => (s.ctx k).any fun x => x.state == .quiet) then
    some (abandon s p t)
  else none

def execEngineStop (p k : Nat) (s : State) : Out := engine (engineStop p k) s
def execHaltComplete (p : Nat) (s : State) : Out := engine (haltComplete p) s
def execHaltResume (p : Nat) (s : State) : Out := .next (haltResume p s)
def execHaltDump (p : Nat) (s : State) : Out := .next (haltDump p s)
def execHaltDumpComplete (p : Nat) (s : State) : Out := engine (haltDumpComplete p) s
def execQuiesceMarkerReturn (c : Nat) (s : State) : Out := engine (quiesceReturn c) s
def execPreemptSave (p t : Nat) (s : State) : Out := engine (preemptSave p t) s
def execPreemptSaveComplete (p t : Nat) (s : State) : Out := engine (preemptSaveComplete p t) s
def execPreemptRestore (p t : Nat) (s : State) : Out := engine (preemptRestore p t) s
def execPwaitExpiry (p t : Nat) (s : State) : Out := engine (pwaitExpiry p t) s

end Sys2Proof.Machine
end

