-- ==== Sys2Proof/Machine/Recovery.lean ====
section
/-!
DEFINITION. The recovery engine: seals (R432 to R436), riser and hold-buffer waits (R431, R437), rollbacks (R438, R439), uncorrectable errors (R404, R410), the release of held writes (R430, R454) and the metadata sweep (R427).
-/

namespace Sys2Proof.Machine

/-! ### Pours and drains -/

/-- R425: the pour number after `n`. -/
def nextPour (n : Nat) : Nat :=
  let m := (n + 1) % 2 ^ 32
  if m % 65536 = 65535 then (m + 1) % 2 ^ 32 else m

/-- Partition `p` as a member of its group's exchange. DEDUCED: log entry 70. -/
def localMember (p : Nat) : Nat := 4096 + p

/-- Changes every member of partition `p`'s group on this module. -/
def State.onGroup (s : State) (p : Nat) (f : Part → Part) : State := (s.group p).foldl (fun s q => s.onPart q f) s

/-- Nothing of partition `p` is incomplete (R433). DEDUCED: log entry 48. -/
def drained (s : State) (p : Nat) : Bool :=
  let x := s.part p
  x.teams.isEmpty && recordCopies s p == 0 && x.halt.isNone && x.logs.all (fun l => !l.sent && logBlocked s p l) &&
  !s.fabric.any fun k => k.part == p && (match k.body with
    | .release => false
    | .reply _ => false
    | _ => true)

/-- SEAL_DRAIN: a group with a request begins to drain (R433). -/
def beginDrain (s : State) (p : Nat) : State :=
  let q := s.part p
  if q.en && s.lead p == p && !q.reqs.isEmpty && q.sealing.isNone && (s.group p).all fun m => (s.part m).gstate == 0 then
    s.onGroup p fun q => { q with gstate := 1 }
  else s

/-- The modules that a group's bitmap lists besides this one. -/
def otherModules (s : State) (p : Nat) : List Nat :=
  if (s.part p).gmem = 0 then [] else (List.range 4096).filter fun m => m != s.modid && s.inGroup p m

/-- SEAL_DRAIN_COMPLETE: every member on this module has drained, and its leader sends PREPARE (R434). -/
def sealDrainComplete (p : Nat) (s : State) : Option State :=
  let q := s.part p
  let ms := s.group p
  if !(q.en && s.lead p == p && q.leader == s.modid && q.sealing.isNone && ms.all (fun m => (s.part m).gstate == 1 && drained s m)) then none
  else
    let all := ms.map localMember
    let w : Seal := { pour := q.cur, todo := all, await := all ++ otherModules s p, step := 1, meets := q.reqs, bad := [] }
    some ((s.onGroup p fun q => { q with gstate := 2 }).onPart p fun q => { q with reqs := [], sealing := some w })

/-- The restart record of a seal (R435): the SEAL nodes that it meets are finished in it. DEDUCED: log entry 69. -/
def restartOf (s : State) (p : Nat) (w : Seal) : Restart :=
  let x := s.part p
  let meet (g : Graph) : Graph := w.meets.foldl (fun g m => match m with
    | .node q i n => if q = p ∧ i = g.id ∧ g.running.contains n then g.finish n (g.node n).succ else g
    | .plain => g) g
  ⟨w.pour, (List.range 16).map fun j => (x.queue j).head, x.nests, x.graphs.map meet, x.logs⟩

/-- Module `m` is reached only through a UET berth, over which no exchange travels (R447). -/
def overUet (s : State) (m : Nat) : Bool := match route s m with
  | .inl b => (s.berth b).isUet
  | .inr _ => false

/-- The configuration of member `p` differs from its leader's (R423), or its exchange would have to travel over UET (R447): the leader's with each other member, another member's with the leader. DEDUCED: log entry 71. -/
def misconfigured (s : State) (p : Nat) : Bool :=
  let l := s.part (s.lead p)
  let q := s.part p
  q.leader != l.leader || ((q.gmem == 0) != (l.gmem == 0)) || (q.gmem != 0 && s.readPhys q.gmem 512 != s.readPhys l.gmem 512) ||
  (if l.leader = s.modid then (otherModules s (s.lead p)).any (overUet s) else overUet s l.leader)

/-- Why member `p` answers PREPARE with FAILED (R423, R440). -/
def prepareFails (s : State) (p : Nat) : Option Nat :=
  if misconfigured s p then some Cause.groupConfig.code else if s.injHeld = some p then some Cause.uncorrectable.code else none

/-- Changes the exchange kept at lead partition `l`. -/
def State.onSeal (s : State) (l : Nat) (f : Seal → Seal) : State := s.onPart l fun q => { q with sealing := q.sealing.map f }

/-! ### Rollbacks -/

/-- A fault of the recovery engine. -/
def recoveryFault (cause : Nat) : FaultInfo := ⟨unitRecovery, 8, cause, 0, 0, 0, 0, 0, 0, 0, 0, 0⟩

/-- R438, step 1: every member halts; a member that has halted keeps its FIRST. -/
def haltGroup (s : State) (p cause state : Nat) : State :=
  (s.group p).foldl (fun s q =>
    let s := if (s.part q).halt.isNone then s.raise q (recoveryFault cause) else s
    s.onPart q fun x => { x with gcause := cause, gstate := state }) s

/-- A rollback of partition `p`'s group begins (R438). -/
def startRollback (s : State) (p cause : Nat) : State := haltGroup s p cause 4

/-- R423, R436: a seal fails with the cause that a member answers. DEDUCED: log entry 71. -/
def sealFails (s : State) (p cause : Nat) : State :=
  let c := if cause = Cause.riserExhausted.code ∨ cause = Cause.holdExhausted.code ∨ (0x80 ≤ cause ∧ cause ≤ 0x84) then cause else Cause.sealFailed.code
  let s := (s.group p).foldl (fun s q => s.blackBox q 4 0 c) s
  if c = Cause.groupConfig.code then
    ((s.group p).foldl (fun s q => s.msi q) (haltGroup s p c 5)).onPart p fun q => { q with sealing := none }
  else startRollback s p c

/-- A fault that goes to recovery stands in the halt of a member: the exchange goes no further, and the seal fails as that halt is taken up (R436). -/
def struck (s : State) (p : Nat) : Bool :=
  (s.group p).any fun m => (s.part m).halt.any fun h => h.faults.any fun f => recoveryCause f.cause

/-- A byte of member `p`'s bitmap is under conversion: its read is refused, and tried again (R374). DESIGN CHOICE: log entry 109. -/
def bitmapBusy (s : State) (p : Nat) : Bool :=
  (s.part p).gmem != 0 && (List.range 512).any fun i => s.converting ((s.part p).gmem + i)

/-- PREPARE at member `p` (R434, R435); a leader on another module begins the exchange with it, and learns there that the seal fails (R423, R436). -/
def prepare (p : Nat) (s : State) : Option State := do
  let l := s.lead p
  let q := s.part l
  if !q.en || 4 ≤ q.gstate || struck s p then none
  else match q.sealing with
    | none =>
      if q.leader = s.modid then none
      else
        let w : Seal := { pour := q.cur, todo := (s.group p).map localMember, await := [], step := 1, meets := q.reqs, bad := [] }
        some ((s.onGroup p fun q => { q with gstate := 1 }).onPart l fun q => { q with reqs := [], sealing := some w })
    | some w =>
      if w.step ≠ 1 ∨ !w.todo.contains (localMember p) ∨ !drained s p ∨ bitmapBusy s p then none
      else
        let bad := prepareFails s p
        let s1 := { s with injHeld := if bad = some Cause.uncorrectable.code then none else s.injHeld }
        let s1 := s1.onPart p fun x => { x with gstate := 2, restarts := (restartOf s p w :: x.restarts).take 2 }
        let t := s1.onSeal l fun w => { w with todo := w.todo.filter (· != localMember p), bad := match bad with
          | some c => (localMember p, c) :: w.bad
          | none => w.bad }
        match (t.part l).sealing with
        | some v => some (if q.leader ≠ s.modid ∧ v.todo.isEmpty then ((v.bad.head?).map fun b => sealFails t l b.2).getD t else t)
        | none => some t

/-- Another module of the group tells lead partition `p` that the seal, or the pour, has failed there or at the leader, with its cause (R423, R436, R438): the seal under way fails, or the group rolls back. DEDUCED: log entry 70. -/
def failedAway (s : State) (p cause : Nat) : State :=
  if (s.part p).sealing.any fun w => decide (w.step ≤ 2) then sealFails s p cause
  else if cause = Cause.groupConfig.code then ((s.group p).foldl (fun s q => s.msi q) (haltGroup s p cause 5))
  else startRollback s p cause

/-- PREPARE_REPLY: the leader's partition `p` receives a member's PREPARED or FAILED; after every PREPARED it sends COMMIT (R434, R436). A FAILED of another module, its leader among them, may come at any time. DEDUCED: log entry 70. -/
def prepareReply (p : Nat) (r : SealReply) (s : State) : Option State := do
  let q := s.part p
  if q.en && s.lead p == p && !r.ok && decide (q.gstate < 4) && (otherModules s p).contains r.member then some (failedAway s p r.cause)
  else
  let w ← q.sealing
  if struck s p ∨ q.leader ≠ s.modid ∨ 4 ≤ q.gstate ∨ w.step ≠ 1 ∨ !w.await.contains r.member ∨ w.todo.contains r.member then none
  else if 4096 ≤ r.member ∧ (w.bad.find? fun b => b.1 == r.member).map Prod.snd ≠ (if r.ok then none else some r.cause) then none
  else if !r.ok then some (sealFails s p r.cause)
  else
    let rest := w.await.filter (· != r.member)
    if !rest.isEmpty then some (s.onSeal p fun w => { w with await := rest })
    else
      let all := (s.group p).map localMember
      some ((s.onGroup p fun q => { q with gstate := 3, wrote := false }).onSeal p fun w =>
        { w with step := 2, todo := all, await := all ++ otherModules s p })

/-- How many pours a line's metadata `m` lies behind a pour. -/
def behind (cur m : Nat) : Nat := (cur % 65536 + 65536 - m) % 65536

/-- The lines that the sweep has passed by now: it passes every line at least once in every 2^14 pours, so none stays 2^15 + 2^14 pours behind (R427). DEDUCED: log entry 53. -/
def sweepStale (s : State) (p : Nat) : State :=
  { s with lmeta := SMap.erase (fun l => decide (32768 + 16384 < behind (s.part p).cur (SMap.get 0xFFFF s.lmeta l))) s.lmeta }

/-- COMMIT at member `p` (R434). -/
def commit (p : Nat) (s : State) : Option State := do
  let l := s.lead p
  let q := s.part l
  let w ← q.sealing
  if 4 ≤ (s.part p).gstate || struck s p then none
  else
    let first := w.step == 1 && w.todo.isEmpty && q.leader != s.modid
    if !(first || (w.step == 2 && w.todo.contains (localMember p))) then none
    else
      let s1 := if first then (s.onGroup p fun q => { q with gstate := 3, wrote := false }).onSeal l fun w => { w with step := 2, todo := (s.group p).map localMember } else s
      let s1 := s1.onSeal l fun w => { w with todo := w.todo.filter (· != localMember p) }
      some (sweepStale (s1.onPart p fun x => { x with sealed := w.pour, cur := nextPour w.pour, top := nextPour w.pour, gstate := 0 }) p)

/-- The seal commits: the SEAL nodes that it meets finish where they still run (R122, R432), and the timer starts again. -/
def finishSeal (s : State) (p : Nat) (w : Seal) : State :=
  let s := w.meets.foldl (fun s m => match m with
    | .node q g n => if (s.part q).graphs.any fun r => r.id == g && r.running.contains n then runGraphs (nodeDone s q g n) q else s
    | .plain => s) s
  (s.msi 32).onGroup p fun q => { q with sealAt := s.cycle, timed := false }

/-- Pour `n` comes after seal `l`. -/
def after (l n : Nat) : Bool := let d := (n + 2 ^ 32 - l) % 2 ^ 32; decide (0 < d ∧ d < 2 ^ 31)

/-- The group has started pour `n`, at this member or elsewhere (R425). -/
def raiseTop (n : Nat) (q : Part) : Part := { q with top := if after q.top n then n else q.top }

/-- COMMITTED: the leader's partition `p` receives one; with the last one the seal commits and FREE goes out (R434). DEDUCED: log entry 71. -/
def committed (p : Nat) (s : State) : Option State := do
  let q := s.part p
  let w ← q.sealing
  let m ← (w.await.find? fun m => 4096 ≤ m && !w.todo.contains m).or (w.await.find? fun m => m < 4096)
  if q.leader ≠ s.modid ∨ w.step ≠ 2 ∨ 4 ≤ q.gstate ∨ struck s p then none
  else
    let rest := w.await.filter (· != m)
    if !rest.isEmpty then some ((if m < 4096 then s.onGroup p (raiseTop (nextPour w.pour)) else s).onSeal p fun w => { w with await := rest })
    else some (finishSeal (s.onSeal p fun w => { w with await := [], step := 3, todo := (s.group p).map localMember }) p w)

/-- FREE at member `p`: the group's riser entries of the pour are freed, and its held writes released, all at once and so in the order in which they entered (R428, R430, R434). -/
def free (p : Nat) (s : State) : Option State := do
  let l := s.lead p
  let q := s.part l
  let w ← q.sealing
  let first := w.step == 2 && w.todo.isEmpty && q.leader != s.modid
  if !(first || (w.step == 3 && w.todo.contains (localMember p))) then none
  else
    let s := if first then finishSeal (s.onSeal l fun w => { w with step := 3, todo := (s.group p).map localMember }) p w else s
    let let_ (h : Held) : Held := if h.gid = q.gid ∧ h.pour = w.pour then { h with released := true } else h
    let s : State := { s with
      risers := s.risers.map fun es => es.filter fun e => !(e.gid == q.gid && e.pour == w.pour)
      hostHold := s.hostHold.map let_
      berths := s.berths.map fun b => { b with hold := b.hold.map let_ } }
    some (s.onPart l fun q => { q with sealing := q.sealing.bind fun w =>
      let rest := w.todo.filter (· != localMember p)
      if rest.isEmpty then none else some { w with todo := rest } })

/-- One riser entry is replayed (R438, step 3). -/
def undo (s : State) (h : Nat) (e : RiserEntry) : State :=
  if e.cell then s.onStack h fun x => { x with cells := SMap.put 0 x.cells e.addr (BitVec.ofNat 1024 (ofBytes e.old)) }
  else { s with mem := SMap.write s.mem e.addr e.old, lmeta := SMap.put 0xFFFF s.lmeta (e.addr / 64) 0xFFFF }

/-- R438, step 3: a group's held writes of pours after `l` are dropped and the others released; its riser entries after `l` are replayed, newest first. -/
def replay (s : State) (gid l : Nat) : State :=
  let keep (es : List Held) : List Held := (es.filter fun h => !(h.gid == gid && after l h.pour)).map fun h =>
    if h.gid = gid then { h with released := true } else h
  let s : State := { s with hostHold := keep s.hostHold, berths := s.berths.map fun b => { b with hold := keep b.hold } }
  let s := (List.range 10).foldl (fun s h =>
    ((s.risers.getD h []).filter fun e => e.gid == gid && after l e.pour).reverse.foldl (fun s e => undo s h e) s) s
  { s with risers := s.risers.map fun es => es.filter fun e => e.gid != gid }

/-- R438, step 4, R378: a member's contexts, filters, translations, scratchpads and accumulator stores are cleared, and its cores' sequence counters start again at 0. -/
def clearMember (s : State) (p : Nat) : State :=
  let s := discard s p
  let s := (s.part p).cores.foldl zeroCore s
  let s := (s.part p).cores.foldl (fun s c => s.setCore c { s.core c with seq := 0 }) s
  let s := (s.part p).dies.foldl (fun s d => dropDie s d ⟨p, none, true, 0, 0, false, true, 0, [], [], []⟩) s
  { s with
    filters := s.filters.filter fun f => f.part != p
    copies := s.copies.filter fun k => k.part != p
    fabric := s.fabric.filter fun k => k.part != p
    walks := s.walks.filter fun w => w.part != p
    injHeld := if s.injHeld = some p then none else s.injHeld }

/-- R438, step 5: a dispatch engine loads its restart record of seal `l`. A control packet that had started before it stays started. DEDUCED: log entry 68. -/
def loadRestart (s : State) (p l : Nat) : State :=
  s.onPart p fun q =>
    match q.restarts.find? fun r => r.pour == l with
    | none => { q with nests := [], teams := [], graphs := [], logs := [] }
    | some r =>
      let heads := fun j => r.heads.getD j 0
      let ctrls := q.ctrls.filter fun c => decide (c.index ≠ heads c.queue ∧ (heads c.queue + 2 ^ 32 - c.index) % 2 ^ 32 < 2 ^ 31)
      let qs := (List.range 16).foldl (fun m j =>
        SMap.put Queue.reset m j { SMap.get Queue.reset m j with head := heads j, since := s.cycle, boost := 0 }) q.queues
      { q with queues := qs, nests := r.nests, teams := [], graphs := r.graphs, logs := r.logs.map fun g => { g with sent := false }, slots := []
               ctrls, switch := if ctrls.isEmpty then none else q.switch, restarts := q.restarts.filter fun t => !after l t.pour, moving := false, dumping := false }

/-- Under a leader on another module, whether the other modules have gone on is theirs to know: this module's members have answered PREPARE, and which of them have received COMMIT is a free value. DESIGN CHOICE: log entry 118. -/
def beyond (s : State) (q : Part) (i : Nat) : Bool :=
  q.leader != s.modid && q.sealing.any fun w => decide (w.step ≤ 2) && w.todo.isEmpty && Config.race 514 s.free i

/-- The largest pour that any of the members has started (R425), or that another module has. DESIGN CHOICE: log entry 118. -/
def groupTop (s : State) (ms : List Nat) : Nat :=
  let top := memberTop s ms
  match ms.head? with
  | some m => match (s.part m).sealing with
    | some w => if beyond s (s.part m) 1 && after top (nextPour w.pour) then nextPour w.pour else top
    | none => top
  | none => top
where
  /-- The largest pour that a member of this module has started. -/
  memberTop (s : State) (ms : List Nat) : Nat := ms.foldl (fun m q => if after m (s.part q).top then (s.part q).top else m) ((ms.head?.map fun q => (s.part q).top).getD 0)

/-- R438, steps 6 and 7: the group's dispatch starts again, in the pour after `top`. -/
def restartMember (s : State) (p l top : Nat) : State :=
  sweepStale ((s.onPart p fun q => { q with cur := nextPour top, top := nextPour top, sealed := l, rollseq := (q.rollseq + 1) % 2 ^ 32, gstate := 0, halt := none
                                            halted := false, wrote := false, gone := [], state := 1 }).blackBox p 3 0 (s.part p).gcause) p

/-- The seal that a rollback returns to (R436, R438): the last one that has committed at every member. Where another module leads, or led, this module's members may all have received COMMIT, and whether every other member had is a free value. DEDUCED: log entry 71. DESIGN CHOICE: log entry 118. -/
def rollbackTarget (s : State) (p : Nat) : Nat :=
  let q := s.part p
  match q.sealing with
  | some w => if w.step = 2 then if beyond s q 0 then w.pour else ((q.restarts.find? fun r => r.pour != w.pour).map Restart.pour).getD q.sealed else q.sealed
  | none => q.sealed

/-- ROLLBACK_COMPLETE: every member has halted, and the rollback of lead partition `p`'s group is carried out (R438); after RISER_EXHAUSTED or HOLD_EXHAUSTED the group is then held for the host (R437). -/
def rollbackComplete (p : Nat) (s : State) : Option State :=
  let q := s.part p
  let ms := s.group p
  if !(q.en && s.lead p == p && q.gstate == 4 && ms.all fun m => (s.part m).halted) then none
  else
    let l := rollbackTarget s p
    let top := groupTop s ms
    let s := replay s q.gid l
    let s := ms.foldl (fun s m => loadRestart (clearMember s m) m l) s
    let s := s.onPart p fun q => { q with sealing := none }
    if q.gcause = Cause.riserExhausted.code ∨ q.gcause = Cause.holdExhausted.code then
      some (ms.foldl (fun s m => ((s.onPart m fun q => { q with gstate := 5, sealed := l }).blackBox m 3 0 q.gcause).msi m) s)
    else some (ms.foldl (fun s m => restartMember s m l top) s)

/-- RCTL.ROLLBACK (R438). -/
def rctlRollback (v : Word) (s : State) : State :=
  let p := fld v 3 0
  if v.getLsbD 4 && (s.part p).en then startRollback s p Cause.hostRollback.code else s

/-- This module is no leader and has lost every other module of the group (R439). -/
def alone (s : State) (p : Nat) : Bool :=
  let q := s.part p
  q.leader != s.modid && !q.gone.isEmpty && (otherModules s p).all q.gone.contains

/-- A halt that belongs to the recovery engine starts its rollback (R410, R438); a member that has lost every other one waits for the host (R439). -/
def takeOver (s : State) (p : Nat) : State :=
  let q := s.part p
  if q.en && !alone s p && q.halted && decide (q.gstate < 4) && (q.hfirst == Cause.uncorrectable.code || q.hfirst == Cause.peerLost.code) then
    if (s.part (s.lead p)).sealing.any fun w => decide (w.step ≤ 2) then sealFails s p q.hfirst else startRollback s p q.hfirst
  else s

/-- Partition `p` is about to be disabled (R410): what its group waits for goes on under the lead of the next member, and a seal that still needs `p` fails (R436). DESIGN CHOICE: log entry 118. -/
def leaveGroup (s : State) (p : Nat) : State :=
  let l := s.lead p
  match (s.group p).filter (· != p) with
  | [] => s
  | n :: _ =>
    let s := if (s.part l).sealing.any fun w => decide (w.step ≤ 2) then sealFails s l Cause.sealFailed.code else s
    let q := s.part l
    let rest := q.sealing.bind fun w =>
      let w := { w with todo := w.todo.filter (· != localMember p), await := w.await.filter (· != localMember p) }
      if w.step = 3 ∧ w.todo.isEmpty then none else some w
    if l = p then s.onPart n fun x => { x with sealing := rest, reqs := x.reqs ++ q.reqs.filter fun r => !x.reqs.contains r }
    else s.onPart l fun x => { x with sealing := rest }

/-! ### Timers and waits -/

/-- SEAL_TIMER_EXPIRY: SEALPER after the last commit, or after enable (R432). -/
def sealTimerExpiry (p : Nat) (s : State) : Option State :=
  let q := s.part p
  if q.en && s.lead p == p && s.sealper != 0 && !q.timed && decide (s.usCycles (1000 * s.sealper) ≤ s.cycle - q.sealAt) then
    let s := s.onPart p fun q => { q with timed := true }
    some (if q.wrote then s.requestSeal p .plain else s)
  else none

/-- A write that has waited 1 s for room halts its group (R431, R437). -/
def waitExpiry (held : Bool) (cause : Nat) (k : Nat) (s : State) : Option State := do
  let x ← s.fabric[k]?
  let t ← x.since
  if x.holdAt.isSome = held ∧ noRoom s x ∧ s.usCycles 1000000 ≤ s.cycle - t ∧ (s.part x.part).gstate < 4 then some (haltGroup s x.part cause 4) else none

/-- RISER_WAIT_EXPIRY. -/
def riserWaitExpiry (k : Nat) (s : State) : Option State := waitExpiry false Cause.riserExhausted.code k s

/-- HOLD_WAIT_EXPIRY. -/
def holdWaitExpiry (k : Nat) (s : State) : Option State := waitExpiry true Cause.holdExhausted.code k s

/-- META_SWEEP: a line whose metadata lies more than 2^15 pours behind the pour of some enabled partition is swept (R427). DEDUCED: log entry 53. -/
def metaSweep (line : Nat) (s : State) : Option State :=
  let m := SMap.get 0xFFFF s.lmeta line
  if m ≠ 0xFFFF ∧ (List.range 16).any (fun p => (s.part p).en && decide (32768 < behind (s.part p).cur m)) then
    some { s with lmeta := SMap.put 0xFFFF s.lmeta line 0xFFFF }
  else none

/-! ### Held writes -/

/-- HELD_WRITE_PERFORMED: the oldest released write of path `k` is performed (R430, R454, R456). A home whose converter works on its bytes refuses it (R374). -/
def heldWritePerformed (k : Nat) (s : State) : Option State := do
  let l := s.holdOf k
  let i ← l.findIdx? Held.released
  let h ← l[i]?
  let s1 := s.setHold k (dropAt l i)
  match (if k < 16 ∧ h.module ≠ 4096 ∧ h.module ≠ s.modid then [] else h.bytes).find? fun b => s.converting b.1 with
  | some b => s.faultOnce h.part (unitStack (homeOf b.1)) Cause.convertBusy.code 0 0 0 0
  | none =>
  if 16 ≤ k then (if s.hostUp ∨ h.bytes.all fun b => decide (b.1 < 0x200000000000) then some { s1 with mem := State.mergeBytes s1.mem h.bytes } else none)
  else if h.module = s.modid then some { s1 with mem := State.mergeBytes s1.mem h.bytes }
  else if !s.berthOpen k then none
  else if h.module = 4096 then some { s1.flit k with mem := State.mergeBytes s1.mem h.bytes }
  else some (s1.flit k)

/-! ### Uncorrectable errors -/

/-- UNCORRECTABLE: an error is found (R404, R410, R365, R373, R439). -/
def uncorrectable (e : ErrorSite) (s : State) : State :=
  match e with
  | .line pa p => if !(s.part p).en then s else match struckGather s pa p with
    | some (k, b, i) => gatherError s k b pa i
    | none => s.engineFault p (State.homeUnit (homeOf pa) unitRecovery) Cause.uncorrectable.code 0 0 0 0
  | .core c => match (List.range 16).find? fun p => (s.part p).en && (s.part p).holds c with
    | some p => s.engineFault p (unitIssue c) Cause.uncorrectable.code 0 0 0 (((s.ctx c).map Ctx.job).getD 0)
    | none => s
  | .riser _ p =>
    if (s.part p).gstate = 4 then (s.group p).foldl (fun s q => (s.onPart q fun x => { x with gstate := 6 }).msi q) s else s
  | .converter k => converterError k s

/-- What the recovery engine does in every cycle without an event of its own. -/
def recoveryTurn (s : State) (p : Nat) : State := beginDrain (takeOver s p) p

def execSealDrainComplete (p : Nat) (s : State) : Out := engine (sealDrainComplete p) s
def execPrepare (p : Nat) (s : State) : Out := engine (prepare p) s
def execPrepareReply (p : Nat) (r : SealReply) (s : State) : Out := engine (prepareReply p r) s
def execCommit (p : Nat) (s : State) : Out := engine (commit p) s
def execCommitted (p : Nat) (s : State) : Out := engine (committed p) s
def execFree (p : Nat) (s : State) : Out := engine (free p) s
def execRollbackComplete (p : Nat) (s : State) : Out := engine (rollbackComplete p) s
def execRctlRollback (v : Word) (s : State) : Out := .next (rctlRollback v s)
def execSealTimerExpiry (p : Nat) (s : State) : Out := engine (sealTimerExpiry p) s
def execRiserWaitExpiry (k : Nat) (s : State) : Out := engine (riserWaitExpiry k) s
def execHoldWaitExpiry (k : Nat) (s : State) : Out := engine (holdWaitExpiry k) s
def execMetaSweep (line : Nat) (s : State) : Out := engine (metaSweep line) s
def execHeldWritePerformed (k : Nat) (s : State) : Out := engine (heldWritePerformed k) s
def execHoldBufferEntry (k : Nat) (s : State) : Out := engine (holdBufferEntry k) s
def execUncorrectable (e : ErrorSite) (s : State) : Out := .next (uncorrectable e s)

end Sys2Proof.Machine
end

