-- ==== Sys2Proof/Machine/Sha.lean ====
section
/-!
DEFINITION. The digest that the measurement registers extend with (R465, R466), over lists of bytes.
Its constants are computed from what they stand for: the fractions of the roots of the first primes.
-/

namespace Sys2Proof.Machine.Sha

abbrev W := BitVec 32

/-- The largest `r` whose `k`-th power is at most `n`, found bit by bit from bit `b - 1` down. -/
def rootFrom (k n : Nat) : Nat → Nat → Nat
  | 0, r => r
  | b + 1, r => rootFrom k n b (if (r + 2 ^ b) ^ k ≤ n then r + 2 ^ b else r)

/-- The first 32 bits of the fraction of the `k`-th root of `p`, for a root below 8. -/
def rootFraction (k p : Nat) : W := BitVec.ofNat 32 (rootFrom k (p * 2 ^ (32 * k)) 35 0)

/-- The primes up to 311: the first 64. -/
def primes : List Nat := (List.range 312).filter fun n => 2 ≤ n && (List.range 18).all fun d => d < 2 || n % d != 0 || n == d

/-- One constant for each round. -/
def cubeFractions : List W := primes.map (rootFraction 3)

/-- The exclusive or of several rotations of one word. -/
def spin (rs : List Nat) (x : W) : W := rs.foldr (fun r y => x.rotateRight r ^^^ y) 0

/-- The eight words a digest is built in. -/
structure Chain where
  a : W
  b : W
  c : W
  d : W
  e : W
  f : W
  g : W
  h : W
  deriving DecidableEq, Repr

def Chain.list (v : Chain) : List W := [v.a, v.b, v.c, v.d, v.e, v.f, v.g, v.h]

/-- A chain whose words are `f 0` to `f 7`. -/
def Chain.of (f : Nat → W) : Chain := ⟨f 0, f 1, f 2, f 3, f 4, f 5, f 6, f 7⟩

/-- The chain before the first block. -/
def Chain.initial : Chain := Chain.of fun i => rootFraction 2 (primes.getD i 0)

def Chain.add (u v : Chain) : Chain := Chain.of fun i => u.list.getD i 0 + v.list.getD i 0

/-- One round, `x` the sum of the round's constant and message word. -/
def Chain.turn (v : Chain) (x : W) : Chain :=
  let chosen := v.g ^^^ (v.e &&& (v.f ^^^ v.g))
  let most := (v.a &&& v.b) ||| (v.c &&& (v.a ||| v.b))
  let up := x + v.h + chosen + spin [6, 11, 25] v.e
  { v with a := up + most + spin [2, 13, 22] v.a, b := v.a, c := v.b, d := v.c, e := up + v.d, f := v.e, g := v.f, h := v.g }

/-- The message word that comes sixteen places after the first of `ws`, the sixteen words before it. -/
def laterWord (ws : List W) : W :=
  let p := ws.getD 1 0
  let q := ws.getD 14 0
  ws.getD 0 0 + ws.getD 9 0 + (spin [7, 18] p ^^^ p >>> 3) + (spin [17, 19] q ^^^ q >>> 10)

/-- One round for each constant, over a window of sixteen message words that moves on a word a round. -/
def rounds : List W → List W → Chain → Chain
  | [], _, v => v
  | k :: ks, ws, v => rounds ks (ws.drop 1 ++ [laterWord ws]) (v.turn (k + ws.getD 0 0))

/-- The chain after one block of sixty-four bytes. -/
def Chain.absorb (v : Chain) (bs : List Byte) : Chain :=
  v.add (rounds cubeFractions ((List.range 16).map fun i => BitVec.ofNat 32 (ofBytes ((bs.drop (4 * i)).take 4).reverse)) v)

/-- The digest of a message, byte 0 first: a one bit, zeros and the length in bits fill its last block. PRESUMED: log entry 104. -/
def digest (m : List Byte) : List Byte :=
  let p := m ++ 128 :: List.replicate ((119 - m.length % 64) % 64) 0 ++ (bytesOf (8 * m.length) 8).reverse
  let v := (List.range (p.length / 64)).foldl (fun v i => v.absorb ((p.drop (64 * i)).take 64)) Chain.initial
  v.list.flatMap fun w => (bytesOf w.toNat 4).reverse

end Sys2Proof.Machine.Sha
end

