-- ==== Sys2Proof/Machine/Management.lean ====
section
/-!
DEFINITION. The management engine: boot (R465), measurement and attestation (R466, R467), full service (R468), resets (R469), power (R470), routes and keys (R472), and the host's writes of control registers.
-/

namespace Sys2Proof.Machine

/-! ### Measurement (R466) -/

/-- MEASi := SHA-256(MEASi ∥ d). -/
def extend (s : State) (i : Nat) (d : List Byte) : State :=
  let m := s.mgmt.meas.getD i 0
  { s with mgmt := { s.mgmt with meas := s.mgmt.meas.set i (ofBytes (Sha.digest ((bytesOf m 32).reverse ++ d)).reverse) } }

/-- An accepted configuration write is noted among those of its cycle, by ascending address. DEDUCED: log entry 76. -/
def measure (s : State) (a : Nat) (v : Word) : State :=
  { s with mgmt := { s.mgmt with accepted := insertBy (fun x y => decide (x.1 < y.1)) (a, v) s.mgmt.accepted } }

/-- The configuration writes of a cycle extend MEAS8, in ascending address order. -/
def extendCycle (s : State) : State :=
  s.mgmt.accepted.foldl (fun s w => extend s 8 (Sha.digest (bytesOf w.1 8 ++ bytesOf w.2.toNat 8)))
    { s with mgmt := { s.mgmt with accepted := [] } }

/-- The first MMIO address (R76). -/
def mmioBase : Nat := 0xF00100000000

/-! ### PCFG and PERS -/

/-- A write of PCFG of partition `p` (R99, R100, R468), measured where it is accepted. -/
def pcfgWrite (p : Nat) (v : Word) (s : State) : State :=
  let q := s.part p
  if !q.en && decide (s.mgmt.phase < 5) && fld v 33 32 == 2 then s.onPart p fun q => { q with err := 1 }
  else
    let t := if v.getLsbD 63 then partitionEnable p v s else partitionDisable p v (if q.en && q.mayEnd then leaveGroup s p else s)
    if (v.getLsbD 63 ∧ (q.en ∨ !(t.part p).en)) ∨ (!v.getLsbD 63 ∧ q.en ∧ (t.part p).en) then t
    else measure t (mmioBase + 0x1000 * p) v

/-- A write of PERS of berth `b` (R449), measured where it is accepted. -/
def persSet (b : Nat) (v : Word) (s : State) : State :=
  if persAccepted s b then measure (persWrite b v s) (mmioBase + 0x600000 + 0x1000 * b) v else persWrite b v s

/-! ### Commands (R467, R468, R472) -/

/-- The engine ends a command. -/
def mbDone (s : State) (r : Nat) : State := { s with mgmt := { s.mgmt with busy := false, result := r } }.msi 33

/-- A write of MBCMD: a GO starts the engine unless it is busy; one for full service is turned down while a partition is enabled (R468). DEDUCED: log entry 75. -/
def mbcmdWrite (v : Word) (s : State) : State :=
  let c := fld v 7 0
  if !v.getLsbD 63 then { s with mgmt := { s.mgmt with cmd := c } }
  else if s.mgmt.busy then s
  else if c = 0 ∨ 4 < c then { s with mgmt := { s.mgmt with cmd := c } }
  else if c = 2 ∧ s.parts.any Part.en then mbDone { s with mgmt := { s.mgmt with cmd := c } } 4
  else { s with mgmt := { s.mgmt with cmd := c, busy := true, run := c, snapNonce := s.mgmt.nonce, snapMeas := s.mgmt.meas } }

/-- Bytes 0 to 575 of a report (R467). -/
def report (s : State) (q : Nat) : List Byte :=
  s.mgmt.snapNonce.flatMap (fun w => bytesOf w.toNat 8) ++ bytesOf s.modid 2 ++ bytesOf s.mgmt.svn 2 ++ bytesOf q 4 ++
  List.replicate 24 0 ++ s.mgmt.snapMeas.flatMap fun m => (bytesOf m 32).reverse

/-- The bytes of a report that have a home outside the risers are written (R424, R467). DESIGN CHOICE: log entry 110. -/
def writeReport (s : State) (pa : Nat) (bs : List Byte) : State :=
  { s with mem := bs.zipIdx.foldl (fun m e => match s.dram (pa + e.2) with
      | some a => SMap.put 0 m a e.1
      | none => m) s.mem }

/-- ATTEST (R467). A report whose bytes a converter works on is written once it has ended (R374). DEDUCED: log entry 75. DESIGN CHOICE: log entry 109. -/
def attest (s : State) : Option State :=
  let m := s.mgmt
  if !(m.busy && m.run == 1) then none
  else if m.mbaddr % 64 ≠ 0 ∨ !s.tableAt m.mbaddr then some (mbDone s 2)
  else if m.akleft = 0 then some (mbDone s 3)
  else if (List.range 37).any fun i => (s.dram (m.mbaddr + 64 * i)).any s.converting then none
  else
    let q := m.keyIndex
    let r := report s q
    let s := { s with mgmt := { m with keyIndex := q + 1, akleft := m.akleft - 1 } }
    some (mbDone (writeReport s m.mbaddr (r ++ (List.range 1772).map (Config.lms q r))) 0)

/-- ENTER_FULL_SERVICE (R468). -/
def enterFullService (s : State) : Option State :=
  if !(s.mgmt.busy && s.mgmt.run == 2) then none
  else if s.parts.any Part.en then some (mbDone s 4)
  else
    let s := mbDone s 0
    some (if s.mgmt.phase = 3 then { s with mgmt := { s.mgmt with phase := 4 } } else s)

/-- WRITE_ROUTE (R472). -/
def writeRoute (s : State) : Option State :=
  let v := s.mgmt.arg1
  let m := fld s.mgmt.arg0 11 0
  if !(s.mgmt.busy && s.mgmt.run == 3) then none
  else if fld s.mgmt.arg0 63 12 ≠ 0 ∨ fld v 62 20 ≠ 0 ∨ fld v 15 12 ≠ 0 then some (mbDone s 5)
  else some (mbDone (measure { s with mroute := SMap.put 0 s.mroute m v } (mmioBase + 0x700000 + 8 * m) v) 0)

/-- WRITE_JOIN_KEY (R472). -/
def writeJoinKey (s : State) : Option State :=
  let v := s.mgmt.arg1
  let n := fld s.mgmt.arg0 3 0
  if !(s.mgmt.busy && s.mgmt.run == 4) then none
  else if fld s.mgmt.arg0 63 12 ≠ 0 ∨ fld v 63 32 ≠ 0 ∨ (s.part n).en then some (mbDone s 5)
  else some (mbDone (measure (s.onPart n fun q => { q with key := v.toNat }) (mmioBase + 0x708000 + 8 * n) v) 0)

/-! ### Boot (R465) -/

/-- Phase 1: the images are measured, and their version is checked against the fuses. -/
def bootVerify (s : State) : State :=
  let s := (List.range 8).foldl (fun s i => extend s i ((List.range 32).map (Config.digest i))) s
  let svn := Config.svn % 2 ^ 16
  if svn < s.mgmt.fusesvn then { s with mgmt := { s.mgmt with err := 2 } } else { s with mgmt := { s.mgmt with svn, phase := 2 } }

/-- The failures of a phase. -/
def bootFails (phase err : Nat) : Bool :=
  (phase == 1 && (err == 1 || err == 2)) || (phase == 2 && err == 3) || (phase == 4 && err == 4)

/-- BOOT_PHASE_COMPLETE: the phase ends well, or with an error (R465). Phase 3 ends by command alone, and phase 5 not at all. -/
def bootPhaseComplete (err : Nat) (s : State) : Option State :=
  let m := s.mgmt
  if m.err ≠ 0 then none
  else if err ≠ 0 then (if bootFails m.phase err then some { s with mgmt := { m with err } } else none)
  else match m.phase with
    | 0 => some { s with mgmt := { m with phase := 1 } }
    | 1 => some (bootVerify s)
    | 2 => some { s with mgmt := { m with phase := 3 } }
    | 4 => some { s with mgmt := { m with phase := 5, fusesvn := max m.fusesvn m.svn } }
    | _ => none

/-! ### Resets (R469) -/

/-- PARTITION_RESET (R469). Cores are a partition's while it is enabled. DEDUCED: log entry 79. -/
def partitionReset (p : Nat) (s : State) : State :=
  let s := discard s p
  let s := if (s.part p).en then (s.part p).cores.foldl zeroCore s else s
  let s : State := { s with copies := s.copies.filter fun k => k.part != p, fabric := s.fabric.filter fun k => k.part != p
                            walks := s.walks.filter fun w => w.part != p }
  (s.blackBox p 8 0 0).onPart p fun q =>
    { q with en := false, state := 0, halt := none, halted := false, dumping := false, dump := [], moving := false, slots := [], ctrls := [], logs := []
             nests := [], graphs := [], teams := [], switch := none, sealing := none, reqs := [], gstate := 0
             queues := q.queues.map fun e => (e.1, { e.2 with en := false }) }

/-- DIE_RESET (R469, R396). -/
def dieReset (d : Nat) (s : State) : State :=
  ((List.range 16).filter fun p => (s.part p).dies.contains d && (s.part p).en).foldl (fun s p => partitionReset p s) (resetXlat s d)

/-- MODULE_RESET: everything at its reset value but the black boxes (R464), the fuses (R465), the key's index (R467), and what the outside world is still to do. DESIGN CHOICE: log entry 9. DEDUCED: log entry 78. -/
def moduleReset (s : State) : State :=
  let r : State := { State.reset with
    parts := s.parts.zipIdx.map fun e => { Part.reset s.modid e.2 with box := { e.1.box with fresh := 0 } }
    modid := s.modid
    mgmt := { Mgmt.reset with fusesvn := s.mgmt.fusesvn, akleft := s.mgmt.akleft, keyIndex := s.mgmt.keyIndex }
    hostUp := s.hostUp, agenda := s.agenda, nextId := s.nextId, free := s.free }
  ((List.range 16).filter fun p => (s.part p).en).foldl (fun s p => s.blackBox p 8 0 0) r

/-! ### Power (R470) -/

/-- PGATE_UPDATE: the measured draw in watts is compared with PCAP. DEDUCED: log entry 74. -/
def pgateUpdate (draw : Nat) (s : State) : State :=
  let gated (p : Nat) : Bool := (s.part p).en && (s.part p).level != 2
  if 2590 ≤ s.mgmt.pcap then { s with parts := s.parts.map fun q => { q with gate := 15 } }
  else
    let miss := decide (s.mgmt.pcap < draw) && (List.range 16).all fun p => !gated p || (s.part p).gate == 0
    let (u, s) := s.choose
    { s with mgmt := { s.mgmt with capmiss := s.mgmt.capmiss || miss }
             parts := s.parts.zipIdx.map fun e => { e.1 with gate := if e.1.en ∧ e.1.level ≠ 2 then Config.gate u e.2 % 16 else 15 } }

/-! ### Writes of control registers -/

/-- The bits of a word that a list of fields (high, low) keeps. -/
def keep (v : Word) (fs : List (Nat × Nat)) : Nat := fs.foldl (fun n f => n + fld v f.1 f.2 * 2 ^ f.2) 0

/-- The dispatch-control block of partition `p` (Table 4.1). -/
def writeDispatch (p o : Nat) (v : Word) (s : State) : State :=
  match o with
  | 0x000 => pcfgWrite p v s
  | 0x010 => s.onPart p fun q => { q with slice := v.toNat }
  | 0x018 => s.onPart p fun q => { q with qmin := v.toNat }
  | 0x020 => s.onPart p fun q => { q with ovr := v.toNat }
  | _ =>
    if o < 0x100 ∨ 0x300 ≤ o then s
    else
      let q := (o - 0x100) / 0x20
      match o % 0x20 with
      | 0x00 => s.onPart p fun x => x.onQueue q fun u => { u with base := keep v [(51, 12)] }
      | 0x08 => qcfgWrite p q v s
      | 0x18 => qtailWrite p q v s
      | _ => s

/-- The memory-control block (Table 3.3). -/
def writeWindow (p o : Nat) (v : Word) (s : State) : State :=
  if o < 0x200 then s.onPart p fun q => { q with rwin := SMap.put 0 q.rwin (o / 8) (BitVec.ofNat 64 (keep v [(63, 63), (38, 24), (11, 0)])) } else s

/-- The translation-control block (Table 15.1). -/
def writeXlat (p o : Nat) (v : Word) (s : State) : State :=
  if o < 0x800 then
    let fs := match o % 32 with
      | 0 => [(55, 12), (0, 0)]
      | 8 => [(55, 12)]
      | 16 => [(51, 12)]
      | _ => [(7, 4), (2, 0)]
    s.onPart p fun q => { q with xblk := SMap.put 0 q.xblk (o / 8) (BitVec.ofNat 64 (keep v fs)) }
  else if o = 0x800 then s.onPart p fun q => { q with ptroot := BitVec.ofNat 64 (keep v [(51, 20), (0, 0)]) }
  else if o = 0x808 ∧ v.getLsbD 63 then tinvGo p s
  else s

/-- The stack control block (Table 14.1). -/
def writeStack (k o : Nat) (v : Word) (s : State) : State :=
  match o with
  | 0x000 => s.onStack k fun x => { x with cvaddr := keep v [(51, 6)] }
  | 0x008 => s.onStack k fun x => { x with cvcnt := fld v 31 0 }
  | 0x010 => cvctlGo k v s
  | _ => if 0x100 ≤ o ∧ o < 0x180 then crallocWrite k ((o - 0x100) / 8) v s else s

/-- The save-control block (Table 16.1). A base outside HBM4E and LPDDR-6 is ignored (R398). -/
def writeSave (p o : Nat) (v : Word) (s : State) : State :=
  let q := s.part p
  let fixed := q.moving || q.dumping || !q.slots.isEmpty
  let base := keep v [(51, 12)]
  match o with
  | 0x000 => if fixed ∨ s.tableAt base = false then s else s.onPart p fun q => { q with srbase := base }
  | 0x008 => if fixed ∨ s.tableAt base = false then s else s.onPart p fun q => { q with imgbase := base }
  | 0x010 =>
    if fixed then s
    else s.onPart p fun q => { q with stride := if 10 ≤ fld v 47 32 ∧ fld v 47 32 ≤ 1024 then fld v 47 32 else q.stride, nslot := fld v 15 0 }
  | 0x018 =>
    let s := if v.getLsbD 1 then haltDump p s else s
    if v.getLsbD 0 then haltResume p s else s
  | 0x028 => s.onPart p fun q => { q with pwait := v.toNat }
  | 0x030 => s.onPart p fun q => { q with pabort := v.toNat }
  | _ => s

/-- The recovery-control block (Table 17.1). -/
def writeRecovery (o : Nat) (v : Word) (s : State) : State :=
  match o with
  | 0x000 => if s.parts.any Part.en ∨ fld v 8 4 = 0 ∨ 16 < fld v 8 4 then s else { s with riser := fld v 8 4 }
  | 0x008 => { s with sealper := fld v 31 0 }
  | 0x010 => { s with inj := BitVec.ofNat 64 (keep v [(63, 62), (51, 32), (27, 0)]), injCount := 0 }
  | 0x018 => if v.getLsbD 4 then rctlRollback v s else s
  | _ =>
    let p := (o - 0x100) / 0x20
    if o < 0x100 ∨ 0x300 ≤ o ∨ (s.part p).en then s
    else match o % 0x20 with
      | 0x00 => measure (s.onPart p fun q => { q with leader := fld v 27 16, gid := fld v 15 0 }) (mmioBase + 0x500000 + o) v
      | 0x08 => measure (s.onPart p fun q => { q with gmem := keep v [(51, 9)] }) (mmioBase + 0x500000 + o) v
      | _ => s

/-- A berth's control block (Table 18.3). -/
def writeBerth (b o : Nat) (v : Word) (s : State) : State :=
  match o with
  | 0x000 => persSet b v s
  | 0x010 => s.onBerth b fun x => { x with drainTo := v.toNat }
  | 0x020 => if v.getLsbD 0 then kgo b s else s
  | 0x028 => kstatWrite s b v
  | _ => if 0x040 ≤ o ∧ o < 0x080 then s.onBerth b fun x => { x with kpend := x.kpend.set ((o - 0x040) / 8) v } else s

/-- A core's trace-control block (Table 19.3). TCMD acts in the order DUMP, CLR, ARM. -/
def writeTrace (c o : Nat) (v : Word) (s : State) : State :=
  match o with
  | 0x00 => s.onTrace c fun t => { t with ctl := keep v [(63, 48), (46, 40), (38, 32), (27, 16), (10, 8), (6, 0)] }
  | 0x08 => s.onTrace c fun t => { t with pcm := keep v [(22, 3)] }
  | 0x18 =>
    let s := if v.getLsbD 2 then traceDump c s else s
    let s := if v.getLsbD 1 then s.onTrace c Trace.clear else s
    if v.getLsbD 0 then s.onTrace c Trace.arm else s
  | 0x20 => s.onTrace c fun t => { t with tdst := keep v [(51, 12)] }
  | _ => s

/-- The management block (Table 20.1). -/
def writeMgmt (o : Nat) (v : Word) (s : State) : State :=
  let m := s.mgmt
  match o with
  | 0x008 =>
    let s := { s with mgmt := { m with pcap := fld v 31 0 } }
    if 2590 ≤ fld v 31 0 then { s with parts := s.parts.map fun q => { q with gate := 15 } } else s
  | 0x018 => if 100 ≤ fld v 31 0 ∧ fld v 31 0 ≤ 1000000 then { s with mgmt := { m with fto := fld v 31 0 } } else s
  | 0x020 => ((List.range 16).filter v.getLsbD).foldl (fun s p => partitionReset p s) s
  | 0x028 => mbcmdWrite v s
  | 0x038 => { s with mgmt := { m with mbaddr := keep v [(51, 6)] } }
  | 0x060 => { s with mgmt := { m with arg0 := v } }
  | 0x068 => { s with mgmt := { m with arg1 := v } }
  | _ => if 0x040 ≤ o ∧ o < 0x060 then { s with mgmt := { m with nonce := m.nonce.set ((o - 0x040) / 8) v } } else s

/-- REGISTER_WRITE: the host writes `v` at MMIO address `a` (R8 and the tables of control blocks). Writes of read-only registers, of reserved ones and outside BAR0 change nothing; after a failed boot no write is accepted (R465). DEDUCED: log entry 76. DEDUCED: log entry 77. -/
def registerWrite (a : Nat) (v : Word) (s : State) : State :=
  let o := a - mmioBase
  if a < mmioBase ∨ 0x1000000 ≤ o ∨ a % 8 ≠ 0 ∨ s.mgmt.err ≠ 0 then s
  else
    let n := o / 0x1000 % 0x100
    let r := o % 0x1000
    match o / 0x100000 with
    | 0x0 => if n < 16 then writeDispatch n r v s else s
    | 0x1 => if n < 16 then writeWindow n r v s else s
    | 0x2 => if n < 16 then writeXlat n r v s else s
    | 0x3 => if n < 8 then writeStack n r v s else s
    | 0x4 => if n < 16 then writeSave n r v s else s
    | 0x5 => if n = 0 then writeRecovery r v s else s
    | 0x6 => if n < 16 then writeBerth n r v s else s
    | 0x8 => let t := o - 0x800000; if t < 0x8000 then writeTrace (t / 0x40) (t % 0x40) v s else s
    | 0xA => if n ≠ 0 then s else match r with
      | 0x008 => mtset v s
      | 0x010 => bbclr v s
      | _ => s
    | 0xB => if n = 0 then writeMgmt r v s else s
    | _ => s

/-- What the host does to the module through its port, reads and the reset line apart. -/
def hostAct : Instr → Bool
  | .tinvGo _ => true
  | .qtailWrite _ _ _ => true
  | .qcfgWrite _ _ _ => true
  | .partitionEnable _ _ => true
  | .partitionDisable _ _ => true
  | .partitionReset _ => true
  | .haltResume _ => true
  | .haltDump _ => true
  | .homeLineWrite (.host _ _) => true
  | .rctlRollback _ => true
  | .persWrite _ _ => true
  | .kgo _ => true
  | .cvctlGo _ _ => true
  | .crallocWrite _ _ _ => true
  | .traceArm _ => true
  | .traceClr _ => true
  | .traceDump _ => true
  | .mtset _ => true
  | .bbclr _ => true
  | .registerWrite _ _ => true
  | _ => false

/-- The port takes input `i` now: after a failed boot it accepts nothing but reads (R465). -/
def admitted (s : State) (i : Instr) : Bool := s.mgmt.err == 0 || !hostAct i

def execPartitionEnable (p : Nat) (v : Word) (s : State) : Out := .next (pcfgWrite p (v ||| 0x8000000000000000#64) s)
def execPartitionDisable (p : Nat) (v : Word) (s : State) : Out := .next (pcfgWrite p (v &&& 0x7FFFFFFFFFFFFFFF#64) s)
def execPersWrite (b : Nat) (v : Word) (s : State) : Out := .next (persSet b v s)
def execRegisterWrite (a : Nat) (v : Word) (s : State) : Out := .next (registerWrite a v s)
def execModuleReset (s : State) : Out := .next (moduleReset s)
def execBootPhaseComplete (err : Nat) (s : State) : Out := engine (bootPhaseComplete err) s
def execAttest (s : State) : Out := engine attest s
def execEnterFullService (s : State) : Out := engine enterFullService s
def execWriteRoute (s : State) : Out := engine writeRoute s
def execWriteJoinKey (s : State) : Out := engine writeJoinKey s
def execPartitionReset (p : Nat) (s : State) : Out := .next (partitionReset p s)
def execDieReset (d : Nat) (s : State) : Out := .next (dieReset d s)
def execPgateUpdate (draw : Nat) (s : State) : Out := .next (pgateUpdate draw s)

end Sys2Proof.Machine
end

