-- ==== Sys2Proof/Machine/Dispatch.lean ====
section
/-!
DEFINITION. The dispatch of every instruction and event to its meaning.
-/

namespace Sys2Proof.Machine

/-- The meaning of one step of the opcode table. -/
def exec (i : Instr) (s : State) : Host.Outcome State Fault Refusal :=
  match i with
  | .emptyBundle => Sys2Proof.Machine.execEmptyBundle s
  | .nop h => Sys2Proof.Machine.execNop h s
  | .stallEnd c => Sys2Proof.Machine.execStallEnd c s
  | .resultLanding c => Sys2Proof.Machine.execResultLanding c s
  | .cellLanding c => Sys2Proof.Machine.execCellLanding c s
  | .br h f => Sys2Proof.Machine.execBr h f s
  | .bri h f => Sys2Proof.Machine.execBri h f s
  | .call h f => Sys2Proof.Machine.execCall h f s
  | .ret h f => Sys2Proof.Machine.execRet h f s
  | .loopi h f => Sys2Proof.Machine.execLoopi h f s
  | .loopiImm h f => Sys2Proof.Machine.execLoopiImm h f s
  | .loopb h f => Sys2Proof.Machine.execLoopb h f s
  | .loopx h f => Sys2Proof.Machine.execLoopx h f s
  | .rep h f => Sys2Proof.Machine.execRep h f s
  | .repImm h f => Sys2Proof.Machine.execRepImm h f s
  | .nopn h f => Sys2Proof.Machine.execNopn h f s
  | .pset h f => Sys2Proof.Machine.execPset h f s
  | .pand h f => Sys2Proof.Machine.execPand h f s
  | .por h f => Sys2Proof.Machine.execPor h f s
  | .pxor h f => Sys2Proof.Machine.execPxor h f s
  | .pnot h f => Sys2Proof.Machine.execPnot h f s
  | .pmov h f => Sys2Proof.Machine.execPmov h f s
  | .rvi h f => Sys2Proof.Machine.execRvi h f s
  | .rva h f => Sys2Proof.Machine.execRva h f s
  | .rvw h f => Sys2Proof.Machine.execRvw h f s
  | .rvaw h f => Sys2Proof.Machine.execRvaw h f s
  | .rendezvousArrival p t k => Sys2Proof.Machine.execRendezvousArrival p t k s
  | .phint h f => Sys2Proof.Machine.execPhint h f s
  | .trap h f => Sys2Proof.Machine.execTrap h f s
  | .tend h f => Sys2Proof.Machine.execTend h f s
  | .tfail h f => Sys2Proof.Machine.execTfail h f s
  | .crr h f => Sys2Proof.Machine.execCrr h f s
  | .crw h f => Sys2Proof.Machine.execCrw h f s
  | .add h f => Sys2Proof.Machine.execAdd h f s
  | .sub h f => Sys2Proof.Machine.execSub h f s
  | .addi h f => Sys2Proof.Machine.execAddi h f s
  | .and h f => Sys2Proof.Machine.execAnd h f s
  | .or h f => Sys2Proof.Machine.execOr h f s
  | .xor h f => Sys2Proof.Machine.execXor h f s
  | .andi h f => Sys2Proof.Machine.execAndi h f s
  | .ori h f => Sys2Proof.Machine.execOri h f s
  | .xori h f => Sys2Proof.Machine.execXori h f s
  | .sll h f => Sys2Proof.Machine.execSll h f s
  | .srl h f => Sys2Proof.Machine.execSrl h f s
  | .sra h f => Sys2Proof.Machine.execSra h f s
  | .slli h f => Sys2Proof.Machine.execSlli h f s
  | .srli h f => Sys2Proof.Machine.execSrli h f s
  | .srai h f => Sys2Proof.Machine.execSrai h f s
  | .mul h f => Sys2Proof.Machine.execMul h f s
  | .mulh h f => Sys2Proof.Machine.execMulh h f s
  | .mulhu h f => Sys2Proof.Machine.execMulhu h f s
  | .div h f => Sys2Proof.Machine.execDiv h f s
  | .divu h f => Sys2Proof.Machine.execDivu h f s
  | .rem h f => Sys2Proof.Machine.execRem h f s
  | .remu h f => Sys2Proof.Machine.execRemu h f s
  | .min h f => Sys2Proof.Machine.execMin h f s
  | .max h f => Sys2Proof.Machine.execMax h f s
  | .minu h f => Sys2Proof.Machine.execMinu h f s
  | .maxu h f => Sys2Proof.Machine.execMaxu h f s
  | .clz h f => Sys2Proof.Machine.execClz h f s
  | .popc h f => Sys2Proof.Machine.execPopc h f s
  | .li h f => Sys2Proof.Machine.execLi h f s
  | .lih h f => Sys2Proof.Machine.execLih h f s
  | .addsc h f => Sys2Proof.Machine.execAddsc h f s
  | .cmp h f => Sys2Proof.Machine.execCmp h f s
  | .cmpi h f => Sys2Proof.Machine.execCmpi h f s
  | .sel h f => Sys2Proof.Machine.execSel h f s
  | .xmv h f => Sys2Proof.Machine.execXmv h f s
  | .ld h f => Sys2Proof.Machine.execLd h f s
  | .st h f => Sys2Proof.Machine.execSt h f s
  | .fadd h f => Sys2Proof.Machine.execFadd h f s
  | .fsub h f => Sys2Proof.Machine.execFsub h f s
  | .fmul h f => Sys2Proof.Machine.execFmul h f s
  | .ffma h f => Sys2Proof.Machine.execFfma h f s
  | .fdiv h f => Sys2Proof.Machine.execFdiv h f s
  | .fsqrt h f => Sys2Proof.Machine.execFsqrt h f s
  | .fmin h f => Sys2Proof.Machine.execFmin h f s
  | .fmax h f => Sys2Proof.Machine.execFmax h f s
  | .fcmp h f => Sys2Proof.Machine.execFcmp h f s
  | .fcvt h f => Sys2Proof.Machine.execFcvt h f s
  | .shw h f => Sys2Proof.Machine.execShw h f s
  | .shrd h f => Sys2Proof.Machine.execShrd h f s
  | .vadd h f => Sys2Proof.Machine.execVadd h f s
  | .vsub h f => Sys2Proof.Machine.execVsub h f s
  | .vmul h f => Sys2Proof.Machine.execVmul h f s
  | .vmulh h f => Sys2Proof.Machine.execVmulh h f s
  | .vand h f => Sys2Proof.Machine.execVand h f s
  | .vor h f => Sys2Proof.Machine.execVor h f s
  | .vxor h f => Sys2Proof.Machine.execVxor h f s
  | .vsll h f => Sys2Proof.Machine.execVsll h f s
  | .vsrl h f => Sys2Proof.Machine.execVsrl h f s
  | .vsra h f => Sys2Proof.Machine.execVsra h f s
  | .vmin h f => Sys2Proof.Machine.execVmin h f s
  | .vmax h f => Sys2Proof.Machine.execVmax h f s
  | .vabs h f => Sys2Proof.Machine.execVabs h f s
  | .vadds h f => Sys2Proof.Machine.execVadds h f s
  | .vsubs h f => Sys2Proof.Machine.execVsubs h f s
  | .vcmp h f => Sys2Proof.Machine.execVcmp h f s
  | .vfadd h f => Sys2Proof.Machine.execVfadd h f s
  | .vfsub h f => Sys2Proof.Machine.execVfsub h f s
  | .vfmul h f => Sys2Proof.Machine.execVfmul h f s
  | .vffma h f => Sys2Proof.Machine.execVffma h f s
  | .vfdiv h f => Sys2Proof.Machine.execVfdiv h f s
  | .vfsqrt h f => Sys2Proof.Machine.execVfsqrt h f s
  | .vfmin h f => Sys2Proof.Machine.execVfmin h f s
  | .vfmax h f => Sys2Proof.Machine.execVfmax h f s
  | .vfabs h f => Sys2Proof.Machine.execVfabs h f s
  | .vfneg h f => Sys2Proof.Machine.execVfneg h f s
  | .vfcmp h f => Sys2Proof.Machine.execVfcmp h f s
  | .vtadd h f => Sys2Proof.Machine.execVtadd h f s
  | .vtsub h f => Sys2Proof.Machine.execVtsub h f s
  | .vtmul h f => Sys2Proof.Machine.execVtmul h f s
  | .vtfma h f => Sys2Proof.Machine.execVtfma h f s
  | .vred h f => Sys2Proof.Machine.execVred h f s
  | .vsel h f => Sys2Proof.Machine.execVsel h f s
  | .kand h f => Sys2Proof.Machine.execKand h f s
  | .kor h f => Sys2Proof.Machine.execKor h f s
  | .kxor h f => Sys2Proof.Machine.execKxor h f s
  | .knot h f => Sys2Proof.Machine.execKnot h f s
  | .kpop h f => Sys2Proof.Machine.execKpop h f s
  | .vbcast h f => Sys2Proof.Machine.execVbcast h f s
  | .vmov h f => Sys2Proof.Machine.execVmov h f s
  | .vext h f => Sys2Proof.Machine.execVext h f s
  | .vins h f => Sys2Proof.Machine.execVins h f s
  | .viota h f => Sys2Proof.Machine.execViota h f s
  | .vld h f => Sys2Proof.Machine.execVld h f s
  | .vst h f => Sys2Proof.Machine.execVst h f s
  | .vlds h f => Sys2Proof.Machine.execVlds h f s
  | .vsts h f => Sys2Proof.Machine.execVsts h f s
  | .vgath h f => Sys2Proof.Machine.execVgath h f s
  | .vscat h f => Sys2Proof.Machine.execVscat h f s
  | .vamul h f => Sys2Proof.Machine.execVamul h f s
  | .vconj h f => Sys2Proof.Machine.execVconj h f s
  | .vnorm h f => Sys2Proof.Machine.execVnorm h f s
  | .aload h f => Sys2Proof.Machine.execAload h f s
  | .aloadPreset h f => Sys2Proof.Machine.execAloadPreset h f s
  | .vxmv h f => Sys2Proof.Machine.execVxmv h f s
  | .qclr h f => Sys2Proof.Machine.execQclr h f s
  | .qmac h f => Sys2Proof.Machine.execQmac h f s
  | .qmacn h f => Sys2Proof.Machine.execQmacn h f s
  | .qadd h f => Sys2Proof.Machine.execQadd h f s
  | .qsub h f => Sys2Proof.Machine.execQsub h f s
  | .qneg h f => Sys2Proof.Machine.execQneg h f s
  | .qred h f => Sys2Proof.Machine.execQred h f s
  | .qround h f => Sys2Proof.Machine.execQround h f s
  | .qrounds h f => Sys2Proof.Machine.execQrounds h f s
  | .qld h f => Sys2Proof.Machine.execQld h f s
  | .qst h f => Sys2Proof.Machine.execQst h f s
  | .qmov h f => Sys2Proof.Machine.execQmov h f s
  | .qtst h f => Sys2Proof.Machine.execQtst h f s
  | .qmode h f => Sys2Proof.Machine.execQmode h f s
  | .xcvt h f => Sys2Proof.Machine.execXcvt h f s
  | .xpack h f => Sys2Proof.Machine.execXpack h f s
  | .xunp h f => Sys2Proof.Machine.execXunp h f s
  | .xscl h f => Sys2Proof.Machine.execXscl h f s
  | .xshuf h f => Sys2Proof.Machine.execXshuf h f s
  | .xshufShape h f => Sys2Proof.Machine.execXshufShape h f s
  | .xrev h f => Sys2Proof.Machine.execXrev h f s
  | .xrot h f => Sys2Proof.Machine.execXrot h f s
  | .xzip h f => Sys2Proof.Machine.execXzip h f s
  | .xunz h f => Sys2Proof.Machine.execXunz h f s
  | .xbc h f => Sys2Proof.Machine.execXbc h f s
  | .xcpr h f => Sys2Proof.Machine.execXcpr h f s
  | .xexp h f => Sys2Proof.Machine.execXexp h f s
  | .xswz h f => Sys2Proof.Machine.execXswz h f s
  | .xmrg h f => Sys2Proof.Machine.execXmrg h f s
  | .xsps h f => Sys2Proof.Machine.execXsps h f s
  | .xdth h f => Sys2Proof.Machine.execXdth h f s
  | .trcfg h f => Sys2Proof.Machine.execTrcfg h f s
  | .trw h f => Sys2Proof.Machine.execTrw h f s
  | .trc h f => Sys2Proof.Machine.execTrc h f s
  | .trclr h f => Sys2Proof.Machine.execTrclr h f s
  | .trst h f => Sys2Proof.Machine.execTrst h f s
  | .transposerChangeLands c => Sys2Proof.Machine.execTransposerChangeLands c s
  | .mgo h f => Sys2Proof.Machine.execMgo h f s
  | .mstep h f => Sys2Proof.Machine.execMstep h f s
  | .mwait h f => Sys2Proof.Machine.execMwait h f s
  | .mstat h f => Sys2Proof.Machine.execMstat h f s
  | .mabort h f => Sys2Proof.Machine.execMabort h f s
  | .mzero h f => Sys2Proof.Machine.execMzero h f s
  | .mldt h f => Sys2Proof.Machine.execMldt h f s
  | .mstt h f => Sys2Proof.Machine.execMstt h f s
  | .mgoNestStart c => Sys2Proof.Machine.execMgoNestStart c s
  | .kstepStart c => Sys2Proof.Machine.execKstepStart c s
  | .kstepRetire c => Sys2Proof.Machine.execKstepRetire c s
  | .sbind h f => Sys2Proof.Machine.execSbind h f s
  | .sunb h f => Sys2Proof.Machine.execSunb h f s
  | .ssync h f => Sys2Proof.Machine.execSsync h f s
  | .ginit h f => Sys2Proof.Machine.execGinit h f s
  | .gwf h f => Sys2Proof.Machine.execGwf h f s
  | .gwe h f => Sys2Proof.Machine.execGwe h f s
  | .gadvh h f => Sys2Proof.Machine.execGadvh h f s
  | .gadvt h f => Sys2Proof.Machine.execGadvt h f s
  | .gstat h f => Sys2Proof.Machine.execGstat h f s
  | .spushc h f => Sys2Proof.Machine.execSpushc h f s
  | .spopc h f => Sys2Proof.Machine.execSpopc h f s
  | .sbal h f => Sys2Proof.Machine.execSbal h f s
  | .sbalRun p t => Sys2Proof.Machine.execSbalRun p t s
  | .sbalComplete p t => Sys2Proof.Machine.execSbalComplete p t s
  | .portEntryArrival c j => Sys2Proof.Machine.execPortEntryArrival c j s
  | .streamWritePerformed c j => Sys2Proof.Machine.execStreamWritePerformed c j s
  | .ringSlotCommit c j => Sys2Proof.Machine.execRingSlotCommit c j s
  | .ringSlotFree c j => Sys2Proof.Machine.execRingSlotFree c j s
  | .cpy h f => Sys2Proof.Machine.execCpy h f s
  | .cpyw h f => Sys2Proof.Machine.execCpyw h f s
  | .cpyq h f => Sys2Proof.Machine.execCpyq h f s
  | .copyBurstDone k => Sys2Proof.Machine.execCopyBurstDone k s
  | .copyRtIncrementRetry k => Sys2Proof.Machine.execCopyRtIncrementRetry k s
  | .gatherPacket k ks => Sys2Proof.Machine.execGatherPacket k ks s
  | .lput h f => Sys2Proof.Machine.execLput h f s
  | .lputf h f => Sys2Proof.Machine.execLputf h f s
  | .lwait h f => Sys2Proof.Machine.execLwait h f s
  | .lwaitScalar h f => Sys2Proof.Machine.execLwaitScalar h f s
  | .lset h f => Sys2Proof.Machine.execLset h f s
  | .lsetSub h f => Sys2Proof.Machine.execLsetSub h f s
  | .lsig h f => Sys2Proof.Machine.execLsig h f s
  | .aop h f => Sys2Proof.Machine.execAop h f s
  | .aopn h f => Sys2Proof.Machine.execAopn h f s
  | .acas h f => Sys2Proof.Machine.execAcas h f s
  | .acasw h f => Sys2Proof.Machine.execAcasw h f s
  | .aenq h f => Sys2Proof.Machine.execAenq h f s
  | .achase h f => Sys2Proof.Machine.execAchase h f s
  | .ared h f => Sys2Proof.Machine.execAred h f s
  | .aredFin h f => Sys2Proof.Machine.execAredFin h f s
  | .crossRel h f => Sys2Proof.Machine.execCrossRel h f s
  | .crossAcq h f => Sys2Proof.Machine.execCrossAcq h f s
  | .crossAr h f => Sys2Proof.Machine.execCrossAr h f s
  | .aliasf h f => Sys2Proof.Machine.execAliasf h f s
  | .fence h f => Sys2Proof.Machine.execFence h f s
  | .nlaunch h f => Sys2Proof.Machine.execNlaunch h f s
  | .nlaunchAppend k => Sys2Proof.Machine.execNlaunchAppend k s
  | .jraise h f => Sys2Proof.Machine.execJraise h f s
  | .jpost h f => Sys2Proof.Machine.execJpost h f s
  | .sealreq h f => Sys2Proof.Machine.execSealreq h f s
  | .vainv h f => Sys2Proof.Machine.execVainv h f s
  | .vainvAll h f => Sys2Proof.Machine.execVainvAll h f s
  | .tsr h f => Sys2Proof.Machine.execTsr h f s
  | .trig h f => Sys2Proof.Machine.execTrig h f s
  | .tracePcMatch c => Sys2Proof.Machine.execTracePcMatch c s
  | .traceFreeze c => Sys2Proof.Machine.execTraceFreeze c s
  | .putPacketArrival k => Sys2Proof.Machine.execPutPacketArrival k s
  | .lsigArrival k => Sys2Proof.Machine.execLsigArrival k s
  | .putAck k => Sys2Proof.Machine.execPutAck k s
  | .atomicApply k => Sys2Proof.Machine.execAtomicApply k s
  | .atomicReply k => Sys2Proof.Machine.execAtomicReply k s
  | .operationPacket k => Sys2Proof.Machine.execOperationPacket k s
  | .achaseHop k => Sys2Proof.Machine.execAchaseHop k s
  | .crucibleAdd k => Sys2Proof.Machine.execCrucibleAdd k s
  | .crucibleFinalise k => Sys2Proof.Machine.execCrucibleFinalise k s
  | .jcbRaiseApply k => Sys2Proof.Machine.execJcbRaiseApply k s
  | .jcbPostApply k => Sys2Proof.Machine.execJcbPostApply k s
  | .endToEndRetry k => Sys2Proof.Machine.execEndToEndRetry k s
  | .refusalRetry k => Sys2Proof.Machine.execRefusalRetry k s
  | .fabricTimeout k => Sys2Proof.Machine.execFabricTimeout k s
  | .sourceRelease k => Sys2Proof.Machine.execSourceRelease k s
  | .translationWalkComplete k => Sys2Proof.Machine.execTranslationWalkComplete k s
  | .dieInvalidate k d => Sys2Proof.Machine.execDieInvalidate k d s
  | .invalidateAck k d => Sys2Proof.Machine.execInvalidateAck k d s
  | .vainvComplete k => Sys2Proof.Machine.execVainvComplete k s
  | .tinvGo p => Sys2Proof.Machine.execTinvGo p s
  | .qtailWrite p q v => Sys2Proof.Machine.execQtailWrite p q v s
  | .qcfgWrite p q v => Sys2Proof.Machine.execQcfgWrite p q v s
  | .partitionEnable p v => Sys2Proof.Machine.execPartitionEnable p v s
  | .partitionDisable p v => Sys2Proof.Machine.execPartitionDisable p v s
  | .queuePriorityAging p q => Sys2Proof.Machine.execQueuePriorityAging p q s
  | .nestRecordStart p q => Sys2Proof.Machine.execNestRecordStart p q s
  | .graphLaunch p q => Sys2Proof.Machine.execGraphLaunch p q s
  | .copyRecordStart p q => Sys2Proof.Machine.execCopyRecordStart p q s
  | .queueFence p q => Sys2Proof.Machine.execQueueFence p q s
  | .levelSwitch p q => Sys2Proof.Machine.execLevelSwitch p q s
  | .levelSwitchComplete p => Sys2Proof.Machine.execLevelSwitchComplete p s
  | .sealRequestPacket p q => Sys2Proof.Machine.execSealRequestPacket p q s
  | .teamLaunch p n => Sys2Proof.Machine.execTeamLaunch p n s
  | .teamRetire p t => Sys2Proof.Machine.execTeamRetire p t s
  | .retireLogWrite p q => Sys2Proof.Machine.execRetireLogWrite p q s
  | .signalWriteAccepted p g n => Sys2Proof.Machine.execSignalWriteAccepted p g n s
  | .iterationPriorityAging p n => Sys2Proof.Machine.execIterationPriorityAging p n s
  | .sliceExpiry p t => Sys2Proof.Machine.execSliceExpiry p t s
  | .quiesceMarkerReturn c => Sys2Proof.Machine.execQuiesceMarkerReturn c s
  | .preemptSave p t => Sys2Proof.Machine.execPreemptSave p t s
  | .preemptSaveComplete p t => Sys2Proof.Machine.execPreemptSaveComplete p t s
  | .preemptRestore p t => Sys2Proof.Machine.execPreemptRestore p t s
  | .pwaitExpiry p t => Sys2Proof.Machine.execPwaitExpiry p t s
  | .uncorrectable e => Sys2Proof.Machine.execUncorrectable e s
  | .engineStop p k => Sys2Proof.Machine.execEngineStop p k s
  | .haltComplete p => Sys2Proof.Machine.execHaltComplete p s
  | .haltResume p => Sys2Proof.Machine.execHaltResume p s
  | .haltDump p => Sys2Proof.Machine.execHaltDump p s
  | .haltDumpComplete p => Sys2Proof.Machine.execHaltDumpComplete p s
  | .homeLineRead k => Sys2Proof.Machine.execHomeLineRead k s
  | .homeLineWrite w => Sys2Proof.Machine.execHomeLineWrite w s
  | .riserWaitExpiry k => Sys2Proof.Machine.execRiserWaitExpiry k s
  | .holdBufferEntry k => Sys2Proof.Machine.execHoldBufferEntry k s
  | .holdWaitExpiry k => Sys2Proof.Machine.execHoldWaitExpiry k s
  | .metaSweep line => Sys2Proof.Machine.execMetaSweep line s
  | .sealTimerExpiry p => Sys2Proof.Machine.execSealTimerExpiry p s
  | .sealDrainComplete p => Sys2Proof.Machine.execSealDrainComplete p s
  | .prepare p => Sys2Proof.Machine.execPrepare p s
  | .prepareReply p r => Sys2Proof.Machine.execPrepareReply p r s
  | .commit p => Sys2Proof.Machine.execCommit p s
  | .committed p => Sys2Proof.Machine.execCommitted p s
  | .free p => Sys2Proof.Machine.execFree p s
  | .rctlRollback v => Sys2Proof.Machine.execRctlRollback v s
  | .persWrite b v => Sys2Proof.Machine.execPersWrite b v s
  | .berthDrainComplete b => Sys2Proof.Machine.execBerthDrainComplete b s
  | .drainTimeout b => Sys2Proof.Machine.execDrainTimeout b s
  | .berthTrainingComplete b lanes klimit => Sys2Proof.Machine.execBerthTrainingComplete b lanes klimit s
  | .kgo b => Sys2Proof.Machine.execKgo b s
  | .keyLow b => Sys2Proof.Machine.execKeyLow b s
  | .keyExhausted b => Sys2Proof.Machine.execKeyExhausted b s
  | .remoteRequestAdmission r => Sys2Proof.Machine.execRemoteRequestAdmission r s
  | .hostLinkLoss => Sys2Proof.Machine.execHostLinkLoss s
  | .hostLinkReturn => Sys2Proof.Machine.execHostLinkReturn s
  | .cvctlGo ks v => Sys2Proof.Machine.execCvctlGo ks v s
  | .conversionComplete ks => Sys2Proof.Machine.execConversionComplete ks s
  | .crallocWrite ks n v => Sys2Proof.Machine.execCrallocWrite ks n v s
  | .traceArm c => Sys2Proof.Machine.execTraceArm c s
  | .traceClr c => Sys2Proof.Machine.execTraceClr c s
  | .traceDump c => Sys2Proof.Machine.execTraceDump c s
  | .traceDumpComplete c => Sys2Proof.Machine.execTraceDumpComplete c s
  | .mtset v => Sys2Proof.Machine.execMtset v s
  | .bbclr v => Sys2Proof.Machine.execBbclr v s
  | .moduleReset => Sys2Proof.Machine.execModuleReset s
  | .bootPhaseComplete err => Sys2Proof.Machine.execBootPhaseComplete err s
  | .attest => Sys2Proof.Machine.execAttest s
  | .enterFullService => Sys2Proof.Machine.execEnterFullService s
  | .writeRoute => Sys2Proof.Machine.execWriteRoute s
  | .writeJoinKey => Sys2Proof.Machine.execWriteJoinKey s
  | .partitionReset p => Sys2Proof.Machine.execPartitionReset p s
  | .dieReset d => Sys2Proof.Machine.execDieReset d s
  | .registerWrite a v => Sys2Proof.Machine.execRegisterWrite a v s
  | .crossPerformed c => Sys2Proof.Machine.execCrossPerformed c s
  | .berthLoss b => Sys2Proof.Machine.execBerthLoss b s
  | .pgateUpdate draw => Sys2Proof.Machine.execPgateUpdate draw s
  | .heldWritePerformed k => Sys2Proof.Machine.execHeldWritePerformed k s
  | .rollbackComplete p => Sys2Proof.Machine.execRollbackComplete p s

end Sys2Proof.Machine
end

