-- ==== Sys2Proof/Machine/Events.lean ====
section
/-!
DEFINITION. The order of steps: the events that come as soon as they can, the engine events that may come next, the turn of a core, and the end of a cycle.
The specification orders engine events only through their conditions, so `Config.pick` decides among those that can happen.
-/

namespace Sys2Proof.Machine

/-- What an engine step of the opcode table would make of the machine now: nothing where it cannot happen. -/
abbrev Cand := Option State

/-- The cores on which a context is resident. -/
def busyCores (s : State) : List Nat := s.cores.filterMap fun e => e.2.ctx.map fun _ => e.1

/-- The enabled partitions. -/
def enabledParts (s : State) : List Nat := (List.range 16).filter fun p => (s.part p).en

/-! ### Events that come at once -/

/-- The events that end what an engine must finish before it can stop (Table 16.2). -/
def finishing (s : State) (p k : Nat) : List Cand :=
  match unitKind k with
  | 1 => [kstepRetire (k / 4) s]
  | 4 => ((s.copies.zipIdx.filter fun c => c.1.part == p && c.1.bursts.any fun b => unitCopy c.1.die b.engine == k).map fun c => copyBurstDone c.2 s) ++
      (List.range s.fabric.length).flatMap fun i => match (s.fabric[i]?).map Packet.origin with
        | some (.copy _) => [homeLineWrite (.fabric i) s, holdBufferEntry i s]
        | _ => []
  | 5 => (List.range s.fabric.length).flatMap fun i =>
      [homeLineRead i s, homeLineWrite (.fabric i) s, atomicApply i s,
       operationPacket i s, achaseHop i s, crucibleAddStep i s,
       crucibleFinStep i s, jcbRaiseApply i s, jcbPostStep i s]
  | 7 => (List.range s.walks.length).map fun i => walkComplete i s
  | _ => []

/-- The engines that a halt must stop now (Table 16.2), and the records that are to be written again (R402). -/
def dueStops (s : State) (p : Nat) : List Cand :=
  match (s.part p).halt with
  | none => []
  | some h => (h.again.map fun k => engineStop p k s) ++ (h.pending.filter fun k => s.overdue p k).flatMap fun k =>
      engineStop p k s :: (if atBoundary s p k then [] else finishing s p k)

/-- What a partition does at once: aging, expiries and the stop of its engines (R104, R119, R400, R416, R432). -/
def promptPart (s : State) (p : Nat) : List Cand :=
  let q := s.part p
  dueStops s p ++
  (q.queues.map fun e => queueAging p e.1 s) ++
  (q.nests.map fun n => iterationAging p n.id s) ++
  (q.teams.flatMap fun t => [sliceExpiry p t.id s, pwaitExpiry p t.id s]) ++
  [sealTimerExpiry p s]

/-- The events that come as soon as they can. DESIGN CHOICE: log entry 2. -/
def promptEvents (s : State) : List Cand :=
  (s.cores.map fun e => traceFreeze e.1 s) ++
  (enabledParts s).flatMap (promptPart s) ++
  (List.range s.reqs.length).flatMap (fun k => [refusalRetry k s, endToEndRetry k s]) ++
  (List.range s.fabric.length).flatMap (fun k => [riserWaitExpiry k s, holdWaitExpiry k s]) ++
  (List.range (s.reqs.length + s.fabric.length + s.copies.length)).map (fun k => fabricTimeoutAny k s) ++
  (List.range 16).flatMap (fun b => [drainTimeout b s, keyLow b s, keyExhausted b s])

/-! ### Events of which one is picked -/

/-- The events of core `c` (R276, R307 to R310, R338, R412, R463). -/
def coreEvents (s : State) (c : Nat) : List Cand :=
  [mgoNestStart c s, kstepStart c s, kstepRetire c s,
   crossPerformed c s, quiesceReturn c s] ++
  (match s.ctx c with
   | some x => ((List.range x.streams.length).filter fun j => (x.stream j).isSome).flatMap fun j =>
       [portEntryArrival c j s, streamWritePerformed c j s,
        ringSlotCommit c j s, ringSlotFree c j s]
   | none => [])

/-- The events of packet `k` of the fabric. -/
def fabricEvents (s : State) (k : Nat) : List Cand :=
  [homeLineRead k s, homeLineWrite (.fabric k) s, holdBufferEntry k s,
   putPacketArrival k s, lsigArrival k s, putAck k s, atomicApply k s,
   atomicReply k s, operationPacket k s, achaseHop k s,
   crucibleAddStep k s, crucibleFinStep k s, jcbRaiseApply k s,
   jcbPostStep k s, nlaunchAppend k s, sourceRelease k s]

/-- The events of a copy, with its place in the list of copies (R323, R330, R364). DESIGN CHOICE: log entry 38. -/
def copyEvents (s : State) (k : Copy × Nat) : List Cand :=
  [copyBurstDone k.2 s, copyRtRetry k.2 s] ++
  k.1.bursts.flatMap fun b => b.gather.map fun g => gatherPacket k.2 g.1 s

/-- The events of queue `q` of partition `p` (R105, R106, R120, R329). -/
def queueEvents (s : State) (p q : Nat) : List Cand :=
  [nestRecordStart p q s, graphLaunch p q s, copyRecordStart p q s,
   queueFence p q s, levelSwitch p q s, sealRequestPacket p q s,
   retireLogWrite p q s]

/-- The events of a team (R117, R154, R271, R413, R414). -/
def teamEvents (s : State) (p : Nat) (t : Team) : List Cand :=
  [teamRetire p t.id s, preemptSave p t.id s, preemptSaveComplete p t.id s,
   preemptRestore p t.id s, sbalRun p t.id s, sbalComplete p t.id s] ++
  (List.range t.arrivals.length).map fun k => rendezvousArrival p t.id k s

/-- The answers of this module's members that a seal awaits: member 4096 + q is partition q. -/
def replyEvents (s : State) (p : Nat) (w : Seal) : List Cand :=
  (w.await.filter fun m => decide (4096 ≤ m)).map fun m =>
    let r : SealReply := match w.bad.find? fun b => b.1 == m with
      | some b => ⟨m, false, b.2⟩
      | none => ⟨m, true, 0⟩
    prepareReply p r s

/-- The events of the recovery engine for partition `p` (R434 to R442). -/
def sealEvents (s : State) (p : Nat) : List Cand :=
  [sealDrainComplete p s, prepare p s, commit p s, committed p s,
   free p s, rollbackComplete p s] ++
  (match (s.part p).sealing with
   | some w => replyEvents s p w
   | none => [])

/-- The events of partition `p`. -/
def partEvents (s : State) (p : Nat) : List Cand :=
  let q := s.part p
  (q.queues.flatMap fun e => queueEvents s p e.1) ++ [levelSwitchComplete p s] ++
  (q.nests.map fun n => teamLaunch p n.id s) ++ (q.teams.flatMap (teamEvents s p)) ++
  (q.graphs.flatMap fun g => g.running.map fun n => signalAccepted p g.id n s) ++
  (match q.halt with
   | some h => h.pending.map fun k => engineStop p k s
   | none => []) ++
  [haltComplete p s, haltDumpComplete p s] ++ sealEvents s p

/-- Every engine event that can come next. -/
def engineEvents (s : State) : List Cand :=
  (busyCores s).flatMap (coreEvents s) ++
  (s.cores.map fun e => traceDumpComplete e.1 s) ++
  (List.range s.fabric.length).flatMap (fabricEvents s) ++
  s.copies.zipIdx.flatMap (copyEvents s) ++
  (List.range s.walks.length).map (fun k => walkComplete k s) ++
  s.invals.zipIdx.flatMap (fun e =>
    vainvComplete e.2 s :: (e.1.todo.map fun d => dieInvalidate e.2 d s) ++ (e.1.waiting.map fun d => invalidateAck e.2 d s)) ++
  (enabledParts s).flatMap (partEvents s) ++
  (s.lmeta.map fun e => metaSweep e.1 s) ++
  (List.range 17).map (fun k => heldWritePerformed k s) ++
  (List.range 16).map (fun b => berthDrainComplete b s) ++
  (List.range 8).map (fun k => conversionComplete k s) ++
  [attest s, enterFullService s, writeRoute s, writeJoinKey s, bootPhaseComplete 0 s]

/-- What the next engine event makes of the machine, where one comes. -/
inductive Picked where
  /-- No event can come. -/
  | quiet
  /-- Events can come, and the cores go on first. -/
  | wait
  /-- An event comes, and leaves this state. -/
  | event (s : State)

/-- Picks among the events that can come; `Config.pick` may let the cores go on first. DESIGN CHOICE: log entry 2. DESIGN CHOICE: log entry 86. -/
def pickEvent (s : State) : Picked :=
  match (engineEvents { s with free := s.free + 1 }).filterMap id with
  | [] => .quiet
  | l => match l[Config.pick s.free % (l.length + 1)]? with
    | some t => .event t
    | none => .wait

/-! ### Cores and cycles -/

/-- Tasks run: bring-up has reached phase 3 or later, and service is reduced or full (R465). DESIGN CHOICE: log entry 5. -/
def running (s : State) : Bool := decide (3 ≤ s.mgmt.phase)

/-- Issue is withheld from a D0 or D1 partition in the cycles above its gate (R470). DEDUCED: log entry 74. -/
def gated (s : State) (p : Nat) : Bool :=
  let q := s.part p
  decide (q.level < 2 ∧ q.gate < s.cycle % 16)

/-- The cores from `from_` on that have a context, in order; the first of them has the next turn. DESIGN CHOICE: log entry 3. -/
def nextCore (s : State) (from_ : Nat) : Option Nat := (busyCores s).find? fun c => decide (from_ ≤ c)

/-- The engines of core `c` go on: the landing engine, and its streams in order. -/
def coreEngines (c : Nat) (s : State) : State := (List.range 8).foldl (streamTurn c) (landTurn s c)

/-- Core `c` may issue in this cycle; a bundle that waits does not issue once a halt has begun (R34, R400). DESIGN CHOICE: log entry 3. -/
def mayIssue (s : State) (c : Nat) : Bool :=
  match s.ctx c with
  | some x => s.works x.part (unitIssue c) && !gated s x.part && (x.state != .held || (s.part x.part).halt.isNone)
  | none => false

/-- The turn of core `c`: its engines go on, and it issues where it may. -/
def coreTurn (c : Nat) (s : State) : Out :=
  let s := coreEngines c { s with turn := c + 1 }
  if mayIssue s c then issue c s else .next s

/-- Module time after one more cycle, and the thirds of it that are left over: 2 ns in 3 cycles of full service, 4 ns in 3 of reduced (R457). DESIGN CHOICE: log entry 3. DESIGN CHOICE: log entry 86. DEDUCED: log entry 103. -/
def State.tick (s : State) : State :=
  let t := s.thirds + if s.fullClock then 2 else 4
  { s with cycle := s.cycle + 1, mtime := (s.mtime + t / 3) % 2 ^ 64, thirds := t % 3 }

/-- The host port sends pending MSI-X messages, those that are not masked: the host masks vectors where it will (R455). DESIGN CHOICE: log entry 111. -/
def sendMessages (s : State) : State :=
  if !s.hostUp || s.msix.isEmpty then s
  else { s with msix := s.msix.filter fun v => Config.race 513 s.free v, free := s.free + 1 }

/-- What the engines of the module do without an event of their own. DESIGN CHOICE: log entry 2. -/
def engineTurns (s : State) : State :=
  let s := (enabledParts s).foldl (fun s p => recoveryTurn (pilotTurn s p) p) s
  let s := (s.copies.map Copy.id).foldl copyTurn s
  extendCycle (sendMessages (noteHostWaits (noteWaits s)))

/-- The trace units move records to their buffers (R461). -/
def drainTraces (s : State) : State :=
  s.cores.foldl (fun s e => if e.2.trace.queue.isEmpty then s else s.onTrace e.1 Trace.drain) s

/-- The end of a cycle. -/
def endCycle (s : State) : State := { (wake (engineTurns (drainTraces s))).countInjected.tick with turn := 0 }

/-- What happens when no event comes: the turn of the next core, or the end of the cycle. -/
def idleStep (s : State) : Out :=
  match if running s then nextCore s s.turn else none with
  | some c => coreTurn c s
  | none => .next (endCycle s)

/-- The next step where no input from outside is due: an event that comes at once, else a picked one, else the cores. DESIGN CHOICE: log entry 3. DESIGN CHOICE: log entry 86. -/
def ownStep (s : State) : Out :=
  match (promptEvents s).filterMap id with
  | t :: _ => .next t
  | [] => match pickEvent s with
    | .event t => .next t
    | .wait => idleStep { s with free := s.free + 1 }
    | .quiet => idleStep s

end Sys2Proof.Machine
end

