-- ==== Sys2Proof/Machine/Loader.lean ====
section
/-!
DEFINITION. A program loaded from outside: the state in which one task is about to issue given words.
From reset the module first goes through bring-up, the host enables a partition and posts a nest record, and the team's launch loads the code (R465, R99, R105, R115); this stands for that load.
-/

namespace Sys2Proof.Machine

/-- The record of a nest of one task with no loops, at scratchpad address 0. -/
def loadedNest : ANest :=
  { id := 0
    recd := { m3 := false, zs := true, tw := 1, th := 1, nl := 0, order := [], dph0 := 0, code := 0, clen := 88, cdst := 0, entry := 0
              alen := 0, args := 0, ext := [], seed := 0, jcb := 0, status := 0, job := 0 }
    addr := 0, prio := 0, src := ⟨0, 0, none⟩, next := 0, logical := [], retired := 0, first := none, failed := none, refused := none, boost := 0 }

/-- Partition 0 over all cores at D0, enabled, in full service. DESIGN CHOICE: log entry 1. -/
def loadedPart (s : State) : State :=
  { s.onPart 0 fun q => { q with en := true, state := 1, level := 0, x0 := 0, y0 := 0, wm1 := 31, hm1 := 15, gate := 15, halt := none, halted := false } with
    agenda := [], turn := 0, mgmt := { s.mgmt with phase := 5, busy := false } }

/-- The task on core 0: the one that is there, set to issue, or a new one. DESIGN CHOICE: log entry 1. -/
def loadedTask (s : State) : State :=
  match s.ctx 0 with
  | some x => s.setCtx 0 { x with state := .run, translated := false, ctl := { x.ctl with nopr := 0 } }
  | none =>
    let t := newTeam s loadedNest 0 0
    ({ s with nextId := s.nextId + 1 }.setCtx 0 (startCtx s 0 loadedNest t.id 0 0)).onPart 0 fun q => { q with teams := q.teams ++ [t] }

/-- Puts bytes at the program counter of core 0. -/
def loadedBytes (s : State) (bs : List Byte) : State :=
  match s.ctx 0 with
  | some x => s.setCore 0 { s.core 0 with mem := SMap.write (s.core 0).mem x.pc bs }
  | none => s

/-- A task about to issue the bundle whose bytes are `bs`. DESIGN CHOICE: log entry 1. -/
def loadProgram (s : State) (bs : List Byte) : State := loadedBytes (loadedTask (loadedPart s)) bs

end Sys2Proof.Machine
end

