-- ==== Sys2Proof/Machine/Step.lean ====
section
/-!
DEFINITION. One step of the module, and how an instruction comes to stand where the next step fetches it.
-/

namespace Sys2Proof.Machine

/-- One step: between two cycles the next input from outside, else a step of the module's own. An input is a step that no slot syllable names; a syllable in the agenda is passed over, and so is what a failed boot shuts out (R465). DESIGN CHOICE: log entry 1. DESIGN CHOICE: log entry 4. DESIGN CHOICE: log entry 72. -/
def step (s : State) : Host.Outcome State Fault Refusal :=
  match s.agenda with
  | i :: l =>
    if s.turn = 0 then
      match i.parts with
      | some _ => .next { s with agenda := l }
      | none => if admitted s i then exec i { s with agenda := l } else .next { s with agenda := l }
    else ownStep s
  | [] => ownStep s

/-- `s` with a one-bundle program loaded from outside: full service, a task of partition 0 running alone on core 0, and the words of the bundle at its program counter (R115 gives the task's start state). DESIGN CHOICE: log entry 1. -/
def State.withFetchWord (s : State) (_nbits w : Nat) : State := loadProgram s (bytesOf w 88)

end Sys2Proof.Machine
end

