-- ==== Sys2Proof/Machine/Readback.lean ====
section
/-!
DEFINITION. What the host reads from a control register: the tables of the control blocks (3.3, 4.1, 14.1, 15.1, 16.1, 17.1, 18.2, 18.3, 19.3, 19.4, 20.1), and the black boxes (R464). A read changes nothing; reserved bits, write-only bits and unassigned offsets read 0.
-/

namespace Sys2Proof.Machine

/-- The dispatch-control block of partition `p` (Table 4.1). -/
def readDispatch (p o : Nat) (s : State) : Nat :=
  let q := s.part p
  match o with
  | 0x000 => b2n q.en * 2 ^ 63 + q.lj * 2 ^ 48 + q.hk * 2 ^ 40 + q.lane * 2 ^ 35 + q.level * 2 ^ 32 + q.hm1 * 2 ^ 24 + q.wm1 * 2 ^ 16 + q.y0 * 2 ^ 8 + q.x0
  | 0x008 => q.err * 2 ^ 8 + q.state
  | 0x010 => q.slice
  | 0x018 => q.qmin
  | 0x020 => q.ovr
  | 0x028 => q.jseq
  | _ =>
    if 0x040 ≤ o ∧ o < 0x070 then q.dlat.getD ((o - 0x040) / 8) 0
    else if o < 0x100 ∨ 0x300 ≤ o then 0
    else
      let u := q.queue ((o - 0x100) / 0x20)
      match o % 0x20 with
      | 0x00 => u.base
      | 0x08 => u.qerr * 2 ^ 24 + b2n u.tl * 2 ^ 17 + b2n u.en * 2 ^ 16 + u.prio * 2 ^ 8 + u.log2n
      | 0x10 => u.head
      | _ => u.tail

/-- The memory-control block (Table 3.3). -/
def readWindow (p o : Nat) (s : State) : Nat := if o < 0x200 then (SMap.get 0 (s.part p).rwin (o / 8)).toNat else 0

/-- The translation-control block (Table 15.1). -/
def readXlat (p o : Nat) (s : State) : Nat :=
  let q := s.part p
  if o < 0x800 then (SMap.get 0 q.xblk (o / 8)).toNat
  else if o = 0x800 then q.ptroot.toNat
  else if o = 0x810 then q.tinvDies * 2 ^ 8 + b2n q.tinvAbr * 2 + b2n q.tinvBusy
  else 0

/-- The stack control block (Table 14.1). -/
def readStack (k o : Nat) (s : State) : Nat :=
  let x := s.stack k
  match o with
  | 0x000 => x.cvaddr
  | 0x008 => x.cvcnt
  | 0x010 => bits x.cvctl 20 0
  | 0x018 => x.cvdone * 2 ^ 32 + x.cvflags * 2 ^ 16 + x.cvcause * 2 ^ 8 + x.cvstate
  | _ => if 0x100 ≤ o ∧ o < 0x180 then SMap.get 0 x.cralloc ((o - 0x100) / 8) else 0

/-- The save-control block (Table 16.1). -/
def readSave (p o : Nat) (s : State) : Nat :=
  let q := s.part p
  match o with
  | 0x000 => q.srbase
  | 0x008 => q.imgbase
  | 0x010 => q.stride * 2 ^ 32 + q.nslot
  | 0x020 => q.haltseq * 2 ^ 32 + q.hfirst * 2 ^ 16 + b2n q.dumping * 4 + b2n q.moving * 2 + b2n q.halted
  | 0x028 => q.pwait
  | 0x030 => q.pabort
  | 0x038 => q.freeSlots.length
  | _ => 0

/-- The recovery-control block (Table 17.1). -/
def readRecovery (o : Nat) (s : State) : Nat :=
  match o with
  | 0x000 => s.riser * 2 ^ 4
  | 0x008 => s.sealper
  | 0x010 => s.inj.toNat
  | _ =>
    if 0x020 ≤ o ∧ o < 0x070 then
      let h := (o - 0x020) / 8
      s.riserSize h / 2 ^ 20 * 2 ^ 32 + (s.riserUsed h + 2 ^ 20 - 1) / 2 ^ 20
    else if o < 0x100 ∨ 0x300 ≤ o then 0
    else
      let q := s.part ((o - 0x100) / 0x20)
      match o % 0x20 with
      | 0x00 => q.leader * 2 ^ 16 + q.gid
      | 0x08 => q.gmem
      | 0x10 => q.sealed * 2 ^ 32 + q.cur
      | _ => q.rollseq * 2 ^ 32 + q.gcause * 2 ^ 16 + q.gstate

/-- A berth's control block (Table 18.3). -/
def readBerth (b o : Nat) (s : State) : Nat :=
  let x := s.berth b
  match o with
  | 0x000 => x.pers
  | 0x008 => x.switches * 2 ^ 32 + x.err * 2 ^ 8 + x.state * 2 ^ 5 + x.lanes * 2 ^ 2 + x.cur
  | 0x010 => x.drainTo
  | 0x018 => (x.hold.map fun h => h.bytes.length).sum
  | 0x028 => b2n x.kexh * 2 + b2n x.klow
  | 0x030 => x.ktx
  | 0x038 => x.klimit
  | _ => 0

/-- The route and join block (Table 18.2). -/
def readRoute (o : Nat) (s : State) : Nat :=
  if o < 0x8000 then (SMap.get 0 s.mroute (o / 8)).toNat
  else if o < 0x8080 then (s.part ((o - 0x8000) / 8)).key
  else if o = 0x8080 then s.modid
  else 0

/-- A core's trace-control block (Table 19.3). -/
def readTrace (c o : Nat) (s : State) : Nat :=
  let t := (s.core c).trace
  match o with
  | 0x00 => t.ctl
  | 0x08 => t.pcm
  | 0x10 => t.lost * 2 ^ 32 + b2n t.dumping * 2 ^ 16 + b2n t.frozen * 2 ^ 15 + b2n t.fired * 2 ^ 14 + b2n t.armed * 2 ^ 13 + b2n t.wrapped * 2 ^ 12 + t.wr
  | 0x20 => t.tdst
  | _ => 0

/-- The time and black-box block (Table 19.4). -/
def readTime (o : Nat) (s : State) : Nat :=
  if o = 0 then s.mtime
  else if 0x100 ≤ o ∧ o < 0x180 then
    let b := (s.part ((o - 0x100) / 8)).box
    b.total * 2 ^ 32 + b2n b.wrap * 2 ^ 12 + b.next
  else 0

/-- A word of a partition's black box (R464). -/
def readBox (p o : Nat) (s : State) : Nat := (SMap.get 0 (s.part p).box.events (o / 16)).toNat / 2 ^ (64 * (o / 8 % 2)) % 2 ^ 64

/-- The management block (Table 20.1). -/
def readMgmt (o : Nat) (s : State) : Nat :=
  let m := s.mgmt
  match o with
  | 0x000 => m.svn * 2 ^ 48 + m.fusesvn * 2 ^ 32 + m.err * 2 ^ 16 + b2n m.capmiss * 2 ^ 10 + m.phase
  | 0x008 => m.pcap
  | 0x010 => (s.parts.zipIdx.map fun e => e.1.gate * 16 ^ e.2).sum
  | 0x018 => m.fto
  | 0x028 => m.cmd
  | 0x030 => m.akleft * 2 ^ 32 + m.result * 2 ^ 8 + b2n m.busy
  | 0x038 => m.mbaddr
  | 0x060 => fld m.arg0 11 0
  | 0x068 => m.arg1.toNat
  | _ =>
    if 0x100 ≤ o ∧ o < 0x300 then ofBytes (((bytesOf (m.meas.getD ((o - 0x100) / 32) 0) 32).reverse.drop ((o - 0x100) % 32 / 8 * 8)).take 8)
    else 0

/-- The value of the control register at MMIO address `a`, as the host reads it. After a failed boot only the management block is read (R465). DEDUCED: log entry 76. DEDUCED: log entry 77. -/
def registerRead (a : Nat) (s : State) : Word :=
  let o := a - mmioBase
  if a < mmioBase ∨ 0x1000000 ≤ o ∨ a % 8 ≠ 0 ∨ (s.mgmt.err ≠ 0 ∧ o / 0x100000 ≠ 0xB) then 0
  else
    let n := o / 0x1000 % 0x100
    let r := o % 0x1000
    BitVec.ofNat 64 (match o / 0x100000 with
      | 0x0 => if n < 16 then readDispatch n r s else 0
      | 0x1 => if n < 16 then readWindow n r s else 0
      | 0x2 => if n < 16 then readXlat n r s else 0
      | 0x3 => if n < 8 then readStack n r s else 0
      | 0x4 => if n < 16 then readSave n r s else 0
      | 0x5 => if n = 0 then readRecovery r s else 0
      | 0x6 => if n < 16 then readBerth n r s else 0
      | 0x7 => let t := o - 0x700000; if t < 0x10000 then readRoute t s else 0
      | 0x8 => let t := o - 0x800000; if t < 0x8000 then readTrace (t / 0x40) (t % 0x40) s else 0
      | 0x9 => let t := o - 0x900000; readBox (t / 0x10000) (t % 0x10000) s
      | 0xA => if n = 0 then readTime r s else 0
      | 0xB => if n = 0 then readMgmt r s else 0
      | _ => 0)

end Sys2Proof.Machine
end

