-- ==== Sys2Proof/Safety.lean ====
section
/-!
DEFINITION. The terms in which claims about the machine are stated: when a slot syllable acts, what a bundle's operands give, the machine's invariant, and when a step is a core's own.
-/

namespace Sys2Proof.Machine

/-- A slot syllable under header `h` acts on the context `x`, which is resident on the current core: its guard lets it (R19). -/
def Acts (s : State) (h : Hdr) (x : Ctx) : Prop := s.ctx s.cur = some x ∧ x.guard h = true

/-- The machine after the context of the current core has become `x`. -/
def State.put (s : State) (x : Ctx) : State := s.setCtx s.cur x

/-- The vector operands of a syllable are at hand: it reads the registers or ports `reads` and writes `writes` (R258, R259). `y` is the context with the reserved entries and the ports to be popped, and `ls` the places where its results land. -/
def Operands (x : Ctx) (reads writes : List (BitVec 7)) (t : Bool) (y : Ctx) (ls : List Loc) : Prop :=
  ∃ a b, x.readPorts reads = .ok a ∧ writePorts x t writes = .ok (b, ls) ∧ y = { b with pops := a.pops }

/-- A result of values and flags per element on the enabled lanes of an F3 syllable, put in flight: elements off the mask do not land, or land as zero under Z, and raise no flag (R186, R188). -/
def Ctx.lanes (y x : Ctx) (h : Hdr) (f : F3) (l : Nat) (ls : List Loc) (vs : List (Nat × Flags)) : Ctx :=
  let w := fmtWidth f.fmt.toNat
  let on := enabled (kmOf x f) w (4096 / w)
  y.send h l (ls.headD .p) (landMask w on (zOf f)) (.now (ofElems w (pickOn on (vs.map Prod.fst))) (flagsOn on (vs.map Prod.snd)))

/-- As `lanes`, of one rounding per element, which is made at the landing bundle (R61, R65), after `l` bundles, or `m3` under L3 (R40). -/
def Ctx.roundings (y x : Ctx) (h : Hdr) (f : F3) (l m3 : Nat) (ls : List Loc) (vs : List (Rounding × Flags)) : Ctx :=
  let w := fmtWidth f.fmt.toNat
  let on := enabled (kmOf x f) w (4096 / w)
  y.send h (if y.l3 then m3 else l) (ls.headD .p) (landMask w on (zOf f))
    (.rnd w (((on.zip vs).zipIdx.filter fun e => e.1.1).map fun e => (e.2, e.1.2.1)) (flagsOn on (vs.map Prod.snd)))

/-- Packet `k` of the fabric is `q`, at a home or target whose table has room and no entry for its source, and no request of its source is ahead of it (R376, R377). -/
def State.Arrives (s : State) (k : Nat) (q : Packet) (at_ : Nat) : Prop :=
  s.fabric[k]? = some q ∧ s.filter at_ q.src = none ∧ (s.filters.filter fun e => e.at_ == at_).length < filterMax at_ ∧ firstOfSource s k q = true

/-- The machine once packet `k` has been taken from the fabric. -/
def State.taken (s : State) (k : Nat) : State := { s with fabric := dropAt s.fabric k }

/-- The machine once the request `q` has been answered with `r`, which its home or target keeps against a copy of it (R376). -/
def State.answers (s : State) (at_ : Nat) (q : Packet) (r : Reply) : State := replyTo (s.record at_ q r) q r

/-- The head record of queue `q` of partition `p` is the next one that the dispatch engine starts: its type is `ty` and its bytes are `bs` (R103, R104). -/
def State.HeadStarts (s : State) (p q ty : Nat) (bs : List Byte) : Prop :=
  pickQueue s p = some q ∧ queueRec s ((s.part p).queue q) ((s.part p).queue q).head = some bs ∧ recordOk bs = true ∧ field bs 0 1 = ty

/-- Memory, the list of cores and every scratchpad are in their canonical form. -/
def State.Inv (s : State) : Prop := Memory.wf s.mem = true ∧ SMap.wf Core.reset s.cores = true ∧ ∀ c, Memory.wf (s.core c).mem = true

/-- What no syllable changes as it issues: memory, the homes' metadata, risers and crucibles, every scratchpad and accumulator store, and of every context the registers, the structure tables, the transposer buffers and the sticky flags. Results, cells and stores change them as they land (R28 to R31), and engines as they act. -/
def State.SameData (s t : State) : Prop :=
  t.mem = s.mem ∧ t.lmeta = s.lmeta ∧ t.risers = s.risers ∧ t.hbmStacks = s.hbmStacks ∧
  ∀ c, (t.core c).mem = (s.core c).mem ∧ (t.core c).cells = (s.core c).cells ∧ (s.ctx c = none → t.ctx c = none) ∧
    ∀ x, s.ctx c = some x → ∃ y, t.ctx c = some y ∧ y.s = x.s ∧ y.v = x.v ∧ y.p = x.p ∧ y.k = x.k ∧ y.tables = x.tables ∧ y.tbuf = x.tbuf ∧
      y.ctl.fstat = x.ctl.fstat ∧ y.ctl.qstat = x.ctl.qstat

/-- The next step is the turn of core `c`: no input is due, no engine event can come, and `c` is the next core with a context. -/
def State.TurnOf (s : State) (c : Nat) : Prop :=
  s.agenda = [] ∧ (promptEvents s).filterMap id = [] ∧ pickEvent s = .quiet ∧ running s = true ∧ nextCore s s.turn = some c

end Sys2Proof.Machine
end

