-- ==== Sys2Proof/Certificates/Slice0/Obligations.lean ====
section
/-!
DEFINITION. The statements about the machine, for the provers.
-/

open Sys2Proof Sys2Proof.Machine

/-! ### Encoding and decoding -/

/-- R15 to R23, Tables 1.3 to 1.6: for every well-formed instruction that a bundle can hold, decoding its words gives it back with every operand. Where the rules leave a point open this follows the model's choice, log entry 84. -/
def Obligations.DecodeOfEncode : Prop :=
  ∀ i : Instr, i.wf = true → encode i ≠ [] → decodeWords (encode i) = some i

/-- Tables 1.3 to 1.6: a syllable word that a slot accepts is the encoding of the instruction it decodes to, so decoding drops no bit of it. -/
def Obligations.EncodeOfDecode : Prop :=
  ∀ (slot : Slot) (w : Nat) (i : Instr), w < 2 ^ 64 → decodeSyllable slot w = .ok i → i.wf = true ∧ encodeSyllable i = some (slot, w)

/-- Worked encodings of the chapters: each of these words of the specification decodes to the instruction it stands for. -/
def Obligations.WordsOfTheSpec : Prop :=
  decodeSyllable .s0 0x0200060410000000 = .ok (.add ⟨.s0, 0, false, false⟩ ⟨3, 1, 2, 0, 0, 0, false, false, false, false, 0, 0⟩) ∧
  decodeSyllable .b 0x0C000003FFFFFFFE = .ok (.loopb ⟨.b, 0, false, false⟩ ⟨0, 0x3FFFFFFFE⟩) ∧
  decodeSyllable .b 0x16A0428918000001 = .ok (.pand ⟨.b, 40, false, false⟩ ⟨33, 34, 35, 0, 0, 0, false, false, false, false, 0, 1⟩) ∧
  decodeSyllable .v1 0x22868D1E40001000 = .ok (.vfadd ⟨.v1, 33, true, false⟩ ⟨70, 71, 72, 0, 0, 1, false, false, false, false, 0, 0⟩) ∧
  decodeSyllable .q 0x04000020480B0000 = .ok (.qmac ⟨.q, 0, false, false⟩ ⟨0, 8, 9, 0, 22, 0, false, false, false, false, 0, 0⟩) ∧
  decodeSyllable .x 0x0400282001500001 = .ok (.xpack ⟨.x, 0, false, false⟩ ⟨20, 8, 0, 21, 0, 0, false, false, false, false, 0, 1⟩) ∧
  decodeSyllable .t 0x0400002000400000 = .ok (.trw ⟨.t, 0, false, false⟩ ⟨0, 8, 0, 4, 0, 0, false, false, false, false, 0, 0⟩) ∧
  decodeSyllable .m 0x0200020000000134 = .ok (.mgo ⟨.m, 0, false, false⟩ ⟨1, 0, 0, 0, 0, 0, false, false, false, true, 0, 0x34⟩) ∧
  decodeSyllable .d 0x20000A78FC601080 = .ok (.lput ⟨.d, 0, false, false⟩ ⟨5, 30, 31, 70, 0, 1, false, false, false, false, 2, 0⟩)

/-- R24: every syllable that is accepted breaks no field rule, and one that breaks some is refused with the lowest of their causes. Where the rules leave a point open this follows the model's choices, log entries 33, 34. -/
def Obligations.LowestCause : Prop :=
  ∀ (slot : Slot) (w c : Nat) (k : Legal.Kind), w >>> 57 % 128 ≠ 0 → Legal.kindOf (Legal.clsOf slot) (w >>> 57 % 128) = some k →
    c ∈ Legal.syllable (Legal.clsOf slot) (w >>> 57 % 128) (unpackHdr slot w) (unpack k w) →
    ∃ d, decodeSyllable slot w = .refused d ∧ d ≤ c ∧
      d ∈ Legal.syllable (Legal.clsOf slot) (w >>> 57 % 128) (unpackHdr slot w) (unpack k w)

/-- R15, R16, Table 1.1: a header's causes, and the length of its bundle, 8 bytes and 8 more for each slot present. R23, R24, Table 1.7: an opcode that a slot does not have is refused with cause 4, and a NOP word with another bit set with cause 11. R22: a present NOP does nothing. Where the rules leave a point open this follows the model's choice, log entry 88. -/
def Obligations.HeadersAndNop : Prop :=
  ((∀ hdr t, hdr >>> 50 % 16 ≠ 4 → headerCause hdr t = some 1) ∧
    (∀ hdr t, hdr >>> 50 % 16 = 4 → hdr % 2 ^ 49 ≠ 0 → headerCause hdr t = some 2) ∧
    (∀ hdr, hdr >>> 50 % 16 = 4 → hdr % 2 ^ 49 = 0 → hdr.testBit 49 = true → headerCause hdr false = some 3 ∧ headerCause hdr true = none) ∧
    (∀ hdr t, hdr >>> 50 % 16 = 4 → hdr % 2 ^ 50 = 0 → headerCause hdr t = none) ∧
    (∀ hdr, bundleLength hdr = 8 + 8 * ((List.range 10).filter fun i => hdr.testBit (63 - i)).length)) ∧
  ((∀ (slot : Slot) (w : Nat), w >>> 57 % 128 ≠ 0 → Legal.kindOf (Legal.clsOf slot) (w >>> 57 % 128) = none → decodeSyllable slot w = .refused 4) ∧
    (∀ (slot : Slot) (w : Nat), w >>> 57 % 128 = 0 → w % 2 ^ 57 ≠ 0 → decodeSyllable slot w = .refused 11)) ∧
  (∀ (s : State) (h : Hdr), exec (.nop h) s = .next s)

/-! ### Steps -/

/-- R14, R16, R19, R27: at the turn of a core whose bundle holds one syllable that decodes to `i`, the step is `i`'s meaning on the machine as it stands after the landings due, followed by the boundary after the bundle. Where the rules leave a point open this follows the model's choices, log entries 3, 19, 20. -/
def Obligations.StepRunsDecoded : Prop :=
  ∀ (s t : State) (c : Nat) (x y : Ctx) (slot : Slot) (i : Instr), s.TurnOf c →
    mayIssue (coreEngines c { s with turn := c + 1 }) c = true → (coreEngines c { s with turn := c + 1 }).ctx c = some x →
    x.state = .run → x.ctl.nopr = 0 →
    headerCause (fetchWord (landDue (coreEngines c { s with turn := c + 1 }) c).1 c x.pc) x.translated = none →
    presentSlots (fetchWord (landDue (coreEngines c { s with turn := c + 1 }) c).1 c x.pc) = [slot] → x.pc + 16 ≤ 0x800000 →
    decodeAt (some (x.pc, 16)) slot (fetchWord (landDue (coreEngines c { s with turn := c + 1 }) c).1 c (x.pc + 8)) = .ok i →
    exec i (readied (landDue (coreEngines c { s with turn := c + 1 }) c).1 c
      (fetchWord (landDue (coreEngines c { s with turn := c + 1 }) c).1 c x.pc) 16 x
      [(slot, fetchWord (landDue (coreEngines c { s with turn := c + 1 }) c).1 c (x.pc + 8), i)]) = .next t →
    t.ctx c = some y → y.state ≠ .stopped → y.state ≠ .held →
    ∃ cmd, step s = .next (endBundle (noteIssue t c x cmd (landDue (coreEngines c { s with turn := c + 1 }) c).2) c (x.pc + 16))

/-- R24, R25: at the turn of a core whose bundle is refused by its encoding, the bundle does not issue: the core stops before it, and the partition's halt line is raised with cause 1 and the code of Table 1.7. Where the rules leave a point open this follows the model's choices, log entries 3, 20. -/
def Obligations.StepIllegal : Prop :=
  ∀ (s : State) (c cause code word slot : Nat) (x : Ctx), s.TurnOf c →
    mayIssue (coreEngines c { s with turn := c + 1 }) c = true → (coreEngines c { s with turn := c + 1 }).ctx c = some x →
    x.state = .run → x.ctl.nopr = 0 →
    fetch (landDue (coreEngines c { s with turn := c + 1 }) c).1 c x = .fault cause code word slot →
    step s = .next (((coreEngines c { s with turn := c + 1 }).setCtx c { x with state := .stopped }).raise x.part
      { unit := 4 * c, kind := 0, cause, tag := 0, pc := x.pc, va := 0, count := 0, detail := code, job := x.job, syl := word, slot
        cycle := (coreEngines c { s with turn := c + 1 }).cycle })

/-- The model's own promise: whatever state the module is in, the next step has a next state. No step ends in a fault or a refusal. R96, R129, R357, R358, R392, R459, R460: JPOST, ALIASF, FENCE, VAINV, VAINVALL, TSR and TRIG complete: each answers the next state of its own effect, under conditions on the state and its operands alone. Where the rules leave a point open this follows the model's choices, log entries 2, 4, 42, 82. -/
def Obligations.EveryStepGoesOn : Prop :=
  (∀ s : State, ∃ t, step s = .next t) ∧
  (∀ (s : State) (h : Hdr) (f : F3) (x : Ctx), Acts s h x →
      exec (.tsr h f) s = .next (s.put (x.putS h 2 f.a (BitVec.ofNat 64 (max s.mtime x.ctl.floorNow)))) ∧
      (f.sub.getLsbD 0 = false → exec (.trig h f) s = .next (s.onTrace s.cur fun t => t.note 6 (s.mtime % 2 ^ 48) 7 f.d.toNat x.pc ((x.rs f.b).toNat % 2 ^ 32))) ∧
      exec (.aliasf h f) s = .next (s.put { x with lq := x.lq ++ [⟨0, x.bn, 0, false, .alias_ (if f.sub.getLsbD 4 then none else some (f.sub.toNat % 16)), none, false, false⟩] }) ∧
      (x.lq = [] → f.sub.getLsbD 0 = false → exec (.fence h f) s = .next (s.put { x with lost := if f.rnd = 4 then [] else x.lost })) ∧
      (x.lq = [] → (x.rs f.b).toNat % 64 = 0 → exec (.jpost h f) s = .next (s.put { x with
        ltag := (x.ltag + 1) % 2 ^ 16, ctl := if x.ctl.jpa = 0 then { x.ctl with jpa := (x.rs f.b).toNat } else x.ctl
        lq := [⟨x.ltag, x.bn, f.rnd.toNat, f.ord.getLsbD 1, .jpost f.a.toNat (x.rs f.b).toNat (x.rs f.c) (x.ctl.jpa != 0 && (x.rs f.b).toNat != x.ctl.jpa), none, false, false⟩] })) ∧
      (x.vainv < 4 → f.sub.getLsbD 1 = false → (x.rs f.b).toNat < 2 ^ 56 → (x.rs f.b).toNat + (x.rs f.c).toNat ≤ 2 ^ 56 →
        exec (.vainv h f) s = .next { s.put { x with vainv := x.vainv + 1 } with invals := s.invals ++ [{
          part := x.part, by_ := some (s.cur, x.team, f.a.toNat, none), all := false, lo := (x.rs f.b).toNat / 4096
          hi := ((x.rs f.b).toNat + (x.rs f.c).toNat - 1) / 4096, empty := (x.rs f.c).toNat == 0
          released := false, issued := x.bn, todo := (s.part x.part).dies, waiting := [], resets := [] }] }) ∧
      (x.vainv < 4 → f.sub.getLsbD 1 = false → ∃ v, exec (.vainvAll h f) s = .next { s.put { x with vainv := x.vainv + 1 } with invals := s.invals ++ [v] } ∧
        v.part = x.part ∧ v.all = true ∧ v.empty = false ∧ v.todo = (s.part x.part).dies))

/-- R27, R334, R457: when no core has a turn left, the cycle ends: the engines go on, the contexts begin their next cycle with the landing counts as they now stand, the cycle is counted, and the cores begin again. R457: module time advances by 2 ns in 3 cycles of the full clock, which the model has from phase 4 on (log entry 103), and by 4 ns in 3 cycles of the reduced one, and a write of MTSET only raises it. Where the rules leave a point open this follows the model's choices, log entries 2, 3, 86, 103, 111. -/
def Obligations.CyclesAndModuleTime : Prop :=
  (∀ s : State, s.agenda = [] → (promptEvents s).filterMap id = [] → pickEvent s = .quiet → nextCore s s.turn = none →
      step s = .next { (wake (engineTurns (drainTraces s))).countInjected.tick with turn := 0 }) ∧
  ((∀ s : State, s.tick.cycle = s.cycle + 1 ∧ s.tick.mtime < 2 ^ 64 ∧ (s.mtime + (s.thirds + 4) / 3 < 2 ^ 64 → s.mtime ≤ s.tick.mtime)) ∧
    (∀ s : State, 4 ≤ s.mgmt.phase → s.tick.tick.tick.mtime = (s.mtime + 2 + s.thirds / 3) % 2 ^ 64 ∧ s.tick.tick.tick.thirds = s.thirds % 3) ∧
    (∀ s : State, s.mgmt.phase < 4 → s.tick.tick.tick.mtime = (s.mtime + 4 + s.thirds / 3) % 2 ^ 64 ∧ s.tick.tick.tick.thirds = s.thirds % 3) ∧
    (∀ (s : State) (v : Word), exec (.mtset v) s = .next { s with mtime := max s.mtime v.toNat }))

/-! ### The sequencer -/

/-- R19: a slot syllable whose guard is false does nothing: no effect, no fault, no stall. Stated for one instruction of every slot's frames. -/
def Obligations.GuardedOff : Prop :=
  ∀ (i : Instr) (s : State) (k : Cls) (o : Nat) (h : Hdr) (f : Legal.Form) (x : Ctx), i.parts = some (k, o, h, f) → s.ctx s.cur = some x →
    x.guard h = false → exec i s = .next s

/-- R139 to R141, R146: BR, BRI, CALL, RET and LOOPX. A transfer makes the target the next bundle; CALL pushes the address of the next bundle and RET pops; a full or empty return stack and a target that is no scratchpad word fault. R144, R145: LOOPI sets the counts for `n` trips of EM1 + 1 stages and starts the stage predicates; LOOPB rotates, feeds p32 of the new base, and branches while an iteration enters or a drain pass is left. R147, R149: REP sets the passes and the body, branches past it for a count of 0, and faults while another repeat runs; NOPN leaves `n − 1` empty bundles to come. R148: the end of a bundle under a repeat. A transfer ends the repeat; a next bundle at or past the body's end begins the next pass, or after the last pass the code after the body. Where the rules leave a point open this follows the model's choices, log entries 24, 33. -/
def Obligations.ControlTransfers : Prop :=
  (∀ (s : State) (h : Hdr) (f : FB) (x : Ctx), Acts s h x →
      exec (.br h f) s = .next (s.put { x with jump := some (target x.pc f.off) }) ∧
      (exec (.bri h f) s =
        if (x.rs (s13Of f)).toNat % 8 ≠ 0 then .next (s.issueFault (slotNo h.slot) 2 0)
        else if 2 ^ 23 ≤ (x.rs (s13Of f)).toNat then .next (s.issueFault (slotNo h.slot) 3 0)
        else .next (s.put { x with jump := some (x.rs (s13Of f)).toNat })) ∧
      (exec (.call h f) s =
        if 16 ≤ x.ctl.rsp then .next (s.issueFault (slotNo h.slot) 6 0)
        else .next (s.put { x with jump := some (target x.pc f.off), ctl := { x.ctl with
          rsp := x.ctl.rsp + 1, retstk := SMap.put 0 x.ctl.retstk x.ctl.rsp ((x.pc + s.blen) % 2 ^ 23) } })) ∧
      (exec (.ret h f) s =
        if x.ctl.rsp = 0 then .next (s.issueFault (slotNo h.slot) 7 0)
        else .next (s.put { x with jump := some (SMap.get 0 x.ctl.retstk (x.ctl.rsp - 1)), ctl := { x.ctl with rsp := x.ctl.rsp - 1 } })) ∧
      (exec (.loopx h f) s =
        .next (s.put (if x.ctl.lc = 0 then x else { x with jump := some (target x.pc f.off), ctl := { x.ctl with lc := x.ctl.lc - 1 } })))) ∧
  ((∀ (s : State) (h : Hdr) (f : FB) (x : Ctx), Acts s h x → (x.rs (s12Of f)).toNat = 0 →
      exec (.loopi h f) s = .next (s.put ({ x with ctl := { x.ctl with rrb := 0, lc := 0, ec := 0 } }.send h 1 .p (2 ^ 96 - 2 ^ 32) (.now 0 0)))) ∧
    (∀ (s : State) (h : Hdr) (f : FB) (x : Ctx), Acts s h x → 0 < (x.rs (s12Of f)).toNat →
      exec (.loopi h f) s = .next (s.put ({ x with ctl := { x.ctl with rrb := 0, lc := (x.rs (s12Of f)).toNat - 1, ec := f.ctl.toNat % 64 } }.send h 1 .p
        (2 ^ 96 - 2 ^ 32) (.now (2 ^ 32) 0)))) ∧
    (∀ (s : State) (h : Hdr) (f : FB) (x : Ctx), Acts s h x → f.off.toNat = 0 →
      exec (.loopiImm h f) s = .next (s.put ({ x with ctl := { x.ctl with rrb := 0, lc := 0, ec := 0 } }.send h 1 .p (2 ^ 96 - 2 ^ 32) (.now 0 0)))) ∧
    (∀ (s : State) (h : Hdr) (f : FB) (x : Ctx), Acts s h x → 0 < f.off.toNat →
      exec (.loopiImm h f) s = .next (s.put ({ x with ctl := { x.ctl with rrb := 0, lc := f.off.toNat - 1, ec := f.ctl.toNat % 64 } }.send h 1 .p
        (2 ^ 96 - 2 ^ 32) (.now (2 ^ 32) 0)))) ∧
    (∀ (s : State) (h : Hdr) (f : FB) (x : Ctx), Acts s h x → 0 < x.ctl.lc →
      exec (.loopb h f) s = .next (s.put { { x with ctl := { x.ctl with rrb := (x.ctl.rrb + 191) % 192, lc := x.ctl.lc - 1 } }.putP h 1 32 true with
        jump := some (target x.pc f.off) })) ∧
    (∀ (s : State) (h : Hdr) (f : FB) (x : Ctx), Acts s h x → x.ctl.lc = 0 → 0 < x.ctl.ec →
      exec (.loopb h f) s = .next (s.put { { x with ctl := { x.ctl with rrb := (x.ctl.rrb + 191) % 192, ec := x.ctl.ec - 1 } }.putP h 1 32 false with
        jump := some (target x.pc f.off) })) ∧
    (∀ (s : State) (h : Hdr) (f : FB) (x : Ctx), Acts s h x → x.ctl.lc = 0 → x.ctl.ec = 0 →
      exec (.loopb h f) s = .next (s.put ({ x with ctl := { x.ctl with rrb := (x.ctl.rrb + 191) % 192 } }.putP h 1 32 false)))) ∧
  ((∀ (s : State) (h : Hdr) (f : FB) (x : Ctx), Acts s h x → x.ctl.repc ≠ 0 →
      exec (.rep h f) s = .next (s.issueFault (slotNo h.slot) 8 0) ∧ exec (.repImm h f) s = .next (s.issueFault (slotNo h.slot) 8 0)) ∧
    (∀ (s : State) (h : Hdr) (f : FB) (x : Ctx) (e : Nat), Acts s h x → x.ctl.repc = 0 → (x.pc : Int) + 8 * f.off.toInt = e →
      exec (.rep h f) s = .next (s.put { x with
        ctl := { x.ctl with repc := (x.rs (s12Of f)).toNat, repStart := x.pc + s.blen, repEnd := e }
        jump := if (x.rs (s12Of f)).toNat = 0 then some e else x.jump }) ∧
      exec (.repImm h f) s = .next (s.put { x with
        ctl := { x.ctl with repc := f.ctl.toNat % 2 ^ 13, repStart := x.pc + s.blen, repEnd := e }
        jump := if f.ctl.toNat % 2 ^ 13 = 0 then some e else x.jump })) ∧
    (∀ (s : State) (h : Hdr) (f : FB) (x : Ctx), Acts s h x →
      exec (.nopn h f) s = .next (s.put { x with ctl := { x.ctl with nopr := f.off.toNat - 1 } }))) ∧
  (∀ (x : Ctx) (next : Nat), next < 2 ^ 23 → x.pops = [] → x.ctl.nopr = 0 →
      (∀ a, x.jump = some a → (x.endBundle next).pc = a % 2 ^ 23 ∧ (x.endBundle next).ctl.repc = 0) ∧
      (x.jump = none → 1 < x.ctl.repc → x.ctl.repEnd ≤ next →
        (x.endBundle next).pc = x.ctl.repStart % 2 ^ 23 ∧ (x.endBundle next).ctl.repc = x.ctl.repc - 1) ∧
      (x.jump = none → x.ctl.repc ≤ 1 → x.ctl.repEnd ≤ next → (x.endBundle next).pc = next ∧ (x.endBundle next).ctl.repc = 0) ∧
      (x.jump = none → next < x.ctl.repEnd → (x.endBundle next).pc = next ∧ (x.endBundle next).ctl.repc = x.ctl.repc) ∧
      (x.endBundle next).bn = x.bn + 1 ∧ (x.endBundle next).jump = none)

/-- R150: the predicate syllables, with the negations of SUB; NOP and a bundle of a header alone. -/
def Obligations.Predicates : Prop :=
  (∀ (s : State) (h : Hdr) (f : F3) (x : Ctx), Acts s h x →
    exec (.pset h f) s = .next (s.put (x.putP h 1 f.a (f.sub.getLsbD 0))) ∧
    exec (.pand h f) s = .next (s.put (x.putP h 1 f.a ((x.rp f.b ^^ f.sub.getLsbD 0) && (x.rp f.c ^^ f.sub.getLsbD 1)))) ∧
    exec (.por h f) s = .next (s.put (x.putP h 1 f.a ((x.rp f.b ^^ f.sub.getLsbD 0) || (x.rp f.c ^^ f.sub.getLsbD 1)))) ∧
    exec (.pxor h f) s = .next (s.put (x.putP h 1 f.a ((x.rp f.b ^^ f.sub.getLsbD 0) ^^ (x.rp f.c ^^ f.sub.getLsbD 1)))) ∧
    (f.sub = 0 → exec (.pnot h f) s = .next (s.put (x.putP h 1 f.a (!x.rp f.b))) ∧ exec (.pmov h f) s = .next (s.put (x.putP h 1 f.a (x.rp f.b))))) ∧
  (∀ (s : State) (h : Hdr), exec (.nop h) s = .next s) ∧
  (∀ (s : State) (x : Ctx), s.ctx s.cur = some x →
    exec .emptyBundle s = .next (endBundle (noteIssue (landDue s s.cur).1 s.cur x none (landDue s s.cur).2) s.cur (x.pc + 8)))

/-- R154, R155: the rendezvous instructions. RVI sets the count expected, at once or for the next generation; RVA sends an arrival of the current generation; RVW and RVAW end their wait when that generation has completed, with an acquire. R154, R155: an arrival of a running team's task is counted at its point once every earlier command of the task has been performed, and carries the time of its release; the one that the point expected last completes the generation: its held value and pending falls take effect, and OUT falls for every task of the team whose arrival stands in that generation, and for no other. R156: a task that executes TEND or TFAIL leaves every point. Where its arrival stands, the point's pending falls rise by 1; elsewhere its count expected and a held value fall by 1, and where the arrivals counted are then all that it expects, the generation completes and the tasks that wait in it are let go. Where the rules leave a point open this follows the model's choice, log entry 48. -/
def Obligations.Rendezvous : Prop :=
  (∀ (s : State) (h : Hdr) (f : FB) (x : Ctx) (m : Team), Acts s h x → x.part < s.parts.length → s.team x.part x.team = some m →
      rvPointOf f < m.points.length →
      (((x.rs (s8Of f)).toNat = 0 ∨ x.size < (x.rs (s8Of f)).toNat) → exec (.rvi h f) s = .next (s.issueFault (slotNo h.slot) 9 0)) ∧
      (0 < (x.rs (s8Of f)).toNat → (x.rs (s8Of f)).toNat ≤ x.size → ∃ t, exec (.rvi h f) s = .next t ∧
        t.team x.part x.team = some (m.onPoint (rvPointOf f) fun q => if q.arr = 0 then { q with exp := (x.rs (s8Of f)).toNat }
          else { q with held := some (x.rs (s8Of f)).toNat })) ∧
      ((x.rvTask (rvPointOf f)).out = true → exec (.rva h f) s = .next (s.issueFault (slotNo h.slot) 10 0)) ∧
      ((x.rvTask (rvPointOf f)).out = false → ∃ t, exec (.rva h f) s = .next t ∧
        t.ctx s.cur = some (x.setRv (rvPointOf f) ⟨true, (m.point (rvPointOf f)).gen, false⟩) ∧
        t.team x.part x.team = some { m with arrivals := m.arrivals ++ [⟨rvPointOf f, s.cur, x.bn⟩] }) ∧
      ((x.rvTask (rvPointOf f)).out = true → exec (.rvw h f) s = .next s.hold) ∧
      ((x.rvTask (rvPointOf f)).out = false → ∃ t, exec (.rvw h f) s = .next t ∧ (t.core s.cur).window = [] ∧
        t.ctx s.cur = some ((x.note (m.point (rvPointOf f)).time fun sc => sc != 0).raiseFloor 1) ∧
        (m.point (rvPointOf f)).time ≤ ((x.note (m.point (rvPointOf f)).time fun sc => sc != 0).raiseFloor 1).ctl.tfloor) ∧
      ((x.rvTask (rvPointOf f)).mark = false → (x.rvTask (rvPointOf f)).out = false → ∃ t, exec (.rvaw h f) s = .next t ∧
        t.ctx s.cur = some { x.setRv (rvPointOf f) ⟨true, (m.point (rvPointOf f)).gen, true⟩ with state := .held } ∧
        t.team x.part x.team = some { m with arrivals := m.arrivals ++ [⟨rvPointOf f, s.cur, x.bn⟩] }) ∧
      ((x.rvTask (rvPointOf f)).mark = false → (x.rvTask (rvPointOf f)).out = true → exec (.rvaw h f) s = .next (s.issueFault 9 10 0)) ∧
      ((x.rvTask (rvPointOf f)).mark = true → (x.rvTask (rvPointOf f)).out = true → exec (.rvaw h f) s = .next s.hold) ∧
      (∀ ag, x.rvTask (rvPointOf f) = ⟨false, ag, true⟩ → ∃ t, exec (.rvaw h f) s = .next t ∧ (t.core s.cur).window = [] ∧
        t.ctx s.cur = some (((x.setRv (rvPointOf f) ⟨false, ag, false⟩).note (m.point (rvPointOf f)).time fun sc => sc != 0).raiseFloor 1))) ∧
  (∀ (s : State) (p i k : Nat) (m : Team) (a : Arrival) (x : Ctx), p < s.parts.length → s.team p i = some m → m.arrivals[k]? = some a →
      a.point < m.points.length → m.phase = .running → s.ctx a.core = some x → x.team = i → x.drained s a.issued = true → ∃ t n, exec (.rendezvousArrival p i k) s = .next t ∧ t.team p i = some n ∧ n.arrivals = dropAt m.arrivals k ∧
        (∀ j, j ≠ a.point → n.point j = m.point j) ∧
        ((m.point a.point).arr + 1 ≠ (m.point a.point).exp → n.point a.point = { m.point a.point with
          arr := (m.point a.point).arr + 1, time := max (m.point a.point).time s.mtime }) ∧
        ((m.point a.point).arr + 1 = (m.point a.point).exp → n.point a.point =
          ⟨(m.point a.point).held.getD (m.point a.point).exp - (m.point a.point).fall, 0, ((m.point a.point).gen + 1) % 2 ^ 32, none, 0,
           max (m.point a.point).time s.mtime⟩) ∧
        ∀ c y j, s.ctx c = some y → SMap.wf ⟨false, 0, false⟩ y.rv = true → ∃ z, t.ctx c = some z ∧
          z.rvTask j = if (m.point a.point).arr + 1 = (m.point a.point).exp ∧ c ∈ m.cores ∧ y.team = i ∧ j = a.point ∧ (y.rvTask j).out = true ∧
              (y.rvTask j).ag = (m.point a.point).gen then { y.rvTask j with out := false } else y.rvTask j) ∧
  (∀ (s : State) (h : Hdr) (f : FB) (x : Ctx) (m : Team) (j : Nat) (q : Point) (o : Host.Outcome State Fault Refusal), Acts s h x → x.part < s.parts.length →
      s.team x.part x.team = some m → m.points.length = 24 → j < 24 → q = m.point j → (o = exec (.tend h f) s ∨ o = exec (.tfail h f) s) →
      ∃ t n, o = .next t ∧ t.team x.part x.team = some n ∧
        n.point j = (if (x.rvTask j).out = true then { q with fall := q.fall + 1 }
          else if q.arr ≠ 0 ∧ q.arr = q.exp - 1 then ⟨(q.held.map (· - 1)).getD (q.exp - 1) - q.fall, 0, (q.gen + 1) % 2 ^ 32, none, 0, q.time⟩
          else { q with exp := q.exp - 1, held := q.held.map (· - 1) }) ∧
        (q.arr ≠ 0 → q.arr = q.exp - 1 → (x.rvTask j).out = false → ∀ c y, c ∈ m.cores → c ≠ s.cur → s.ctx c = some y → y.team = x.team →
          SMap.wf ⟨false, 0, false⟩ y.rv = true → (y.rvTask j).out = true → (y.rvTask j).ag = q.gen → ∃ z, t.ctx c = some z ∧ (z.rvTask j).out = false))

/-- R157, R158, R161: PHINT is a no-op where no request stands, and stops at its point where every condition of R158 holds; TRAP lets its bundle issue and faults at the boundary; TEND and TFAIL end the task, and TFAIL fails its nest. Where the rules leave a point open this follows the model's choices, log entries 21, 23, 61, 99. -/
def Obligations.HintsAndEnds : Prop :=
  ∀ (s : State) (h : Hdr) (f : FB) (x : Ctx) (m : Team), Acts s h x → x.part < s.parts.length → s.team x.part x.team = some m →
    (((x.pc : Int) + 8 * f.off.toInt) % 64 ≠ 0 → exec (.phint h f) s = .next (s.issueFault (slotNo h.slot) 2 0)) ∧
    (∀ a : Nat, (x.pc : Int) + 8 * f.off.toInt = a → a % 64 = 0 → 0x800000 < a + 64 → exec (.phint h f) s = .next (s.issueFault (slotNo h.slot) 3 0)) ∧
    (∀ a : Nat, (x.pc : Int) + 8 * f.off.toInt = a → a % 64 = 0 → a + 64 ≤ 0x800000 → (m.request = false ∨ s.blen ≠ 16 ∨ s.cycle - m.start < (s.part x.part).qmin ∨ x.settled = false) →
      exec (.phint h f) s = .next s) ∧
    (∀ a : Nat, (x.pc : Int) + 8 * f.off.toInt = a → a % 64 = 0 → a + 64 ≤ 0x800000 → m.request = true → s.blen = 16 → (s.part x.part).qmin ≤ s.cycle - m.start →
      x.settled = true → quiet s s.cur x (liveBytes (s.core s.cur) { x with live := a }) = true →
      liveOk (liveBytes (s.core s.cur) { x with live := a }) = true → (liveRanges (s.core s.cur) { x with live := a } (a + 64) 8).isSome = true →
      ∃ t, exec (.phint h f) s = .next t ∧ t.ctx s.cur = some { x with live := a, state := .hinted } ∧
        t.team x.part x.team = some { m with stopped := some (m.stopped.getD s.cycle) }) ∧
    (exec (.trap h f) s = .next (s.put { x with pend := some (0x20, f.off.toNat % 2 ^ 16, 0) })) ∧
    (∃ t y, exec (.tend h f) s = .next t ∧ t.ctx s.cur = some y ∧ y.state = .ended ∧ y.tfail = none ∧ y.results = x.results ∧ y.nests = x.nests ∧ y.lq = x.lq) ∧
    (∃ t y, exec (.tfail h f) s = .next t ∧ t.ctx s.cur = some y ∧ y.state = .ended ∧ y.tfail = some (f.off.toNat % 2 ^ 16) ∧ y.results = x.results ∧
      ∀ n ∈ (s.part x.part).nests, n.id = x.nest → ∃ n' ∈ (t.part x.part).nests, n'.id = n.id ∧ n'.failed.isSome = true)

/-- R162: CRR reads a control register as it stands, and CRW sends its value to land one bundle later; a value outside the register's range faults with CCR_RANGE. R183, R184: SHW sends a field of the shadow copy to land at L = 1, or faults where its value sets a reserved bit; SHRD reads a field of the shadow copy, or with SUB[5] of the active copy, at L = 2. -/
def Obligations.ControlAndShapeRegisters : Prop :=
  ((∀ (s : State) (h : Hdr) (f : F3) (x : Ctx), Acts s h x →
      exec (.crr h f) s = .next (s.put (x.putS h 1 f.a (BitVec.ofNat 64 (x.ctl.read f.sub.toNat)))) ∧
      (ccrOk f.sub.toNat (x.rs f.b).toNat = true →
        exec (.crw h f) s = .next (s.put (x.send h 1 (.ctl f.sub.toNat) (2 ^ 64 - 1) (.now (x.rs f.b).toNat 0)))) ∧
      (ccrOk f.sub.toNat (x.rs f.b).toNat = false → exec (.crw h f) s = .next (s.issueFault (slotNo h.slot) 11 0))) ∧
    (∀ v, (ccrOk 0x01 v = true ↔ v ≤ 63) ∧ (ccrOk 0x02 v = true ↔ v ≤ 191) ∧ (ccrOk 0x06 v = true ↔ v ≤ 31) ∧ (ccrOk 0x09 v = true ↔ v ≤ 16) ∧
      (ccrOk 0x10 v = true ↔ v < 2 ^ 23 ∧ v % 8 = 0) ∧
      (ccrOk 0x0B v = true ↔ v < 2 ^ 56 ∧ v / 2 ^ 23 % 2 ^ 9 = 0 ∧ v % 8 = 0 ∧ v / 2 ^ 32 % 2 ^ 24 % 8 = 0 ∧ v / 2 ^ 32 % 2 ^ 24 ≤ 0x800000)) ∧
    (∀ (c : Ctl) (v : Nat), c.write 0x07 v = { c with tfloor := max c.tfloor v, floorNow := max c.floorNow v }) ∧
    (∀ (c : Ctl) (n v : Nat), SMap.wf 0 c.retstk = true → ccrOk n v = true → n < 0x20 → n ≠ 7 → n < 0x0C ∨ 0x10 ≤ n → (c.write n v).read n = v)) ∧
  (∀ (s : State) (h : Hdr) (f : F3) (x : Ctx), Acts s h x →
      (shapeValueOk f.sub.toNat (x.rs f.b).toNat = true →
        exec (.shw h f) s = .next (s.put (x.send h 1 (.shape f.a.toNat (f.sub.toNat % 16)) (2 ^ 64 - 1) (.now (x.rs f.b).toNat 0)))) ∧
      (shapeValueOk f.sub.toNat (x.rs f.b).toNat = false → exec (.shw h f) s = .next (s.issueFault (slotNo h.slot) 4 0)) ∧
      (f.sub.getLsbD 5 = false → exec (.shrd h f) s = .next (s.put (x.putS h 2 f.a (x.shadowField f.c.toNat (f.sub.toNat % 16))))) ∧
      (f.sub.getLsbD 5 = true → exec (.shrd h f) s = .next (s.put (x.putS h 2 f.a (x.shapeField f.c.toNat (f.sub.toNat % 16))))))

/-! ### The scalar engine -/

/-- R169: the integer and bit operations of the scalar engine at latency 1, and XMV at latency 2 (R174). R172, R173, Table 6.3: CMP, CMPI and SEL with every condition code. -/
def Obligations.ScalarIntegerAndCompare : Prop :=
  ((∀ (s : State) (h : Hdr) (f : F3) (x : Ctx), Acts s h x →
      exec (.add h f) s = .next (s.put (x.putS h 1 f.a (x.rs f.b + x.rs f.c))) ∧
      exec (.sub h f) s = .next (s.put (x.putS h 1 f.a (x.rs f.b - x.rs f.c))) ∧
      exec (.and h f) s = .next (s.put (x.putS h 1 f.a (x.rs f.b &&& x.rs f.c))) ∧
      exec (.or h f) s = .next (s.put (x.putS h 1 f.a (x.rs f.b ||| x.rs f.c))) ∧
      exec (.xor h f) s = .next (s.put (x.putS h 1 f.a (x.rs f.b ^^^ x.rs f.c))) ∧
      exec (.sll h f) s = .next (s.put (x.putS h 1 f.a (x.rs f.b <<< ((x.rs f.c).toNat % 64)))) ∧
      exec (.srl h f) s = .next (s.put (x.putS h 1 f.a (x.rs f.b >>> ((x.rs f.c).toNat % 64)))) ∧
      exec (.sra h f) s = .next (s.put (x.putS h 1 f.a ((x.rs f.b).sshiftRight ((x.rs f.c).toNat % 64)))) ∧
      exec (.min h f) s = .next (s.put (x.putS h 1 f.a (BitVec.ofInt 64 (min (x.rs f.b).toInt (x.rs f.c).toInt)))) ∧
      exec (.max h f) s = .next (s.put (x.putS h 1 f.a (BitVec.ofInt 64 (max (x.rs f.b).toInt (x.rs f.c).toInt)))) ∧
      exec (.minu h f) s = .next (s.put (x.putS h 1 f.a (BitVec.ofNat 64 (min (x.rs f.b).toNat (x.rs f.c).toNat)))) ∧
      exec (.maxu h f) s = .next (s.put (x.putS h 1 f.a (BitVec.ofNat 64 (max (x.rs f.b).toNat (x.rs f.c).toNat)))) ∧
      exec (.addsc h f) s = .next (s.put (x.putS h 1 f.a (x.rs f.b + x.rs f.c <<< f.sub.toNat))) ∧
      exec (.xmv h f) s = .next (s.put (x.putS h 2 f.a (x.rs f.b)))) ∧
    (∀ (s : State) (h : Hdr) (f : FI) (x : Ctx), Acts s h x →
      exec (.addi h f) s = .next (s.put (x.putS h 1 f.a (x.rs f.b + f.imm.signExtend 64))) ∧
      exec (.andi h f) s = .next (s.put (x.putS h 1 f.a (x.rs f.b &&& f.imm.signExtend 64))) ∧
      exec (.ori h f) s = .next (s.put (x.putS h 1 f.a (x.rs f.b ||| f.imm.signExtend 64))) ∧
      exec (.xori h f) s = .next (s.put (x.putS h 1 f.a (x.rs f.b ^^^ f.imm.signExtend 64))) ∧
      (f.imm.toNat < 64 →
        exec (.slli h f) s = .next (s.put (x.putS h 1 f.a (x.rs f.b <<< f.imm.toNat))) ∧
        exec (.srli h f) s = .next (s.put (x.putS h 1 f.a (x.rs f.b >>> f.imm.toNat))) ∧
        exec (.srai h f) s = .next (s.put (x.putS h 1 f.a ((x.rs f.b).sshiftRight f.imm.toNat)))))) ∧
  ((∀ (s : State) (h : Hdr) (f : F3) (x : Ctx), Acts s h x →
      exec (.cmp h f) s = .next (s.put (x.putP h 1 f.a (intCond f.sub.toNat 64 (x.rs f.b).toNat (x.rs f.c).toNat))) ∧
      exec (.sel h f) s = .next (s.put (x.putS h 1 f.a (if (x.rp f.d ^^ f.sub.getLsbD 0) = true then x.rs f.b else x.rs f.c)))) ∧
    (∀ (s : State) (h : Hdr) (f : FI) (x : Ctx), Acts s h x →
      exec (.cmpi h f) s = .next (s.put (x.putP h 1 f.a (intCond (f.imm.extractLsb' 30 4).toNat 64 (x.rs f.b).toNat ((f.imm.extractLsb' 0 30).signExtend 64).toNat)))) ∧
    (∀ a b : Word, (intCond 0 64 a.toNat b.toNat = true ↔ a = b) ∧ (intCond 1 64 a.toNat b.toNat = true ↔ a ≠ b) ∧
      (intCond 2 64 a.toNat b.toNat = true ↔ a.toInt < b.toInt) ∧ (intCond 3 64 a.toNat b.toNat = true ↔ a.toInt ≤ b.toInt) ∧
      (intCond 4 64 a.toNat b.toNat = true ↔ b.toInt < a.toInt) ∧ (intCond 5 64 a.toNat b.toNat = true ↔ b.toInt ≤ a.toInt) ∧
      (intCond 6 64 a.toNat b.toNat = true ↔ a.toNat < b.toNat) ∧ (intCond 7 64 a.toNat b.toNat = true ↔ a.toNat ≤ b.toNat) ∧
      (intCond 8 64 a.toNat b.toNat = true ↔ b.toNat < a.toNat) ∧ (intCond 9 64 a.toNat b.toNat = true ↔ b.toNat ≤ a.toNat)))

/-- R169, R170: multiplication as the parts of the exact product at latency 3; division at latency 14, which answers all ones for a zero divisor, leaves the dividend as the remainder, and wraps the one quotient that overflows. -/
def Obligations.ScalarMulDiv : Prop :=
  ∀ (s : State) (h : Hdr) (f : F3) (x : Ctx), Acts s h x →
    exec (.mul h f) s = .next (s.put (x.putS h 3 f.a (BitVec.ofInt 64 ((x.rs f.b).toInt * (x.rs f.c).toInt)))) ∧
    exec (.mulh h f) s = .next (s.put (x.putS h 3 f.a (BitVec.ofInt 64 ((x.rs f.b).toInt * (x.rs f.c).toInt / 2 ^ 64)))) ∧
    exec (.mulhu h f) s = .next (s.put (x.putS h 3 f.a (BitVec.ofNat 64 ((x.rs f.b).toNat * (x.rs f.c).toNat / 2 ^ 64)))) ∧
    exec (.div h f) s = .next (s.put (x.putS h 14 f.a (if x.rs f.c = 0 then BitVec.allOnes 64 else BitVec.ofInt 64 ((x.rs f.b).toInt.tdiv (x.rs f.c).toInt)))) ∧
    exec (.divu h f) s = .next (s.put (x.putS h 14 f.a (if x.rs f.c = 0 then BitVec.allOnes 64 else BitVec.ofNat 64 ((x.rs f.b).toNat / (x.rs f.c).toNat)))) ∧
    exec (.rem h f) s = .next (s.put (x.putS h 14 f.a (if x.rs f.c = 0 then x.rs f.b else
      BitVec.ofInt 64 ((x.rs f.b).toInt - (x.rs f.c).toInt * (x.rs f.b).toInt.tdiv (x.rs f.c).toInt)))) ∧
    exec (.remu h f) s = .next (s.put (x.putS h 14 f.a (if x.rs f.c = 0 then x.rs f.b else
      BitVec.ofNat 64 ((x.rs f.b).toNat - (x.rs f.c).toNat * ((x.rs f.b).toNat / (x.rs f.c).toNat)))))

/-- R169: CLZ counts the leading zero bits and POPC the set bits. R171: LI gives the 34-bit immediate, sign-extended, and LIH puts a 30-bit immediate above the low 34 bits of its source. -/
def Obligations.ScalarCountsAndConstants : Prop :=
  (∀ (s : State) (h : Hdr) (f : F3) (x : Ctx), Acts s h x →
      (∃ n ≤ 64, exec (.clz h f) s = .next (s.put (x.putS h 1 f.a (BitVec.ofNat 64 n))) ∧
        (x.rs f.b).toNat < 2 ^ (64 - n) ∧ (n < 64 → 2 ^ (63 - n) ≤ (x.rs f.b).toNat)) ∧
      exec (.popc h f) s = .next (s.put (x.putS h 1 f.a (BitVec.ofNat 64 ((List.range 64).filter fun i => (x.rs f.b).getLsbD i).length)))) ∧
  (∀ (s : State) (h : Hdr) (f : FI) (x : Ctx), Acts s h x →
      exec (.li h f) s = .next (s.put (x.putS h 1 f.a (BitVec.ofInt 64 f.imm.toInt))) ∧
      (f.imm.toNat < 2 ^ 30 → exec (.lih h f) s = .next (s.put (x.putS h 1 f.a (BitVec.ofNat 64 (f.imm.toNat * 2 ^ 34 + (x.rs f.b).toNat % 2 ^ 34))))))

/-- R175 to R177: a scalar load and store of 1, 2, 4 or 8 bytes: the address, the alignment and bounds faults, the loaded value (sign-extended for even SZ codes) at latency 5 or 6, and the bytes stored, which loads see two bundles on. -/
def Obligations.ScalarMemory : Prop :=
  ∀ (s : State) (h : Hdr) (f : FM) (x : Ctx) (n ea : Nat), Acts s h x → n = 2 ^ (f.sz.toNat / 2) → ea = (x.rs f.b + f.off.signExtend 64).toNat →
    (ea % n ≠ 0 → exec (.ld h f) s = .next (s.issueFault (slotNo h.slot) 2 0) ∧ exec (.st h f) s = .next (s.issueFault (slotNo h.slot) 2 0)) ∧
    (ea % n = 0 → 0x800000 < ea + n → exec (.ld h f) s = .next (s.issueFault (slotNo h.slot) 3 0) ∧ exec (.st h f) s = .next (s.issueFault (slotNo h.slot) 3 0)) ∧
    (ea % n = 0 → ea + n ≤ 0x800000 →
      exec (.ld h f) s = .next (s.put ((x.putS h (if x.l3 then 6 else 5) f.a (loaded f.sz.toNat (x.load (s.core s.cur).mem ea n))).tick ea n)) ∧
      exec (.st h f) s = .next (s.put { x with stores := x.stores ++
        [⟨x.bn, x.bn + 2, h.slot, (List.range n).map fun i => (ea + i, BitVec.ofNat 8 ((x.rs f.a).toNat / 2 ^ (8 * i))), [], 0, []⟩] }))

/-- R178 to R181: the FP32 instructions, each with one rounding at its latency: FADD, FSUB, FMUL and FFMA at 4, FDIV and FSQRT at 14; FMIN, FMAX and FCMP at 2; and FCVT at 3, sign-extended to 64 bits for the integer formats. -/
def Obligations.ScalarFloat : Prop :=
  ∀ (s : State) (h : Hdr) (f : F3) (x : Ctx) (a b c : Nat), Acts s h x → a = (x.rs f.b).toNat % 2 ^ 32 → b = (x.rs f.c).toNat % 2 ^ 32 →
    c = (x.rs f.d).toNat % 2 ^ 32 →
    (∀ op l i, (op, l, i) ∈ [(FpOp.add, 4, Instr.fadd h f), (.sub, 4, .fsub h f), (.mul, 4, .fmul h f), (.fma, 4, .ffma h f), (.div, 14, .fdiv h f), (.sqrt, 14, .fsqrt h f)] →
      exec i s = .next (s.put (x.sendS h l f.a (.rnd 32 [(0, (fpRound op 0 f.rnd.toNat f.s f.fi f.fo 0 a b c).1)] (fpRound op 0 f.rnd.toNat f.s f.fi f.fo 0 a b c).2)))) ∧
    exec (.fmin h f) s = .next (s.put (x.sendS h 2 f.a (.now (fpMinMax false f.fi 0 a b).1 (fpMinMax false f.fi 0 a b).2))) ∧
    exec (.fmax h f) s = .next (s.put (x.sendS h 2 f.a (.now (fpMinMax true f.fi 0 a b).1 (fpMinMax true f.fi 0 a b).2))) ∧
    exec (.fcmp h f) s = .next (s.put (x.putP h 2 f.a (floatCond f.sub.toNat (decodeF f.fi 0 a) (decodeF f.fi 0 b)) (snanFlag 0 a ||| snanFlag 0 b))) ∧
    (∀ r fl, convert f.d.toNat f.fmt.toNat f.rnd.toNat f.s f.fi f.fo 0 ((x.rs f.b).toNat % 2 ^ fmtWidth f.d.toNat) = (r, fl) →
      exec (.fcvt h f) s = .next (s.put (x.sendS h 3 f.a (if f.fmt = 6 ∨ f.fmt = 7 ∨ f.fmt = 8 then .sx r fl else .rnd (fmtWidth f.fmt.toNat) [(0, r)] fl))))

/-! ### The vector engine -/

/-- R186, R190, R191: lane integer arithmetic. Each enabled element takes the exact result on the operands' integers, modulo 2 to the width, and for VADDS and VSUBS clamped to the format's range; the latency is 2, and 3 for products. No flag rises. R190: the bitwise lane operations, the lane shifts by the count modulo the width, and VABS. -/
def Obligations.LaneArithmetic : Prop :=
  (∀ (s : State) (h : Hdr) (f : F3) (x y : Ctx) (ls : List Loc) (lo hi : Int), Acts s h x → Operands x [f.b, f.c] [f.a] h.t y ls →
      lo = (if f.fmt.toNat ≤ 8 then -2 ^ (fmtWidth f.fmt.toNat - 1) else 0) → hi = lo + 2 ^ fmtWidth f.fmt.toNat - 1 → 0 < fmtWidth f.fmt.toNat →
      ∀ (i : Instr) (l : Nat) (g : Int → Int → Int), (i, l, g) ∈ [
          (Instr.vadd h f, 2, fun a b => a + b), (.vsub h f, 2, fun a b => a - b), (.vmul h f, 3, fun a b => a * b),
          (.vmulh h f, 3, fun a b => a * b / 2 ^ fmtWidth f.fmt.toNat), (.vmin h f, 2, fun a b => min a b), (.vmax h f, 2, fun a b => max a b),
          (.vadds h f, 2, fun a b => max lo (min hi (a + b))), (.vsubs h f, 2, fun a b => max lo (min hi (a - b)))] →
        exec i s = .next (s.put (y.lanes x h f l ls (List.zipWith
          (fun a b => (modPow (fmtWidth f.fmt.toNat) (g (intOf f.fmt.toNat (fmtWidth f.fmt.toNat) a) (intOf f.fmt.toNat (fmtWidth f.fmt.toNat) b)), 0))
          (vElems (fmtWidth f.fmt.toNat) (x.rvec f.b)) (vElems (fmtWidth f.fmt.toNat) (x.rvec f.c)))))) ∧
  (∀ (s : State) (h : Hdr) (f : F3) (x y : Ctx) (ls : List Loc) (w : Nat), Acts s h x → w = fmtWidth f.fmt.toNat →
      (Operands x [f.b, f.c] [f.a] h.t y ls → ∀ (i : Instr) (g : Nat → Nat → Nat), (i, g) ∈ [
          (Instr.vand h f, fun a b => a &&& b), (.vor h f, fun a b => a ||| b), (.vxor h f, fun a b => a ^^^ b),
          (.vsll h f, fun a b => a * 2 ^ (b % w) % 2 ^ w), (.vsrl h f, fun a b => a / 2 ^ (b % w)), (.vsra h f, fun a b => modPow w (sext w a / 2 ^ (b % w)))] →
        exec i s = .next (s.put (y.lanes x h f 2 ls (List.zipWith (fun a b => (g a b, 0)) (vElems w (x.rvec f.b)) (vElems w (x.rvec f.c)))))) ∧
      (Operands x [f.b] [f.a] h.t y ls →
        exec (.vabs h f) s = .next (s.put (y.lanes x h f 2 ls ((vElems w (x.rvec f.b)).map fun a => ((sext w a).natAbs % 2 ^ w, 0))))))

/-- R193, R196: the IEEE and taper lane operations: one rounding per enabled element at the position e mod 32, at the latency of Table 7.1 or of Table 1.10 under L3. R192, R194, R195, R197: lane minimum, maximum, sign operations and compares, and the reduction of the enabled elements into element 0. Where the rules leave a point open this follows the model's choices, log entries 25, 26. -/
def Obligations.LaneRoundingsAndCompares : Prop :=
  (∀ (s : State) (h : Hdr) (f : F3) (x y : Ctx) (ls : List Loc) (w : Nat) (es : FpOp → List Nat → List Nat → List Nat → List (Rounding × Flags)),
      Acts s h x → w = fmtWidth f.fmt.toNat →
      (es = fun op as bs cs => (as.zip (bs.zip cs)).zipIdx.map fun p => fpRound op f.fmt.toNat f.rnd.toNat f.s f.fi f.fo (p.2 % 32) p.1.1 p.1.2.1 p.1.2.2) →
      (Operands x [f.b, f.c] [f.a] h.t y ls → ∀ (i : Instr) (op : FpOp) (l m3 : Nat), (i, op, l, m3) ∈ [
          (Instr.vfadd h f, .add, 4, 6), (.vfsub h f, .sub, 4, 4), (.vfmul h f, .mul, 4, 6), (.vfdiv h f, .div, 14, 14),
          (.vtadd h f, .add, 5, 5), (.vtsub h f, .sub, 5, 5), (.vtmul h f, .mul, 5, 5)] →
        exec i s = .next (s.put (y.roundings x h f l m3 ls (es op (vElems w (x.rvec f.b)) (vElems w (x.rvec f.c)) (vElems w (x.rvec f.b)))))) ∧
      (Operands x [f.b, f.c, f.d] [f.a] h.t y ls → ∀ (i : Instr) (l m3 : Nat), (i, l, m3) ∈ [(Instr.vffma h f, 4, 6), (.vtfma h f, 5, 5)] →
        exec i s = .next (s.put (y.roundings x h f l m3 ls (es .fma (vElems w (x.rvec f.b)) (vElems w (x.rvec f.c)) (vElems w (x.rvec f.d)))))) ∧
      (Operands x [f.b] [f.a] h.t y ls →
        exec (.vfsqrt h f) s = .next (s.put (y.roundings x h f 14 14 ls (es .sqrt (vElems w (x.rvec f.b)) (vElems w (x.rvec f.b)) (vElems w (x.rvec f.b))))))) ∧
  (∀ (s : State) (h : Hdr) (f : F3) (x y : Ctx) (ls : List Loc) (w : Nat), Acts s h x → w = fmtWidth f.fmt.toNat →
      (Operands x [f.b, f.c] [f.a] h.t y ls →
        exec (.vfmin h f) s = .next (s.put (y.lanes x h f 2 ls (List.zipWith (fpMinMax false f.fi f.fmt.toNat) (vElems w (x.rvec f.b)) (vElems w (x.rvec f.c))))) ∧
        exec (.vfmax h f) s = .next (s.put (y.lanes x h f 2 ls (List.zipWith (fpMinMax true f.fi f.fmt.toNat) (vElems w (x.rvec f.b)) (vElems w (x.rvec f.c)))))) ∧
      (Operands x [f.b] [f.a] h.t y ls →
        exec (.vfabs h f) s = .next (s.put (y.lanes x h f 2 ls ((vElems w (x.rvec f.b)).map (fpSign true f.fi f.fmt.toNat)))) ∧
        exec (.vfneg h f) s = .next (s.put (y.lanes x h f 2 ls ((vElems w (x.rvec f.b)).map (fpSign false f.fi f.fmt.toNat)))) ∧
        exec (.vred h f) s = .next (s.put (y.send h (if y.l3 then 8 else 6) (ls.headD .p) (2 ^ 4096 - 1) (vredLate f f.fmt.toNat w (f.d.toNat % 8)
          (List.zipWith (fun b c => if b then some c else none) (enabled (kmOf x f) w (4096 / w)) (vElems w (x.rvec f.b))))))) ∧
      (Operands x [f.b, f.c] [] false y ls → ∀ (i : Instr) (cs : List (Bool × Flags)), (i, cs) ∈ [
          (Instr.vcmp h f, List.zipWith (fun a b => (intCond (f.d.toNat % 16) w a b, 0)) (vElems w (x.rvec f.b)) (vElems w (x.rvec f.c))),
          (.vfcmp h f, List.zipWith (fun a b => (floatCond (f.d.toNat % 8) (decodeF f.fi f.fmt.toNat a) (decodeF f.fi f.fmt.toNat b),
            snanFlag f.fmt.toNat a ||| snanFlag f.fmt.toNat b)) (vElems w (x.rvec f.b)) (vElems w (x.rvec f.c)))] →
        exec i s = .next (s.put (y.putK h 2 f.a.toNat (if zOf f then 2 ^ 128 - 1 else (kmOf x f).toNat)
          (laneBits (f.d.getLsbD 4) w (cs.map Prod.fst) &&& (kmOf x f).toNat) (flagsOn (enabled (kmOf x f) w (4096 / w)) (cs.map Prod.snd))))))

/-- R198 to R201, R215: selection, the mask operations, and the moves between registers, scalars and elements. -/
def Obligations.LaneMoves : Prop :=
  ∀ (s : State) (h : Hdr) (f : F3) (x y : Ctx) (ls : List Loc) (w : Nat), Acts s h x → w = fmtWidth f.fmt.toNat →
    exec (.kand h f) s = .next (s.put (x.putK h 1 f.a.toNat (2 ^ 128 - 1) (x.rk f.b.toNat &&& x.rk f.c.toNat).toNat)) ∧
    exec (.kor h f) s = .next (s.put (x.putK h 1 f.a.toNat (2 ^ 128 - 1) (x.rk f.b.toNat ||| x.rk f.c.toNat).toNat)) ∧
    exec (.kxor h f) s = .next (s.put (x.putK h 1 f.a.toNat (2 ^ 128 - 1) (x.rk f.b.toNat ^^^ x.rk f.c.toNat).toNat)) ∧
    exec (.knot h f) s = .next (s.put (x.putK h 1 f.a.toNat (2 ^ 128 - 1) (~~~ x.rk f.b.toNat).toNat)) ∧
    exec (.kpop h f) s = .next (s.put (x.putS h 2 f.a (BitVec.ofNat 64 ((List.range 128).filter fun i => (x.rk f.b.toNat).getLsbD i).length))) ∧
    (Operands x [f.b, f.c] [f.a] h.t y ls → exec (.vsel h f) s = .next (s.put (y.send h 2 (ls.headD .p) (2 ^ 4096 - 1)
      (.now (merge (x.rvec f.c).toNat (x.rvec f.b).toNat (landMask 32 (enabled (kmOf x f) 32 128) false)) 0)))) ∧
    (Operands x [] [f.a] h.t y ls →
      exec (.vbcast h f) s = .next (s.put (y.lanes x h f 2 ls (List.replicate (4096 / w) ((x.rs f.b).toNat % 2 ^ w, 0)))) ∧
      exec (.viota h f) s = .next (s.put (y.lanes x h f 2 ls ((List.range (4096 / w)).map fun e => (((x.rs f.b).toNat + e) % 2 ^ w, 0)))) ∧
      exec (.vins h f) s = .next (s.put (y.send h 2 (ls.headD .p) ((2 ^ w - 1) * 2 ^ (w * ((x.rs f.c).toNat % (4096 / w))))
        (.now ((x.rs f.b).toNat % 2 ^ w * 2 ^ (w * ((x.rs f.c).toNat % (4096 / w)))) 0)))) ∧
    (Operands x [f.b] [f.a] h.t y ls →
      (fmtWidth f.fmt.toNat = 32 → exec (.vmov h f) s = .next (s.put (y.lanes x h f 2 ls ((vElems 32 (x.rvec f.b)).map fun a => (a, 0))))) ∧
      exec (.vxmv h f) s = .next (s.put (y.send h 2 (ls.headD .p) (2 ^ 4096 - 1) (.now (x.rvec f.b).toNat 0)))) ∧
    (Operands x [f.b] [] h.t y ls → ∀ c, c = (x.rvec f.b).toNat / 2 ^ (w * ((x.rs f.c).toNat % (4096 / w))) % 2 ^ w →
      exec (.vext h f) s = .next (s.put (y.putS h 2 f.a (if 6 ≤ f.fmt.toNat ∧ f.fmt.toNat ≤ 8 then BitVec.ofInt 64 (sext w c) else BitVec.ofNat 64 c))))

/-- R202 to R204: VLD reads the 512 bytes at its address into the enabled lanes at latency 8, or 10 under L3; VST stores the enabled lanes, which loads see three bundles on; a misaligned address and one past the scratchpad fault. R205 to R209: strided and indexed loads and stores through a shape register: its checks, the elements reached, and what lands or is stored. The W exchange happens first. A global view, B4, a rank that is not 1 to 6 and an indexed view of whole elements are SHAPE_FIELD; then come misalignment, bounds and BANK_DEPTH. R28: what a slot load sees where no write of the Q or M slots is on its way (R177): the byte of the newest slot store that loads see by now, two bundles on for a scalar store and three for a vector store, else the scratchpad's. Where the rules leave a point open this follows the model's choices, log entries 12, 31, 123. -/
def Obligations.VectorMemory : Prop :=
  (∀ (s : State) (h : Hdr) (f : FM) (x y : Ctx) (ls : List Loc) (ea : Nat), Acts s h x → ea = (x.rs f.b + f.off.signExtend 64).toNat →
      (Operands x [] [f.a] h.t y ls →
        (ea % 4 ≠ 0 → exec (.vld h f) s = .next (s.issueFault (slotNo h.slot) 2 0)) ∧
        (ea % 4 = 0 → 0x800000 < ea + 512 → exec (.vld h f) s = .next (s.issueFault (slotNo h.slot) 3 0)) ∧
        (ea % 4 = 0 → ea + 512 ≤ 0x800000 → exec (.vld h f) s = .next (s.put ((y.send h (if y.l3 then 10 else 8) (ls.headD .p)
          (landMask 32 (enabled (x.rk f.sz.toNat) 32 128) false) (.now (ofBytes (x.load (s.core s.cur).mem ea 512)) 0)).tick ea 512)))) ∧
      (Operands x [f.a] [] false y ls →
        (ea % 4 ≠ 0 → exec (.vst h f) s = .next (s.issueFault (slotNo h.slot) 2 0)) ∧
        (ea % 4 = 0 → 0x800000 < ea + 512 → exec (.vst h f) s = .next (s.issueFault (slotNo h.slot) 3 0)) ∧
        (ea % 4 = 0 → ea + 512 ≤ 0x800000 → exec (.vst h f) s = .next (s.put { y with stores := y.stores ++ [⟨y.bn, y.bn + 3, h.slot,
          scatter 32 (x.rvec f.a) (((List.range 128).filter fun l => (x.rk f.sz.toNat).getLsbD l).map fun l => (l, ea + 4 * l)), [], 0, []⟩] })))) ∧
  (∀ (s : State) (h : Hdr) (f : F3) (x x' y : Ctx) (ls : List Loc), Acts s h x → x' = (if f.w then x.exchange (16 + f.a.toNat) else x) →
      (∀ (i : Instr) (v : View) (ps : List (Nat × Nat)) (reads : List (BitVec 7)) (l : Nat) (live : List Bool),
        (i, v, ps, reads, l, live) ∈ [
          (Instr.vlds h f, x'.view (16 + f.a.toNat) (x'.rs f.c).toInt, stridedPlaces (x'.view (16 + f.a.toNat) (x'.rs f.c).toInt) (kmOf x' f), [], (if y.l3 then 10 else 8),
            (List.range (4096 / (x'.view (16 + f.a.toNat) (x'.rs f.c).toInt).w)).map fun e =>
              (stridedPlaces (x'.view (16 + f.a.toNat) (x'.rs f.c).toInt) (kmOf x' f)).any fun p => p.1 == e),
          (.vgath h f, x'.view (16 + f.a.toNat) 0, indexedPlaces (x'.view (16 + f.a.toNat) 0) (kmOf x' f) (x'.rvec f.c), [f.c], 10,
            enabled (kmOf x' f) (x'.view (16 + f.a.toNat) 0).w (4096 / (x'.view (16 + f.a.toNat) 0).w))] →
        Operands x' reads [f.b] h.t y ls → (checkPlaces v (i == .vgath h f) ps (.ok ()) = .ok ()) →
        exec i s = .next (s.put (ps.foldl (fun z p => z.tick p.2 (v.w / 8))
          (y.send h l (ls.headD .p) (landMask v.w live (zOf f)) (.now (gather x' (s.core s.cur).mem v.w ps) 0))))) ∧
      (∀ (i : Instr) (v : View) (ps : List (Nat × Nat)) (reads : List (BitVec 7)),
        (i, v, ps, reads) ∈ [
          (Instr.vsts h f, x'.view (16 + f.a.toNat) (x'.rs f.c).toInt, stridedPlaces (x'.view (16 + f.a.toNat) (x'.rs f.c).toInt) (kmOf x' f), [f.b]),
          (.vscat h f, x'.view (16 + f.a.toNat) 0, indexedPlaces (x'.view (16 + f.a.toNat) 0) (kmOf x' f) (x'.rvec f.c), [f.b, f.c])] →
        Operands x' reads [] false y ls → (checkPlaces v (i == .vscat h f) ps (.ok ()) = .ok ()) →
        exec i s = .next (s.put { y with stores := y.stores ++ [⟨y.bn, y.bn + 3, h.slot, scatter v.w (x'.rvec f.b) ps, [], 0, []⟩] })) ∧
      (∀ (i : Instr) (v : View) (ps : List (Nat × Nat)) (reads writes : List (BitVec 7)) (b : Bool) (c : Nat),
        (i, v, ps, reads, writes, b) ∈ [
          (Instr.vlds h f, x'.view (16 + f.a.toNat) (x'.rs f.c).toInt, stridedPlaces (x'.view (16 + f.a.toNat) (x'.rs f.c).toInt) (kmOf x' f), [], [f.b], false),
          (.vsts h f, x'.view (16 + f.a.toNat) (x'.rs f.c).toInt, stridedPlaces (x'.view (16 + f.a.toNat) (x'.rs f.c).toInt) (kmOf x' f), [f.b], [], false),
          (.vgath h f, x'.view (16 + f.a.toNat) 0, indexedPlaces (x'.view (16 + f.a.toNat) 0) (kmOf x' f) (x'.rvec f.c), [f.c], [f.b], true),
          (.vscat h f, x'.view (16 + f.a.toNat) 0, indexedPlaces (x'.view (16 + f.a.toNat) 0) (kmOf x' f) (x'.rvec f.c), [f.b, f.c], [], true)] →
        Operands x' reads writes h.t y ls → checkPlaces v b ps (.ok ()) = .fault c 0 → exec i s = .next (s.issueFault (slotNo h.slot) c 0)) ∧
      (∀ (v : View) (ps : List (Nat × Nat)) (b : Bool),
        ((v.global = true ∨ v.fmt = 5 ∨ v.rank = 0 ∨ 6 < v.rank ∨ b = true ∧ v.d ≠ 1) → checkPlaces v b ps (.ok ()) = .fault 4 0) ∧
        (v.global = false → v.fmt ≠ 5 → 1 ≤ v.rank → v.rank ≤ 6 → (b = true → v.d = 1) →
          (v.aligned = false → checkPlaces v b ps (.ok ()) = .fault 2 0) ∧
          (v.aligned = true → (∃ p ∈ ps, 0x800000 < p.2 + v.w / 8) → checkPlaces v b ps (.ok ()) = .fault 3 0) ∧
          (v.aligned = true → (∀ p ∈ ps, p.2 + v.w / 8 ≤ 0x800000) → banksOk (ps.map fun p => (p.2, v.w / 8)) = false → checkPlaces v b ps (.ok ()) = .fault 13 0) ∧
          (v.aligned = true → (∀ p ∈ ps, p.2 + v.w / 8 ≤ 0x800000) → banksOk (ps.map fun p => (p.2, v.w / 8)) = true → checkPlaces v b ps (.ok ()) = .ok ())) ∧
        (v.aligned = true ↔ v.base % max 1 (v.w / 8) = 0 ∧ (v.planar = true → v.pstr % ((max 1 (v.w / 8) : Nat) : Int) = 0)))) ∧
  (∀ (x : Ctx) (mem : SMap Byte) (a n i : Nat), i < n → x.inFlight (a + i) = false →
      ((∀ p ∈ x.stores, p.isSlot = true → p.vis ≤ x.bn → lastByte (a + i) (p.all 0) = none) → (x.load mem a n)[i]? = some (SMap.get 0 mem (a + i))) ∧
      (∀ pre post p v, x.stores = pre ++ p :: post → p.isSlot = true → p.vis ≤ x.bn → lastByte (a + i) (p.all 0) = some v →
        (∀ q ∈ post, q.isSlot = true → q.vis ≤ x.bn → lastByte (a + i) (q.all 0) = none) → (x.load mem a n)[i]? = some v))

/-- R210 to R214: ALOAD's checks and its table at latency 4, the presets, and the products, conjugates and norms of whole algebra elements. Where the rules leave a point open this follows the model's choices, log entries 27, 31, 107. -/
def Obligations.AlgebraElements : Prop :=
  ∀ (s : State) (h : Hdr) (f : F3) (x y : Ctx) (ls : List Loc) (w t d a : Nat), Acts s h x → w = fmtWidth f.fmt.toNat → t = x.rtab (f.d.toNat % 4) → d = tDim t →
    a = (x.rs f.b).toNat →
    (a % 8 ≠ 0 → exec (.aload h f) s = .next (s.issueFault (slotNo h.slot) 2 0)) ∧
    (a % 8 = 0 → 0x800000 < a + 72 → exec (.aload h f) s = .next (s.issueFault (slotNo h.slot) 3 0)) ∧
    (a % 8 = 0 → a + 72 ≤ 0x800000 → tableOk (ofBytes (x.load (s.core s.cur).mem a 72)) = false → exec (.aload h f) s = .next (s.issueFault (slotNo h.slot) 12 0)) ∧
    (a % 8 = 0 → a + 72 ≤ 0x800000 → tableOk (ofBytes (x.load (s.core s.cur).mem a 72)) = true →
      exec (.aload h f) s = .next (s.put ((x.send h 4 (.table f.a.toNat) (2 ^ 576 - 1) (.now (ofBytes (x.load (s.core s.cur).mem a 72)) 0)).tick a 72))) ∧
    exec (.aloadPreset h f) s = .next (s.put (x.send h 4 (.table f.a.toNat) (2 ^ 576 - 1) (.now (preset (f.sub.toNat % 8)) 0))) ∧
    (∀ p < 6, tableOk (preset p) = true) ∧
    (Operands x [f.b, f.c] [f.a] h.t y ls → exec (.vamul h f) s = .next (s.put (y.roundings x h f 6 6 ls
      ((((chunks d (4096 / w / d) (vElems w (x.rvec f.b))).zip (chunks d (4096 / w / d) (vElems w (x.rvec f.c)))).zipIdx).flatMap fun p =>
        (List.range d).map fun k => algComponent t f.fmt.toNat f.rnd.toNat f.s f.fi f.fo k ((d * p.2 + k) % 32)
          (if f.d.getLsbD 2 then p.1.2 else p.1.1) (if f.d.getLsbD 2 then p.1.1 else p.1.2) false)))) ∧
    (Operands x [f.b] [f.a] h.t y ls →
      exec (.vconj h f) s = .next (s.put (y.lanes x h f 2 ls ((vElems w (x.rvec f.b)).zipIdx.map fun p =>
        if tConj t (p.2 % d) then negCode false f.fmt.toNat (flushCode f.fi f.fmt.toNat p.1) else (p.1, 0)))) ∧
      exec (.vnorm h f) s = .next (s.put (y.roundings x h f 6 6 ls ((chunks d (4096 / w / d) (vElems w (x.rvec f.b))).zipIdx.flatMap fun p =>
        (List.range d).map fun k => if k = 0 then algComponent t f.fmt.toNat f.rnd.toNat f.s f.fi f.fo 0 (d * p.2 % 32) p.1 p.1 true
          else (⟨f.fmt.toNat, .zero false, 0, false, false, 0⟩, 0)))))

/-! ### The quire engine and the reshape unit -/

/-- R221, R223 to R228: the cell instructions. A window that overlaps the mapping of an incomplete nest faults with ACC_BUSY; else each enabled cell takes its new value at the distances of Table 8.1, chained at 1 and full at 3, and QRED at 4. A signalling NaN in an F32 cell that is read sets IV (R47). R224: QMAC and QMACN add the exact products of each enabled lane's element pairs, or their negations, to the cell's chained value; an F32 cell rounds once, and a QUIRE cell takes the exact sum. Where the rules leave a point open this follows the model's choices, log entries 28, 29, 30. -/
def Obligations.QuireCellsAndProducts : Prop :=
  (∀ (s : State) (h : Hdr) (f : F3) (x : Ctx) (k : Core) (ls : List Nat) (a : Nat → Nat), Acts s h x → k = s.core s.cur →
      ls = qlanes (x.rk (f.sub.toNat % 16)) → a = (fun l => 128 * f.a.toNat + l) →
      ∀ (i : Instr) (wins : List Nat) (chain full : Nat) (outs : List CellOut), (i, wins, chain, full, outs) ∈ [
          (Instr.qclr h f, [f.a.toNat], 1, 3, ls.map fun l => codeOut (a l) (k.cell (a l)).f32 0),
          (.qadd h f, [f.a.toNat, f.b.toNat, f.c.toNat], 1, 3, ls.map fun l =>
            sumInto f (a l) l (k.cell (a l)).f32 [k.cellVal (128 * f.b.toNat + l), k.cellVal (128 * f.c.toNat + l)]
              (k.cellFlags [128 * f.b.toNat + l, 128 * f.c.toNat + l])),
          (.qsub h f, [f.a.toNat, f.b.toNat, f.c.toNat], 1, 3, ls.map fun l =>
            sumInto f (a l) l (k.cell (a l)).f32 [k.cellVal (128 * f.b.toNat + l), (k.cellVal (128 * f.c.toNat + l)).neg]
              (k.cellFlags [128 * f.b.toNat + l, 128 * f.c.toNat + l])),
          (.qneg h f, [f.a.toNat, f.b.toNat], 1, 3, ls.map fun l =>
            sumInto f (a l) l (k.cell (a l)).f32 [.zero false, (k.cellVal (128 * f.b.toNat + l)).neg] (k.cellFlags [128 * f.b.toNat + l])),
          (.qred h f, [f.a.toNat, f.b.toNat], 4, 4, [sumInto f (a f.c.toNat) f.c.toNat (k.cell (a f.c.toNat)).f32
            (ls.map fun m => k.cellVal (128 * f.b.toNat + m)) (k.cellFlags (ls.map fun m => 128 * f.b.toNat + m))]),
          (.qmov h f, [f.a.toNat, f.b.toNat], 1, 3, ls.map fun l =>
            codeOut (a l) (k.cell (128 * f.b.toNat + l)).f32 (k.cell (128 * f.b.toNat + l)).q),
          (.qmode h f, [f.a.toNat], 1, 3, ls.filterMap fun l =>
            if f.sub.getLsbD 5 = false then some (codeOut (a l) (f.sub.getLsbD 4) 0)
            else if (k.cell (a l)).f32 = f.sub.getLsbD 4 then none
            else if f.sub.getLsbD 4 = true then some (f32Out (a l) none [k.cellVal (a l)] f.rnd.toNat f.s f.fo (l % 32) 0)
            else some (quireOut (a l) 0 (k.cellVal (a l)) (k.cell (a l)).snan))] →
        (wins.any x.windowBusy = true → exec i s = .next (s.issueFault (slotNo h.slot) 5 0)) ∧
        (wins.any x.windowBusy = false → exec i s = .next (s.put { x with nextId := x.nextId + 1, cellRes := x.cellRes ++
          [{ id := x.nextId, issued := x.bn, slot := h.slot, chain := x.bn + chain, full := x.bn + full, chained := false, pc := x.pc
             writes := outs.map CellOut.write, fl := outs.foldl (fun g o => g ||| o.fl) 0, qfl := outs.foldl (fun g o => g ||| o.qfl) 0
             ovf := firstOvf outs }] }))) ∧
  (∀ (s : State) (h : Hdr) (f : F3) (x y : Ctx) (ls : List Loc) (k : Core), Acts s h x → k = s.core s.cur → Operands x [f.b, f.c] [] false y ls →
      (x.windowBusy f.a.toNat = true → exec (.qmac h f) s = .next (s.issueFault (slotNo h.slot) 5 0) ∧ exec (.qmacn h f) s = .next (s.issueFault (slotNo h.slot) 5 0)) ∧
      (x.windowBusy f.a.toNat = false → ∀ (i : Instr) (neg : Bool), (i, neg) ∈ [(Instr.qmac h f, false), (.qmacn h f, true)] →
        exec i s = .next (s.put (y.putCells h 1 3
          (((chunks (32 / fmtWidth f.fmt.toNat) 128 ((vElems (fmtWidth f.fmt.toNat) (x.rvec f.b)).zip (vElems (fmtWidth f.fmt.toNat) (x.rvec f.c)))).zipIdx.filter
            fun e => (x.rk (f.sub.toNat % 16)).getLsbD e.2).map fun e =>
            if (k.cell (128 * f.a.toNat + e.2)).chainF32 then
              f32Out (128 * f.a.toNat + e.2) (some (k.cell (128 * f.a.toNat + e.2)).chain) (macTerms neg f.fi f.fmt.toNat e.1).1 f.rnd.toNat f.s f.fo (e.2 % 32)
                (macTerms neg f.fi f.fmt.toNat e.1).2
            else match (k.cell (128 * f.a.toNat + e.2)).chain with
              | .code q => quireOut (128 * f.a.toNat + e.2) q (sumV false (macTerms neg f.fi f.fmt.toNat e.1).1).1 (macTerms neg f.fi f.fmt.toNat e.1).2
              | .ref _ => codeOut (128 * f.a.toNat + e.2) false quireNaR)))) ∧
      (∀ (fi : Bool) (fmt : Nat) (ps : List (Nat × Nat)), (macTerms false fi fmt ps).1 = ps.map fun p => (mulV (decodeF fi fmt p.1) (decodeF fi fmt p.2)).1))

/-- R229 to R231: QROUND and QROUNDS round cells into elements once each, under the position 128q + l or e mod 32, at latency 6 or 8; QTST tests the enabled cells into a mask at latency 2. R232, R233: QLD and QST move a window's 128 cells as quire images of 128 bytes or F32 images of 4 bytes each, at the address of lane 0 and the offset, 32 bundles on; ACC_BUSY, misalignment and bounds fault in that order. Where the rules leave a point open this follows the model's choice, log entry 30. -/
def Obligations.QuireRoundingsAndMemory : Prop :=
  (∀ (s : State) (h : Hdr) (f : F3) (x y : Ctx) (ls : List Loc) (k : Core) (km : KMask) (w : Nat), Acts s h x → k = s.core s.cur →
      km = x.rk (f.sub.toNat % 16) → w = fmtWidth f.fmt.toNat →
      (x.windowBusy f.b.toNat = true → exec (.qtst h f) s = .next (s.issueFault (slotNo h.slot) 5 0)) ∧
      (x.windowBusy f.b.toNat = false → exec (.qtst h f) s = .next (s.put (x.putK h 2 f.a.toNat (if zOf f then 2 ^ 128 - 1 else km.toNat)
        ((qlanes km).foldl (fun a l => if qtst (f.d.toNat % 8) (k.cell (128 * f.b.toNat + l)) then a + 2 ^ l else a) 0)))) ∧
      (Operands x [] [f.a] h.t y ls → x.windowBusy f.b.toNat = true →
        exec (.qround h f) s = .next (s.issueFault (slotNo h.slot) 5 0) ∧ exec (.qrounds h f) s = .next (s.issueFault (slotNo h.slot) 5 0)) ∧
      (Operands x [] [f.a] h.t y ls → x.windowBusy f.b.toNat = false →
        exec (.qround h f) s = .next (s.put (y.send h (if y.l3 then 8 else 6) (ls.headD .p)
          ((List.range 128).foldl (fun a l => if zOf f || km.getLsbD l then a ||| (2 ^ w - 1) <<< (w * (128 * (f.d.toNat % 4) + l)) else a) 0)
          (.rnd w ((qlanes km).map fun l => (128 * (f.d.toNat % 4) + l, ⟨f.fmt.toNat, k.cellVal (128 * f.b.toNat + l), f.rnd.toNat, f.s, f.fo,
            (128 * (f.d.toNat % 4) + l) % 32⟩)) (k.cellFlags ((qlanes km).map fun l => 128 * f.b.toNat + l))))) ∧
        exec (.qrounds h f) s = .next (s.put (y.send h (if y.l3 then 8 else 6) (ls.headD .p) ((2 ^ w - 1) <<< (w * f.d.toNat))
          (.rnd w [(f.d.toNat, ⟨f.fmt.toNat, k.cellVal (128 * f.b.toNat + f.c.toNat), f.rnd.toNat, f.s, f.fo, f.d.toNat % 32⟩)]
            (k.cellFlags [128 * f.b.toNat + f.c.toNat])))))) ∧
  (∀ (s : State) (h : Hdr) (f : FM) (x y : Ctx) (ls : List Loc) (k : Core) (ea per : Nat), Acts s h x → k = s.core s.cur → Operands x [f.b] [] false y ls →
      ea = (BitVec.ofNat 64 ((x.rvec f.b).toNat % 2 ^ 32) + f.off.signExtend 64).toNat → per = (if f.sz = 0 then 128 else 4) →
      (x.windowBusy f.a.toNat = true → exec (.qld h f) s = .next (s.issueFault (slotNo h.slot) 5 0) ∧ exec (.qst h f) s = .next (s.issueFault (slotNo h.slot) 5 0)) ∧
      (x.windowBusy f.a.toNat = false → ea % (if f.sz = 0 then 128 else 64) ≠ 0 →
        exec (.qld h f) s = .next (s.issueFault (slotNo h.slot) 2 0) ∧ exec (.qst h f) s = .next (s.issueFault (slotNo h.slot) 2 0)) ∧
      (x.windowBusy f.a.toNat = false → ea % (if f.sz = 0 then 128 else 64) = 0 → 0x800000 < ea + 128 * per →
        exec (.qld h f) s = .next (s.issueFault (slotNo h.slot) 3 0) ∧ exec (.qst h f) s = .next (s.issueFault (slotNo h.slot) 3 0)) ∧
      (x.windowBusy f.a.toNat = false → ea % (if f.sz = 0 then 128 else 64) = 0 → ea + 128 * per ≤ 0x800000 →
        exec (.qld h f) s = .next (s.put ((y.putCells h 32 32 ((List.range 128).map fun l => codeOut (128 * f.a.toNat + l) (f.sz != 0)
          (BitVec.ofNat 1024 (ofBytes (((x.load k.mem ea (128 * per)).drop (per * l)).take per))))).tick ea (128 * per))) ∧
        exec (.qst h f) s = .next (s.put { y with stores := y.stores ++ [⟨y.bn, y.bn + 32, h.slot, (List.range 128).flatMap fun l =>
          (bytesOf (if f.sz = 0 then (quireCode (k.cell (128 * f.a.toNat + l))).toNat else (k.cell (128 * f.a.toNat + l)).q.toNat % 2 ^ 32) per).zipIdx.map
            fun b => (ea + per * l + b.2, b.1), [], 0, []⟩] })))

/-- R240 to R244, R248, R249: the conversions, block scaling, packing and unpacking, the sparsity selection, and XDTH, at latency 3, or 4 under L3, and the packing and the selection at 4. R245 to R247: the permutations. Element `i` of the result is the source element that the instruction's map names, or zero bits where it names none; XSWZ moves and negates components. Where the rules leave a point open this follows the model's choices, log entries 25, 27, 30. -/
def Obligations.Reshape : Prop :=
  (∀ (s : State) (h : Hdr) (f : F3) (x y : Ctx) (ls : List Loc) (w n : Nat), Acts s h x → w = fmtWidth f.fmt.toNat → n = 4096 / w →
      exec (.xdth h f) s = .next (s.put (x.send h (if x.l3 then 4 else 3) .dph 31 (.now (f.sub.toNat % 32) 0))) ∧
      (Operands x [f.b] [f.a] h.t y ls → ∀ (ws p base : Nat) (es : List (Nat × Nat)), ws = fmtWidth f.d.toNat → p = f.sub.toNat / 16 →
        base = (if w ≤ ws then p * (4096 / ws) else 0) →
        es = ((if w ≤ ws then vElems ws (x.rvec f.b) else ((vElems ws (x.rvec f.b)).drop (p * n)).take n).zipIdx.map fun e => (base + e.2, e.1)).filter
          (fun e => (x.rk (f.sub.toNat % 16)).getLsbD (w * e.1 / 32)) →
        exec (.xcvt h f) s = .next (s.put (y.send h (if y.l3 then 4 else 3) (ls.headD .p) (elemsMask w (es.map Prod.fst))
          (.rnd w (es.map fun e => (e.1, (convert f.d.toNat f.fmt.toNat f.rnd.toNat f.s f.fi f.fo (e.1 % 32) e.2).1))
            (es.foldl (fun g e => g ||| (convert f.d.toNat f.fmt.toNat f.rnd.toNat f.s f.fi f.fo (e.1 % 32) e.2).2) 0))))) ∧
      (Operands x [f.b, f.c] [f.a] h.t y ls →
        exec (.xscl h f) s = .next (s.put (y.roundings x h f 3 4 ls ((vElems w (x.rvec f.b)).zipIdx.map fun e =>
          (⟨f.fmt.toNat, (mulV (decodeF f.fi f.fmt.toNat e.1) (decodeV f.d.toNat ((vElems 8 (x.rvec f.c)).getD (e.2 / 32) 0))).1, f.rnd.toNat, f.s, f.fo, e.2 % 32⟩,
            (mulV (decodeF f.fi f.fmt.toNat e.1) (decodeV f.d.toNat ((vElems 8 (x.rvec f.c)).getD (e.2 / 32) 0))).2 ||| snanFlag f.fmt.toNat e.1)))) ∧
        exec (.xunp h f) s = .next (s.put (y.send h (if y.l3 then 4 else 3) (ls.headD .p) (2 ^ 4096 - 1) (.rnd w ((List.range n).map fun i =>
          (i, ⟨f.fmt.toNat, blockValue ((vElems 16 (x.rvec f.c)).getD ((f.sub.toNat * n + i) / 32) 0) ((vElems 4 (x.rvec f.b)).getD (f.sub.toNat * n + i) 0),
            f.rnd.toNat, f.s, f.fo, i % 32⟩)) 0)))) ∧
      (Operands x [f.b] [f.a, f.d] h.t y ls →
        (∀ bs, bs = (chunks 32 (128 / w) (vElems w (x.rvec f.b))).map (fun b => packBlock (f.sub.toNat % 8) (b.map (decodeF f.fi f.fmt.toNat))) →
          exec (.xpack h f) s = .next (s.put ((y.send h 4 (ls.headD .p)
              (elemsMask 128 (range (f.sub.toNat / 8 * (128 / w)) (f.sub.toNat / 8 * (128 / w) + 128 / w)))
              (.now (ofElems 128 (bs.map fun b => ofElems 4 b.2.1) <<< (128 * (f.sub.toNat / 8 * (128 / w)))) (bs.foldl (fun g b => g ||| b.2.2) 0))).send h
            4 (ls.getD 1 .p) (elemsMask 16 (range (f.sub.toNat / 8 * (128 / w)) (f.sub.toNat / 8 * (128 / w) + 128 / w)))
            (.now (ofElems 16 (bs.map Prod.fst) <<< (16 * (f.sub.toNat / 8 * (128 / w)))) 0)))) ∧
        (∀ ks, ks = (chunks 4 (n / 4) (vElems w (x.rvec f.b))).map (fun g => (g, keepTwo (g.map (decodeV f.fmt.toNat)))) →
          exec (.xsps h f) s = .next (s.put ((y.send h 4 (ls.headD .p) ((2 ^ 2048 - 1) <<< (2048 * (f.sub.toNat / 16 % 2)))
              (.now (ofElems w (ks.flatMap fun e => [e.1.getD e.2.1 0, e.1.getD e.2.2 0]) <<< (2048 * (f.sub.toNat / 16 % 2))) 0)).send h
            4 (ls.getD 1 .p) ((2 ^ n - 1) <<< (n * (f.sub.toNat / 16 % 2)))
            (.now (ofElems 2 (ks.flatMap fun e => [e.2.1, e.2.2]) <<< (n * (f.sub.toNat / 16 % 2))) 0)))))) ∧
  (∀ (s : State) (h : Hdr) (f : F3) (x y : Ctx) (ls : List Loc) (w n g k hi : Nat) (as bs : List Nat), Acts s h x → w = fmtWidth f.fmt.toNat → n = 4096 / w →
      g = gOf f → k = kOf f → hi = hOf f → as = vElems w (x.rvec f.b) → bs = vElems w (x.rvec f.c) →
      (∀ (i : Instr) (reads : List (BitVec 7)) (src : Nat → Option Nat), (i, reads, src) ∈ [
          (Instr.xshuf h f, [f.b, f.c], fun e => as[bs.getD e 0]?),
          (.xrev h f, [f.b], fun e => as[e ^^^ (g - 1)]?),
          (.xrot h f, [f.b], fun e => as[(e + k) % n]?),
          (.xmrg h f, [f.b, f.c], fun e => if e + k < n then as[e + k]? else bs[e + k - n]?),
          (.xzip h f, [f.b, f.c], fun e => if n * ((e + hi * n) / g % 2) + g * ((e + hi * n) / (2 * g)) + (e + hi * n) % g < n
            then as[n * ((e + hi * n) / g % 2) + g * ((e + hi * n) / (2 * g)) + (e + hi * n) % g]?
            else bs[n * ((e + hi * n) / g % 2) + g * ((e + hi * n) / (2 * g)) + (e + hi * n) % g - n]?),
          (.xunz h f, [f.b, f.c], fun e => if 2 * g * (e / g) + hi * g + e % g < n then as[2 * g * (e / g) + hi * g + e % g]? else bs[2 * g * (e / g) + hi * g + e % g - n]?),
          (.xbc h f, [f.b], fun e => as[k * g + e % g]?),
          (.xcpr h f, [f.b], fun e => (((List.range n).filter (laneOn (x.rk (f.sub.toNat % 16)) w))[e]?).bind fun j => as[j]?),
          (.xexp h f, [f.b], fun e => if laneOn (x.rk (f.sub.toNat % 16)) w e then as[((List.range e).filter (laneOn (x.rk (f.sub.toNat % 16)) w)).length]? else none)] →
        Operands x reads [f.a] h.t y ls →
        exec i s = .next (s.put (y.send h (if y.l3 then 4 else 3) (ls.headD .p) (2 ^ 4096 - 1) (.now (ofElems w ((List.range n).map fun e => (src e).getD 0)) 0)))) ∧
      (∀ v, v = x.view (8 + f.d.toNat % 4) 0 → Operands x [f.b] [f.a] h.t y ls →
        (v.rank = 0 ∨ 6 < v.rank → exec (.xshufShape h f) s = .next (s.issueFault (slotNo h.slot) 4 0)) ∧
        (1 ≤ v.rank → v.rank ≤ 6 → exec (.xshufShape h f) s = .next (s.put (y.send h (if y.l3 then 4 else 3) (ls.headD .p) (2 ^ 4096 - 1)
          (.now (ofElems w ((List.range n).map fun e => ((shapeSrc v n e).bind fun j => as[j]?).getD 0)) 0))))) ∧
      (Operands x [f.b, f.c] [f.a] h.t y ls → ∀ (d : Nat) (nib : Nat → Nat) (rs : List (Nat × Flags)), d = 2 ^ (f.d.toNat % 4) →
        nib = (fun i => (x.rvec f.c).toNat % 2 ^ 32 / 16 ^ (i % d) % 16) →
        rs = (List.range n).map (fun i => if 8 ≤ nib i then negCode f.fi f.fmt.toNat (as.getD (i / d * d + nib i % 8 % d) 0) else (as.getD (i / d * d + nib i % 8 % d) 0, 0)) →
        exec (.xswz h f) s = .next (s.put (y.send h (if y.l3 then 4 else 3) (ls.headD .p) (2 ^ 4096 - 1)
          (.now (ofElems w (rs.map Prod.fst)) (rs.foldl (fun g r => g ||| r.2) 0))))))

/-- R252, R253: the transposer. TRCFG exchanges its register on W and for sht sets the buffer; TRW and TRCLR change a buffer eight bundles on, when TRANSPOSER_CHANGE_LANDS applies the next that is due; TRC reads columns and TRST the configuration. -/
def Obligations.Transposer : Prop :=
  (∀ (s : State) (h : Hdr) (f : F3) (x x' y : Ctx) (ls : List Loc) (c : TCfg) (w : Nat), Acts s h x →
    x' = (if f.w then x.exchange (if f.a.toNat < 4 then 12 + f.a.toNat else 4 + f.a.toNat) else x) →
    c = (if f.a.toNat = 0 then x.tcfg0 else x.tcfg1) → w = fmtWidth c.fmt →
    (4 ≤ f.a.toNat → exec (.trcfg h f) s = .next (s.put x')) ∧
    (∀ v r n, f.a.toNat < 4 → v = x'.view (12 + f.a.toNat) 0 → r = v.ext.getD 0 0 → n = v.ext.getD 1 0 →
      ((v.fmt = 5 ∨ r = 0 ∨ 32 < r ∨ n = 0 ∨ 32 < n) → exec (.trcfg h f) s = .next (s.issueFault (slotNo h.slot) 4 0)) ∧
      (v.fmt ≠ 5 → 1 ≤ r → r ≤ 32 → 1 ≤ n → n ≤ 32 → f.d.toNat % 2 = 0 → exec (.trcfg h f) s = .next (s.put { x' with tcfg0 := ⟨v.fmt, r, n⟩ })) ∧
      (v.fmt ≠ 5 → 1 ≤ r → r ≤ 32 → 1 ≤ n → n ≤ 32 → f.d.toNat % 2 = 1 → exec (.trcfg h f) s = .next (s.put { x' with tcfg1 := ⟨v.fmt, r, n⟩ }))) ∧
    (Operands x [f.b] [] false y ls → exec (.trw h f) s = .next (s.put { y with tchg := y.tchg ++ [⟨y.bn + 8, y.bn, f.a.toNat, false, w,
      ((vElems w (x.rvec f.b)).zipIdx.filter fun e => (x.rk (f.sub.toNat % 16)).getLsbD (w * e.2 / 32)).map fun e =>
        (32 * ((128 / w) * (f.d.toNat % 32 / (128 / w))) + e.2, e.1)⟩] })) ∧
    exec (.trclr h f) s = .next (s.put { x with tchg := x.tchg ++ [⟨x.bn + 8, x.bn, f.a.toNat, true, 8, []⟩] }) ∧
    (Operands x [] [f.b] h.t y ls →
      exec (.trc h f) s = .next (s.put (y.send h 3 (ls.headD .p) (2 ^ 4096 - 1) (.now (ofElems w ((List.range (4096 / w)).map fun i =>
        if i % 32 < c.rows ∧ (128 / w) * (f.d.toNat % 32 / (128 / w)) + i / 32 < c.cols
        then tElem x f.a.toNat w (32 * (i % 32) + ((128 / w) * (f.d.toNat % 32 / (128 / w)) + i / 32)) else 0)) 0))) ∧
      exec (.trst h f) s = .next (s.put (y.send h 2 (ls.headD .p) (2 ^ 32 - 1)
        (.now (c.fmt + 32 * c.rows + 2048 * c.cols + 2 ^ 17 * (if x.tchg.any (fun t => t.buf == f.a.toNat) then 1 else 0)) 0))))) ∧
  (∀ (s : State) (c : Nat) (x : Ctx) (t : TChange), s.ctx c = some x → x.tchg.find? (fun t => decide (t.due ≤ x.bn)) = some t →
    exec (.transposerChangeLands c) s = .next (s.setCtx c { t.apply x with tchg := dropOne t x.tchg }))

/-! ### The matrix engine -/

/-- R292 to R303: MSTEP takes its operands at issue and holds the array for its occupancy; MZERO clears a tile at issue + 2, MLDT loads one from 256 elements at issue + 16, MSTT stores one, visible at issue + 16; each faults in the order of R299. Where the rules leave a point open this follows the model's choices, log entries 30, 32. -/
def Obligations.TileInstructions : Prop :=
  ∀ (s : State) (h : Hdr) (f : F3) (x y : Ctx) (ls : List Loc) (k : Core) (t w n : Nat), Acts s h x → k = s.core s.cur → t = f.a.toNat →
    w = fmtWidth f.fmt.toNat → n = 32 * w →
    (x.tileBusy [t] = true → exec (.mzero h f) s = .next (s.issueFault (slotNo h.slot) 5 0)) ∧
    (x.tileBusy [t] = false → exec (.mzero h f) s = .next (s.put (x.putCells h 2 2 ((List.range 256).map fun i => codeOut (256 * t + i) (f.sub.getLsbD 5) 0)))) ∧
    (∀ ea, ea = (x.rvec f.b).toNat / 2 ^ (32 * f.d.toNat) % 2 ^ 32 → Operands x [f.b] [] false y ls →
      (x.tileBusy [t] = true → exec (.mldt h f) s = .next (s.issueFault (slotNo h.slot) 5 0) ∧ exec (.mstt h f) s = .next (s.issueFault (slotNo h.slot) 5 0)) ∧
      (x.tileBusy [t] = false → ea % 64 ≠ 0 → exec (.mldt h f) s = .next (s.issueFault (slotNo h.slot) 2 0) ∧ exec (.mstt h f) s = .next (s.issueFault (slotNo h.slot) 2 0)) ∧
      (x.tileBusy [t] = false → ea % 64 = 0 → 0x800000 < ea + n →
        exec (.mldt h f) s = .next (s.issueFault (slotNo h.slot) 3 0) ∧ exec (.mstt h f) s = .next (s.issueFault (slotNo h.slot) 3 0)) ∧
      (x.tileBusy [t] = false → ea % 64 = 0 → ea + n ≤ 0x800000 →
        exec (.mldt h f) s = .next (s.put ((y.putCells h 16 16 ((elemsOf w (ofBytes (x.load k.mem ea n)) 256).zipIdx.map fun e =>
          if f.sub.getLsbD 5 then f32Out (256 * t + e.2) none [decodeV f.fmt.toNat e.1] f.rnd.toNat f.s f.fo (e.2 % 32) (snanFlag f.fmt.toNat e.1)
          else quireOut (256 * t + e.2) 0 (decodeV f.fmt.toNat e.1) (snanFlag f.fmt.toNat e.1))).tick ea n)) ∧
        exec (.mstt h f) s = .next (s.put { y with stores := y.stores ++ [⟨y.bn, y.bn + 16, h.slot, [], (List.range 256).map fun i =>
          (ea + i * w / 8, w / 8, ⟨f.fmt.toNat, k.cellVal (256 * t + i), f.rnd.toNat, f.s, f.fo, i % 32⟩),
          k.cellFlags ((List.range 256).map (256 * t + ·)), []⟩] }))) ∧
    (∀ (sp hasX : Bool) (d : Nat) (reads : List (BitVec 7)), sp = f.sub.getLsbD 3 → hasX = (sp || f.fmt == 5) → d = tDim (x.rtab (f.sub.toNat % 4)) →
      reads = [f.b, f.c] ++ (if sp then [f.c + 1] else []) ++ (if hasX then [f.d] else []) → Operands x reads [] false y ls →
      (x.nests.any Nest.incomplete = true → exec (.mstep h f) s = .next (s.issueFault (slotNo h.slot) 20 0)) ∧
      (x.nests.any Nest.incomplete = false → x.bn < x.arrayFree → exec (.mstep h f) s = .next (s.issueFault (slotNo h.slot) 21 0)) ∧
      (x.nests.any Nest.incomplete = false → x.arrayFree ≤ x.bn → 16 < t + d → exec (.mstep h f) s = .next (s.issueFault (slotNo h.slot) 22 0)) ∧
      (x.nests.any Nest.incomplete = false → x.arrayFree ≤ x.bn → t + d ≤ 16 → d ≠ 1 → hasX = true → exec (.mstep h f) s = .next (s.issueFault (slotNo h.slot) 23 0)) ∧
      (x.nests.any Nest.incomplete = false → x.arrayFree ≤ x.bn → t + d ≤ 16 → (d = 1 ∨ hasX = false) →
        exec (.mstep h f) s = .next (s.put { y with
          arrayFree := y.bn + occupancy w d (f.sub.getLsbD 5)
          msteps := y.msteps ++ [⟨y.bn, t, { fmt := f.fmt.toNat, quire := f.sub.getLsbD 5, o := f.sub.getLsbD 4, sp, fi := f.fi, table := x.rtab (f.sub.toNat % 4)
                                             a := (x.rvec f.b).toNat, b := (x.rvec f.c).toNat + (if sp then (x.rvec (f.c + 1)).toNat <<< 4096 else 0)
                                             ax := if sp then (x.rvec f.d).toNat else (x.rvec f.d).toNat % 2 ^ 512
                                             bx := (x.rvec f.d).toNat >>> 512 % 2 ^ 512 }, y.pc⟩] })))

/-- R305, R313 to R315: MGO queues a nest, or faults while four are incomplete or its tag is in use; MWAIT waits for the nests it names; MSTAT stores the record of its tag's last issue; MABORT aborts an incomplete nest and touches no other. R306 to R311: a nest starts when those before it are complete, and faults where its checks fail; a K-step starts when both its slots are filled and the array is free; it retires with its cells written, its slots freed, and the nest done after its last one. Where the rules leave a point open this follows the model's choice, log entry 108. -/
def Obligations.Nests : Prop :=
  (∀ (s : State) (h : Hdr) (f : F3) (x y : Ctx) (ls : List Loc), Acts s h x →
      (4 ≤ (x.nests.filter Nest.incomplete).length → exec (.mgo h f) s = .next (s.issueFault (slotNo h.slot) 24 0)) ∧
      ((x.nests.filter Nest.incomplete).length < 4 → (∃ n ∈ x.nests, n.n = f.a.toNat ∧ n.incomplete = true) → exec (.mgo h f) s = .next (s.issueFault (slotNo h.slot) 25 0)) ∧
      (∀ x', x' = (if f.w then [0, 1, 2, 3].foldl Ctx.exchange x else x) → (x.nests.filter Nest.incomplete).length < 4 →
        (∀ n ∈ x.nests, n.n = f.a.toNat → n.incomplete = false) →
        exec (.mgo h f) s = .next (s.put { x' with nests := (x'.nests.filter fun m => m.n != f.a.toNat || m.cur.isSome) ++
          [{ n := f.a.toNat, state := .queued, cause := 0, q := f.sub.getLsbD 5, o := f.sub.getLsbD 4, sp := f.sub.getLsbD 3, z := f.sub.getLsbD 2, fi := f.fi
             table := x'.rtab (f.sub.toNat % 4), a := sideOf x' 0, b := sideOf x' 1, base := (x'.view 2 0).base % 16, tstr := (x'.view 2 0).str
             rank := (x'.view 3 0).rank, ext := (x'.view 3 0).ext, issued := x.bn, pc := x.pc, started := 0, done := 0, ha := 0, hb := 0
             freedA := 0, freedB := 0, nextAt := 0, cur := none }] })) ∧
      ((∃ n ∈ x.nests, (f.sub.getLsbD 0 = true ∨ n.n = f.a.toNat) ∧ n.incomplete = true) → exec (.mwait h f) s = .next s.hold) ∧
      ((∀ n ∈ x.nests, (f.sub.getLsbD 0 = true ∨ n.n = f.a.toNat) → n.incomplete = false) → exec (.mwait h f) s = .next (s.put x)) ∧
      exec (.mabort h f) s = .next (s.put { x with nests := x.nests.map fun n => if n.n = f.a.toNat ∧ n.incomplete = true then { n with state := .aborted } else n }) ∧
      (∀ ea, ea = (x.rvec f.b).toNat / 2 ^ (32 * f.d.toNat) % 2 ^ 32 → Operands x [f.b] [] false y ls →
        (ea % 16 ≠ 0 → exec (.mstat h f) s = .next (s.issueFault (slotNo h.slot) 2 0)) ∧
        (ea % 16 = 0 → 0x800000 < ea + 16 → exec (.mstat h f) s = .next (s.issueFault (slotNo h.slot) 3 0)) ∧
        (ea % 16 = 0 → ea + 16 ≤ 0x800000 → ∀ r, r = (match x.nests.reverse.find? (fun n => n.n == f.a.toNat) with
            | some n => n.state.code + 256 * n.cause + n.done * 2 ^ 64
            | none => 0) →
          exec (.mstat h f) s = .next (s.put { y with stores := y.stores ++ [⟨y.bn, y.bn + 4, h.slot, (bytesOf r 16).zipIdx.map fun b => (ea + b.2, b.1), [], 0, []⟩] })))) ∧
  (∀ (s : State) (c : Nat) (x : Ctx) (n : Nest), s.ctx c = some x → s.works x.part (unitMatrix c) = true →
      (x.nextNest = some n → x.nestReady n = true → n.check x.rings = none →
        exec (.mgoNestStart c) s = .next (s.setCtx c (x.setNest { n with
          state := .running, ha := (SMap.get Ring.zero x.rings n.a.ring).h, hb := (SMap.get Ring.zero x.rings n.b.ring).h, nextAt := s.cycle }.finish))) ∧
      (∀ code cause, x.nextNest = some n → x.nestReady n = true → n.check x.rings = some (code, cause) →
        exec (.mgoNestStart c) s = .next ((s.setCtx c (x.setNest { n with state := .faulted, cause := code })).engineFault x.part (unitMatrix c) cause.code n.n 0 0 x.job)) ∧
      (x.nests.find? (fun n => n.state == .running) = some n → n.cur = none → n.started < n.total → n.nextAt ≤ s.cycle →
        filled (SMap.get Ring.zero x.rings n.a.ring) n.ha (n.uA n.started).toNat = true →
        filled (SMap.get Ring.zero x.rings n.b.ring) n.hb (n.uB n.started).toNat = true →
        exec (.kstepStart c) s = .next (s.setCtx c (x.setNest { n with
          cur := some (nestOps (s.core c) x n n.started), started := n.started + 1, nextAt := s.cycle + occupancy n.w n.d n.q }))) ∧
      (x.nests.find? (fun n => n.state == .running) = some n → n.cur = none → n.started < n.total →
        (filled (SMap.get Ring.zero x.rings n.a.ring) n.ha (n.uA n.started).toNat && filled (SMap.get Ring.zero x.rings n.b.ring) n.hb (n.uB n.started).toNat) = false →
        exec (.kstepStart c) s = .next (if (x.freeNest n).rings = x.rings then s else s.setCtx c (x.freeNest n))) ∧
      (∀ o, x.nests.find? (fun n => n.cur.isSome) = some n → n.cur = some o → x.ctl.qctl % 2 = 0 → SMap.wf Ring.zero x.rings = true →
        ∃ t y m, exec (.kstepRetire c) s = .next t ∧ t.ctx c = some y ∧ y.nests = (x.setNest m).nests ∧ m.n = n.n ∧ m.issued = n.issued ∧ m.cur = none ∧ m.done = n.done + 1 ∧
          (n.state = .running → m.state = if n.total ≤ n.done + 1 then .done else .running) ∧
          (SMap.get Ring.zero y.rings n.b.ring).h = (n.hb + n.freed (SMap.get Ring.zero x.rings n.b.ring) n.hb n.uB (n.done + 1)) % 2 ^ 32 ∧
          (n.a.ring ≠ n.b.ring → (SMap.get Ring.zero y.rings n.a.ring).h = (n.ha + n.freed (SMap.get Ring.zero x.rings n.a.ring) n.ha n.uA (n.done + 1)) % 2 ^ 32) ∧
          (t.core c).cells = ((kStep (s.core c) o (n.z && !(List.range n.done).any fun j => n.tile j == n.tile n.done) (n.tile n.done).toNat).foldl
            (fun k w => settleCell k w.write) (s.core c)).cells))

/-! ### Streams and rings -/

/-- R255 to R257, R276: SBIND attaches a stream to a free port, after the checks of R256; SUNB leaves only writes already queued and slots already reserved, and where it leaves nothing of a stream with release cut short, its release is performed; SSYNC waits until the elements that entered before it are written. R256, R261, R262, R266, R268, R276: the engine's steps. An in stream's next entry arrives with its elements in order; a fill stream packs its elements into a slot, fills the rest of it with zeros and commits it; sent elements are performed; a drain stream frees a slot whose elements are written. R259, R261, R268: the bytes that out and drain streams write. An element of a byte or more goes to its address: into the scratchpad as it leaves, or as a write of its bytes in its line to the place that its translation names. An out stream sends the elements of its landed head entry in order, and a drain stream, where no slot store is on its way, those that the bytes of its ring slots hold. Where the rules leave a point open this follows the model's choices, log entries 36, 40, 97, 112, 125. -/
def Obligations.StreamInstructionsAndSteps : Prop :=
  (∀ (s : State) (h : Hdr) (f : F3) (x x' : Ctx) (v : View) (js : List Nat) (st : Stream), Acts s h x → f.b.toNat < x.streams.length →
      x' = (if f.w = true ∧ f.sub.getLsbD 2 = false then x.exchange (4 + f.a.toNat % 4) else x) →
      v = (if f.sub.getLsbD 2 then ⟨0, false, false, 0, 1, false, 0, 0, 0, [], [], 0⟩ else x'.view (4 + f.a.toNat % 4) (x'.rs f.c).toInt) →
      st = { mode := sModeOf f, view := v, scope := f.rnd.toNat, acq := f.ord.getLsbD 0, rel := f.ord.getLsbD 1, issued := x'.bn, pos := 0, sent := 0
             queue := [], count := 0, bound := true, slots := 0, last := none, shadow := [], inbox := [] } →
      js = (if f.sub.getLsbD 0 then List.range 8 else [f.b.toNat]) →
      ((x.stream f.b.toNat).isSome = true → exec (.sbind h f) s = .next (s.issueFault (slotNo h.slot) 14 0)) ∧
      (x.stream f.b.toNat = none → f.sub.getLsbD 2 = false → (v.rank = 0 ∨ 6 < v.rank ∨ v.b4Ok = false ∨ v.rb ≠ (sModeOf f == .fill || sModeOf f == .drain)) →
        exec (.sbind h f) s = .next (s.issueFault (slotNo h.slot) 4 0)) ∧
      (x.stream f.b.toNat = none → f.sub.getLsbD 2 = false → 1 ≤ v.rank → v.rank ≤ 6 → v.b4Ok = true → v.rb = (sModeOf f == .fill || sModeOf f == .drain) → v.aligned = false →
        exec (.sbind h f) s = .next (s.issueFault (slotNo h.slot) 2 0)) ∧
      (x.stream f.b.toNat = none → (f.sub.getLsbD 2 = true ∨ (1 ≤ v.rank ∧ v.rank ≤ 6 ∧ v.b4Ok = true ∧ v.rb = (sModeOf f == .fill || sModeOf f == .drain) ∧ v.aligned = true)) →
        exec (.sbind h f) s = .next (if f.ord.getLsbD 0
          then acquireView ((s.put (x'.setStream f.b.toNat (some st))).forget (.stream s.cur f.b.toNat)) s.cur f.rnd.toNat v
          else (s.put (x'.setStream f.b.toNat (some st))).forget (.stream s.cur f.b.toNat))) ∧
      ((∀ st, x.stream f.b.toNat = some st → st.bound = false) → exec (.sunb h f) s = .next (s.put x)) ∧
      (∀ st, x.stream f.b.toNat = some st → st.bound = true → exec (.sunb h f) s = .next (s.put
        (if st.cutShort x.rings then { x.setStream f.b.toNat (st.atEnd x.rings) with relTime := SMap.put 0 x.relTime st.scope s.mtime }
         else x.setStream f.b.toNat (st.atEnd x.rings)))) ∧
      ((∃ j ∈ js, ∃ st, x.stream j = some st ∧ st.bound = true ∧ st.owes x.bn (f.ord.getLsbD 1 || !st.view.global) = true) → exec (.ssync h f) s = .next s.hold) ∧
      ((∀ j ∈ js, ∀ st, x.stream j = some st → st.bound = true → st.owes x.bn (f.ord.getLsbD 1 || !st.view.global) = false) →
        exec (.ssync h f) s = .next (if f.ord.getLsbD 1 then s.released s.cur f.rnd.toNat else s))) ∧
  (∀ (s : State) (c j : Nat) (x : Ctx) (st : Stream) (r : Ring), s.ctx c = some x → x.stream j = some st → r = x.ring st.view.ring →
      streamWorks s c j x.part = true →
      (∀ es, st.mode = .inp → st.want 1 ≠ [] → allPresent ((st.want 1).map (streamElem s c j x st)) = some es →
        ∃ t, exec (.portEntryArrival c j) s = .next t ∧ t.ctx c = some { x.setStream j (some { st with
          queue := st.queue ++ [⟨st.count + st.queue.length, x.bn, BitVec.ofNat 4096 (ofElems st.w es), true, x.bn⟩], pos := st.pos + (st.want 1).length, inbox := [] }) with free := x.free + 1 }) ∧
      (∀ es, st.mode = .fill → st.filling r.slot = true → ringRoleOk x st = true → r.resv ≠ 0 → st.bound = true → st.rel = false →
        allPresent ((st.want r.slot).map (streamElem s c j x st)) = some es → SMap.wf Ring.zero x.rings = true → j < x.streams.length →
        ∃ t y z, exec (.ringSlotCommit c j) s = .next t ∧ t.ctx c = some y ∧ y.stream j = some z ∧ z.slots = st.slots + 1 ∧
          (∀ bs, bs = ((packCodes st.w es).drop (st.slots * r.slot - (st.want r.slot).headD 0 * st.w / 8)).take r.slot →
            (t.core c).mem = ((s.core c).engineWrite (r.at_ r.t) (bs ++ List.replicate (r.slot - bs.length) 0)).mem) ∧
          (y.ring st.view.ring).t = (r.t + 1) % 2 ^ 32 ∧ (y.ring st.view.ring).resv = r.resv - 1 ∧ (y.ring st.view.ring).h = r.h) ∧
      ((st.mode = .out ∨ st.mode = .drain) → st.pos ≠ st.sent → (∀ q ∈ s.fabric, q.origin ≠ .stream c j) → st.bound = true → st.rel = false →
        ∃ t, exec (.streamWritePerformed c j) s = .next t ∧ t.ctx c = some (x.setStream j (some { st with pos := st.sent }))) ∧
      (st.mode = .drain → ringRoleOk x st = true → r.fill ≠ 0 → st.view.count ≠ 0 → st.bound = true → st.rel = false →
        st.slots < min (st.slotCount r.slot) (st.last.getD (st.slotCount r.slot)) → min st.view.count (((st.slots + 1) * r.slot * 8 + st.w - 1) / st.w) ≤ st.pos →
        exec (.ringSlotFree c j) s = .next (s.setCtx c ((x.setStream j (some { st with slots := st.slots + 1 })).setRing st.view.ring { r with h := (r.h + 1) % 2 ^ 32 })))) ∧
  (∀ (s : State) (c j : Nat) (x : Ctx) (st : Stream) (r : Ring), s.ctx c = some x → x.stream j = some st → r = x.ring st.view.ring → 8 ≤ st.w →
      (∀ i code, st.view.global = false → st.view.addr i + st.w / 8 ≤ 0x800000 → Memory.wf (s.core c).mem = true →
        ∃ t, sendStream s c j x st [(i, code)] = some (t, 1, 1) ∧ SMap.read (t.core c).mem (st.view.addr i) (st.w / 8) = bytesOf code (st.w / 8)) ∧
      (∀ i code s1 g a, st.view.global = true → a = st.view.addr i % 2 ^ 64 → a % 64 + st.w / 8 ≤ 64 →
        askAll s (.stream c j) (dieOf c) x.part st.view (2 ^ 64) [i] = (s1, none) → peekReach s1 (.stream c j) (dieOf c) x.part .write false a = .ok g →
        ∃ t q, sendStream s c j x st [(i, code)] = some (t, 1, 0) ∧ t.fabric = s1.fabric ++ [q] ∧ q.dest = g.tgt.dest ∧ q.origin = .stream c j ∧
          q.body = .write ((bytesOf code (st.w / 8)).zipIdx.map fun e => (g.tgt.addr + e.2, e.1, 0xFF#8)) 1 (s1.mustHold x.part g.tgt g.irrev)) ∧
      (∀ e q n es t m d, st.mode = .out → st.queue = e :: q → e.landed = true → x.heldBack e.born = false → streamWorks s c j x.part = true → s.fabric = [] →
        n = 4096 / st.w → es = ((range (e.id * n) (min st.view.count (e.id * n + n))).zip (elemsOf st.w e.data.toNat n)).drop (st.sent - e.id * n) →
        sendStream s c j x st es = some (t, m, d) → (streamTurn c s j).fabric = t.fabric ∧ ((streamTurn c s j).core c).mem = (t.core c).mem) ∧
      (∀ es t m d, st.mode = .drain → st.bound = true → ringRoleOk x st = true → st.pos = st.sent → r.slot ≠ 0 → x.stores = [] →
        st.sent < min (st.slotEnd r.slot st.slots) ((st.slots + r.fill) * r.slot * 8 / st.w) → x.heldBack (max st.issued (r.advancedAt r.h)) = false →
        es = (range st.sent (min (st.slotEnd r.slot st.slots) ((st.slots + r.fill) * r.slot * 8 / st.w))).map (fun i => (i, ofBytes ((List.range (st.w / 8)).map fun b =>
          SMap.get 0 (s.core c).mem (r.at_ (r.h + (i * st.w / 8 + b) / r.slot - st.slots) + (i * st.w / 8 + b) % r.slot)))) →
        sendStream s c j x st es = some (t, m, d) → ∃ u, sendDrain s c j x st = some u ∧ u.fabric = t.fabric ∧ (u.core c).mem = (t.core c).mem))

/-- R263 to R265: GINIT sets up a ring after its four checks; GWF and GWE wait for full or empty slots, GADVH and GADVT move a pointer that software owns; a ring not set up is RING_MISUSE and a busy one RING_BUSY; GSTAT reads the counts or the pointers. R269 to R271: SPUSHC stores the enabled lanes as a conditional ring's new records, and faults where they do not fit; SPOPC moves up to 128 records into one port entry and counts them; SBAL joins and makes its ring busy. Where the rules leave a point open this follows the model's choice, log entry 126. -/
def Obligations.RingInstructions : Prop :=
  (∀ (s : State) (h : Hdr) (f : F3) (x : Ctx) (r : Ring) (n b c : Nat), Acts s h x → r = x.ring f.a.toNat →
      n = (if f.sub.getLsbD 0 then (f.b ++ f.c ++ f.d).toNat else (x.rs f.b).toNat) → b = (x.rs f.b).toNat → c = (x.rs f.c).toNat →
      (ringCfgOk c = false → exec (.ginit h f) s = .next (s.issueFault (slotNo h.slot) 17 0)) ∧
      (ringCfgOk c = true → b % 32 ≠ 0 → exec (.ginit h f) s = .next (s.issueFault (slotNo h.slot) 2 0)) ∧
      (ringCfgOk c = true → b % 32 = 0 → 0x800000 < b + c % 2 ^ 17 * (c / 2 ^ 20 % 2 ^ 20) → exec (.ginit h f) s = .next (s.issueFault (slotNo h.slot) 3 0)) ∧
      (ringCfgOk c = true → b % 32 = 0 → b + c % 2 ^ 17 * (c / 2 ^ 20 % 2 ^ 20) ≤ 0x800000 → ringInUse s s.cur x f.a.toNat = true →
        exec (.ginit h f) s = .next (s.issueFault (slotNo h.slot) 19 0)) ∧
      (ringCfgOk c = true → b % 32 = 0 → b + c % 2 ^ 17 * (c / 2 ^ 20 % 2 ^ 20) ≤ 0x800000 → ringInUse s s.cur x f.a.toNat = false →
        exec (.ginit h f) s = .next (s.put ((x.leaveRing f.a.toNat).setRing f.a.toNat
          { init := true, base := b, n := c % 2 ^ 17, slot := c / 2 ^ 20 % 2 ^ 20, prod := c / 2 ^ 40 % 16
            cons := c / 2 ^ 44 % 16, cond := c.testBit 48, h := 0, t := 0, resv := 0, busy := false, advs := [] }))) ∧
      (∀ i ∈ [Instr.gwf h f, .gwe h f, .gadvh h f, .gadvt h f], (r.init = false → exec i s = .next (s.issueFault (slotNo h.slot) 18 0)) ∧
        (r.init = true → r.busy = true → exec i s = .next (s.issueFault (slotNo h.slot) 19 0))) ∧
      (r.init = true → r.busy = false →
        (r.n < n → exec (.gwf h f) s = .next (s.issueFault (slotNo h.slot) 18 0) ∧ exec (.gwe h f) s = .next (s.issueFault (slotNo h.slot) 18 0)) ∧
        (n ≤ r.n → n ≤ r.fill → exec (.gwf h f) s = .next (s.put x)) ∧ (n ≤ r.n → r.fill < n → exec (.gwf h f) s = .next s.hold) ∧
        (n ≤ r.n → n ≤ r.free → exec (.gwe h f) s = .next (s.put x)) ∧ (n ≤ r.n → r.free < n → exec (.gwe h f) s = .next s.hold) ∧
        ((r.cons ≠ 0 ∨ r.cond = true ∨ r.fill < n) → exec (.gadvh h f) s = .next (s.issueFault (slotNo h.slot) 18 0)) ∧
        (r.cons = 0 → r.cond = false → n ≤ r.fill → exec (.gadvh h f) s = .next (s.put (x.setRing f.a.toNat { r with h := (r.h + n) % 2 ^ 32 }))) ∧
        ((r.prod ≠ 0 ∨ r.cond = true ∨ r.free < n) → exec (.gadvt h f) s = .next (s.issueFault (slotNo h.slot) 18 0)) ∧
        (r.prod = 0 → r.cond = false → n ≤ r.free → exec (.gadvt h f) s = .next (s.put (x.setRing f.a.toNat { r with
          t := (r.t + n) % 2 ^ 32, advs := (x.bn, (r.t + n) % 2 ^ 32) :: r.advs.filter fun e =>
            decide (0 < (e.2 + 2 ^ 32 - r.h) % 2 ^ 32 ∧ (e.2 + 2 ^ 32 - r.h) % 2 ^ 32 ≤ 2 ^ 31) })))) ∧
      exec (.gstat h f) s = .next (s.put (x.putS h 2 f.b (BitVec.ofNat 64
        (if r.init = false then 0 else if f.sub.getLsbD 0 then r.h + r.t * 2 ^ 32 else r.fill + r.free * 2 ^ 32))))) ∧
  (∀ (s : State) (h : Hdr) (f : F3) (x y : Ctx) (ls : List Loc) (r : Ring) (lanes : List Nat), Acts s h x → r = x.ring f.a.toNat →
      lanes = ((List.range 128).filter fun l => (x.rk (f.sub.toNat % 16)).getLsbD l).map (fun l => (x.rvec f.b).toNat / 2 ^ (32 * l) % 2 ^ 32) →
      (Operands x [f.b] [] false y ls →
        ((r.init = false ∨ r.cond = false) → exec (.spushc h f) s = .next (s.issueFault (slotNo h.slot) 18 0)) ∧
        (r.init = true → r.cond = true → r.busy = true → exec (.spushc h f) s = .next (s.issueFault (slotNo h.slot) 19 0)) ∧
        (r.init = true → r.cond = true → r.busy = false → r.free < lanes.length → exec (.spushc h f) s = .next (s.issueFault (slotNo h.slot) 18 0)) ∧
        (r.init = true → r.cond = true → r.busy = false → lanes.length ≤ r.free → exec (.spushc h f) s = .next (s.put
          (({ y with stores := y.stores ++ [⟨y.bn, y.bn + 3, h.slot, lanes.zipIdx.flatMap fun e => (bytesOf e.1 4).zipIdx.map fun b =>
              (r.base + (r.t + e.2) % 2 ^ 32 % r.n * r.slot + b.2, b.1), [], 0, []⟩] } : Ctx).setRing f.a.toNat { r with t := (r.t + lanes.length) % 2 ^ 32 })))) ∧
      (x.stream f.c.toNat = none → exec (.spopc h f) s = .next (s.issueFault (slotNo h.slot) 16 0)) ∧
      (∀ st, x.stream f.c.toNat = some st →
        ((st.mode ≠ .cond ∨ st.bound = false) → exec (.spopc h f) s = .next (s.issueFault (slotNo h.slot) 16 0)) ∧
        (st.mode = .cond → st.bound = true → (r.init = false ∨ r.cond = false) → exec (.spopc h f) s = .next (s.issueFault (slotNo h.slot) 18 0)) ∧
        (st.mode = .cond → st.bound = true → r.init = true → r.cond = true → r.busy = true → exec (.spopc h f) s = .next (s.issueFault (slotNo h.slot) 19 0)) ∧
        (st.mode = .cond → st.bound = true → r.init = true → r.cond = true → r.busy = false → 4 ≤ st.queue.length → exec (.spopc h f) s = .next s.hold) ∧
        (st.mode = .cond → st.bound = true → r.init = true → r.cond = true → r.busy = false → st.queue.length < 4 →
          exec (.spopc h f) s = .next (s.put (((x.setRing f.a.toNat { r with h := (r.h + min r.fill 128) % 2 ^ 32 }).setStream f.c.toNat (some { st with
            count := st.count + 1
            queue := st.queue ++ [⟨st.count, x.bn, BitVec.ofNat 4096 ((List.range (min r.fill 128)).foldl (fun v i =>
              v ||| ofBytes (engineRead x (s.core s.cur).mem x.bn (r.at_ (r.h + i)) 4) <<< (32 * i)) 0), true, x.bn⟩] })).putS h 2 f.b (BitVec.ofNat 64 (min r.fill 128)))))) ∧
      (r.busy = true → exec (.sbal h f) s = .next (s.issueFault (slotNo h.slot) 19 0)) ∧
      (r.busy = false → exec (.sbal h f) s = .next (s.put { x.setRing f.a.toNat { r with busy := true } with sbal := x.sbal ++ [⟨f.a.toNat, f.d.toNat, false, false, x.bn⟩] })))

/-- R271, R272: an SBAL runs once every live task of the team has joined its ring and their writes are done: participant `q` of `m` is given the records from ⌊qn/m⌋ to ⌊(q+1)n/m⌋ of the `n` in rank order. Completing, every participant's ring takes its share, record by record into its slots from the head on, and is no longer busy; its landing count rises by 1, its SBAL is over, and its task has acquired every participant's release. -/
def Obligations.BalanceRuns : Prop :=
  (∀ (s : State) (p i r : Nat) (m : Team) (xs ps : List (Nat × Ctx)) (recs : List (List Byte)), p < s.parts.length → s.team p i = some m →
    xs = m.cores.filterMap (fun c => (s.ctx c).map fun x => (c, x)) → ps = xs.filter (fun e => (e.2.joins r).isSome) → ps ≠ [] →
    (List.range 32).find? (fun r => xs.any (fun e => (e.2.joins r).isSome) && xs.all fun e => e.2.state == .ended || (e.2.joins r).isSome) = some r →
    (∀ e ∈ ps, e.2.drained s (((e.2.joins r).map SBal.issued).getD 0) = true ∧ s.works p (unitStream e.1) = true ∧ (e.2.ring r).init = true ∧ (e.2.ring r).cond = true ∧
      (e.2.ring r).n = ((ps.map fun e => e.2.ring r).headD Ring.zero).n) →
    recs = ps.flatMap (fun e => ringRecords (s.core e.1) (e.2.ring r)) →
    ∃ t, exec (.sbalRun p i) s = .next t ∧ t.team p i = some { m with sbals := m.sbals ++ [SBalOp.mk r false (ps.zipIdx.map fun e =>
      { core := e.1.1, ln := ((e.1.2.joins r).map SBal.ln).getD 0, recs := ((recs.drop (e.2 * recs.length / ps.length)).take
        ((e.2 + 1) * recs.length / ps.length - e.2 * recs.length / ps.length)).flatten })] }) ∧
  (∀ (s : State) (p i : Nat) (m : Team) (o : SBalOp) (os : List SBalOp), p < s.parts.length → s.team p i = some m → m.sbals = o :: os →
    (o.shares.map Share.core).Nodup → (∀ h ∈ o.shares, s.works p (unitStream h.core) = true) →
    ∃ t n, exec (.sbalComplete p i) s = .next t ∧ t.team p i = some n ∧ n.sbals = os ∧
      ∀ h ∈ o.shares, ∀ x, s.ctx h.core = some x → SMap.wf Ring.zero x.rings = true → (x.ring o.ring).init = true →
        (t.core h.core).mem = ((List.range (h.recs.length / 4)).foldl (fun k i => k.engineWrite ((x.ring o.ring).at_ ((x.ring o.ring).h + i)) ((h.recs.drop (4 * i)).take 4))
          (s.core h.core)).mem ∧
        ∃ y, t.ctx h.core = some y ∧ (y.ring o.ring).busy = false ∧ (y.ring o.ring).t = ((x.ring o.ring).h + h.recs.length / 4) % 2 ^ 32 ∧
          (y.ring o.ring).h = (x.ring o.ring).h ∧ (y.sbal = x.sbal.filter fun b => b.ring != o.ring) ∧
          y.ln = SMap.put 0 x.ln h.ln ((SMap.get 0 x.ln h.ln + 1) % 2 ^ 32) ∧
          ∀ g ∈ o.shares, ∀ z, s.ctx g.core = some z → SMap.get 0 z.relTime 1 ≤ y.ctl.tfloor) ∧
  (∀ (k : Core) (r : Ring) (h i : Nat) (recs : List Byte), Memory.wf k.mem = true → i < recs.length / 4 →
    (∀ a b, a < b → b < recs.length / 4 → r.at_ (h + a) + 4 ≤ r.at_ (h + b) ∨ r.at_ (h + b) + 4 ≤ r.at_ (h + a)) →
    SMap.read ((List.range (recs.length / 4)).foldl (fun k i => k.engineWrite (r.at_ (h + i)) ((recs.drop (4 * i)).take 4)) k).mem (r.at_ (h + i)) 4 =
      (recs.drop (4 * i)).take 4)

/-! ### Copies and the landing engine -/

/-- R321 to R325: CPY's checks in order: COPY_BUSY, SHAPE_FIELD, COPY_SHAPE, misalignment and bounds of a side in the scratchpad; and the copy it starts under its tag; a copy of no bytes completes at issue. CPYW waits for its tags, and CPYQ reads a tag's byte count and busy bit. Where the rules leave a point open this follows the model's choices, log entries 37, 38, 114. -/
def Obligations.CopyInstructions : Prop :=
  ∀ (s : State) (h : Hdr) (f : F3) (x x1 y : Ctx) (a b : View) (n t si di : Nat) (rt : Bool) (c : Copy), Acts s h x → t = f.a.toNat →
    si = 4 + f.d.toNat % 4 → di = 4 + f.d.toNat / 4 % 4 → x1 = x.exchangeIf f.w si → y = (if si = di then x1 else x1.exchangeIf f.w di) →
    a = y.view si (y.rs f.b).toInt → b = y.view di (y.rs f.c).toInt → n = (if a.rb then b.count else a.count) → rt = f.d.getLsbD 5 →
    c = { id := s.nextId, die := dieOf s.cur, engine := (s.copyEngines x.part (dieOf s.cur)).headD 0, part := x.part, job := x.job
          by_ := .cpy s.cur x.team t (if f.d.getLsbD 6 then some f.sub.toNat else none) rt, scope := f.rnd.toNat, acq := f.ord.getLsbD 0, rel := f.ord.getLsbD 1
          issued := x.bn, w := a.w, n, unit := 1, src := a.side, dst := b.side, done := 0, upto := 0, bursts := []
          fault := none, slots := 0, rtWait := none, stopped := false
          shadow := if f.ord.getLsbD 0 then acquired s (s.core s.cur) y a n else [], since := none } →
    ((x.copyTag t).busy = true → exec (.cpy h f) s = .next (s.issueFault (slotNo h.slot) 26 0)) ∧
    ((x.copyTag t).busy = false → (a.shapeOk && b.shapeOk) = false → exec (.cpy h f) s = .next (s.issueFault (slotNo h.slot) 4 0)) ∧
    ((x.copyTag t).busy = false → (a.shapeOk && b.shapeOk) = true →
      ((a.rb && b.rb) = true ∨ a.w ≠ b.w ∨ (a.rb = false ∧ b.rb = false ∧ a.count ≠ b.count) ∨ 2 ^ 48 ≤ n * a.w / 8) → exec (.cpy h f) s = .next (s.issueFault (slotNo h.slot) 27 0)) ∧
    ((x.copyTag t).busy = false → (a.shapeOk && b.shapeOk) = true → (a.rb && b.rb) = false → a.w = b.w → (a.rb = true ∨ b.rb = true ∨ a.count = b.count) → n * a.w / 8 < 2 ^ 48 →
      ((a.global = false ∧ a.rb = false ∧ a.aligned = false) ∨ (b.global = false ∧ b.rb = false ∧ b.aligned = false)) → exec (.cpy h f) s = .next (s.issueFault (slotNo h.slot) 2 0)) ∧
    ((x.copyTag t).busy = false → (a.shapeOk && b.shapeOk) = true → (a.rb && b.rb) = false → a.w = b.w → (a.rb = true ∨ b.rb = true ∨ a.count = b.count) → n * a.w / 8 < 2 ^ 48 →
      ((a.global || a.rb || a.aligned) && (b.global || b.rb || b.aligned)) = true →
      ((a.global = false ∧ a.rb = false ∧ ∃ i < a.count, 0x800000 < a.addr i + max 1 (a.w / 8)) ∨ (b.global = false ∧ b.rb = false ∧ ∃ i < b.count, 0x800000 < b.addr i + max 1 (b.w / 8))) →
      exec (.cpy h f) s = .next (s.issueFault (slotNo h.slot) 3 0)) ∧
    ((x.copyTag t).busy = false → (a.shapeOk && b.shapeOk) = true → (a.rb && b.rb) = false → a.w = b.w → (a.rb = true ∨ b.rb = true ∨ a.count = b.count) → n * a.w / 8 < 2 ^ 48 →
      ((a.global || a.rb || a.aligned) && (b.global || b.rb || b.aligned)) = true → ((a.global || a.rb || a.inBounds) && (b.global || b.rb || b.inBounds)) = true → (0 < n ∨ rt = true) →
      ∃ u z, exec (.cpy h f) s = .next u ∧ u.copies = s.copies ++ [c] ∧ u.nextId = s.nextId + 1 ∧ u.ctx s.cur = some z ∧ z.copies = SMap.put ⟨false, 0⟩ x.copies t ⟨true, 0⟩ ∧
        z.shapeAct = y.shapeAct ∧ z.results = x.results) ∧
    ((x.copyTag t).busy = false → (a.shapeOk && b.shapeOk) = true → (a.rb && b.rb) = false → a.w = b.w → (a.rb = true ∨ b.rb = true ∨ a.count = b.count) →
      ((a.global || a.rb || a.aligned) && (b.global || b.rb || b.aligned)) = true → ((a.global || a.rb || a.inBounds) && (b.global || b.rb || b.inBounds)) = true → n = 0 → rt = false →
      ∃ u z, exec (.cpy h f) s = .next u ∧ u.copies = s.copies ∧ u.ctx s.cur = some z ∧ z.copies = SMap.put ⟨false, 0⟩ x.copies t ⟨false, 0⟩) ∧
    (∀ ts, ts = (if f.sub.getLsbD 0 then List.range 16 else [t]) →
      ((∀ i ∈ ts, (x.copyTag i).busy = false) → exec (.cpyw h f) s = .next (s.put x)) ∧ ((∃ i ∈ ts, (x.copyTag i).busy = true) → exec (.cpyw h f) s = .next s.hold)) ∧
    ((x.copyTag t).busy = false → exec (.cpyq h f) s = .next (s.put (x.putS h 2 f.b (BitVec.ofNat 64 (x.copyTag t).bytes)))) ∧
    ((x.copyTag t).busy = true → exec (.cpyq h f) s = .next (s.put (x.putS h 2 f.b (BitVec.ofNat 64 (((s.tagged s.cur t).map fun k => k.bytes s).getD 0 + 2 ^ 63)))))

/-- R318, R323, R330, R364: a gather packet brings the codes of its elements to its burst; a burst that is performed completes its elements and frees its engine, and a CPY whose last byte is performed completes: its count is raised, its tag holds its bytes and is no longer busy, and the copy is gone; a refused remote count is tried again 256 cycles later, and at the fabric timeout the copy faults. A burst reads the codes of its elements, where every place is translated and open, and writes them in order: an element of a byte or more that comes from the scratchpad or from a home is the number that its bytes hold there, and goes to its bytes in the scratchpad, or as a write to the place that its translation names. Where the rules leave a point open this follows the model's choices, log entries 38, 91, 113. -/
def Obligations.CopyEvents : Prop :=
  (∀ (s : State) (k t i : Nat) (c : Copy) (b : Burst) (v : View) (g : Nat × List (Nat × Nat)), s.copies[k]? = some c →
    c.bursts.find? (fun b => b.gather.any fun g => g.1 == t) = some b → b.gather.findIdx? (fun g => g.1 == t) = some i →
    b.gather[i]? = some g → c.src = .view v → homeWorks s c.part t = true →
    (∀ o e, c.core = some o → e ∈ g.2 → ownWriteIn s.fabric o (.home t) (e.2 / 64) = false ∧ ownWriteIn s.fabric o (.home t) ((e.2 + max 1 (v.w / 8) - 1) / 64) = false) →
    ((∀ e ∈ g.2, ∀ j < max 1 (v.w / 8), s.converting (e.2 + j) = false) → exec (.gatherPacket k t) s = .next (readsFor (s.onCopy c.id fun d => d.onBurst b fun e => { e with
      gather := dropAt e.gather i, got := e.got ++ g.2.map fun e => (e.1, cutCode v.w (v.nib e.1) (s.readMem e.2 (max 1 (v.w / 8)))) }) c)) ∧
    (∀ e, g.2 = [e] → (∃ j < max 1 (v.w / 8), s.converting (e.2 + j) = true) → exec (.gatherPacket k t) s = .next ((readsFor (s.onCopy c.id fun d => d.onBurst b fun e =>
      { e with gather := dropAt e.gather i }) c).meetAt c.id (unitStack t) e.1 Cause.convertBusy.code (v.addr e.1 % c.modulus)))) ∧
  (∀ (s : State) (k : Nat) (c : Copy), s.copies[k]? = some c → c.bursts = [] → copyFree s c = true → c.rtWait = none → s.works c.part (unitCopy c.die c.engine) = true → c.done = c.n →
    ∀ co tm tag ln, c.by_ = .cpy co tm tag ln false → exec (.copyBurstDone k) s = .next (finishCpy s c co tag ln co)) ∧
  (∀ (s : State) (k : Nat) (c : Copy) (b : Burst), s.copies[k]? = some c → c.bursts = [b] → c.stopped = false → c.rtWait = none →
    s.works c.part (unitCopy c.die b.engine) = true → b.ended = false → b.pos = b.hi → b.hi < c.n → (∀ q ∈ s.fabric, q.origin ≠ .copy c.id) →
    c.ring = none → ∃ t, exec (.copyBurstDone k) s = .next t ∧ t.copies[k]? = some { c with done := b.hi, bursts := [] } ∧
      t.engFree = SMap.put 0 s.engFree (unitCopy c.die b.engine) s.cycle ∧ t.mem = s.mem ∧ t.fabric = s.fabric) ∧
  (∀ (s : State) (k since co tm tag : Nat) (ln : Option Nat) (d : Nat) (c : Copy), s.copies[k]? = some c → c.rtWait = some since → c.by_ = .cpy co tm tag ln true →
    copyFree s c = true → s.works c.part (unitCopy c.die c.engine) = true → rtCore s c = some d →
    (takesCount s c d = true → 256 ≤ s.cycle - since → exec (.copyRtIncrementRetry k) s = .next (finishCpy s c co tag ln d)) ∧
    (takesCount s c d = false → s.usCycles c.fto ≤ s.cycle - since → exec (.copyRtIncrementRetry k) s = .next (copyFault s c (unitCopy c.die c.engine) Cause.landAbsent.code 0))) ∧
  (∀ (s : State) (k : Copy) (c t : Nat) (ln : Option Nat) (d : Nat) (x : Ctx), SMap.wf Core.reset s.cores = true → s.ctx c = some x → SMap.wf ⟨false, 0⟩ x.copies = true →
    ∃ y, (finishCpy s k c t ln d).ctx c = some y ∧ SMap.get ⟨false, 0⟩ y.copies t = ⟨false, k.n * k.w / 8⟩ ∧ (finishCpy s k c t ln d).copies = s.copies.filter fun e => e.id != k.id) ∧
  (∀ (s s1 : State) (k : Copy) (b : Burst) (hi upto : Nat) (es : List (Nat × Nat)), hi = min b.hi k.limit → b.pos < hi → s.works k.part (unitCopy k.die b.engine) = true →
    askSides s k (range b.pos hi) = (s1, none) → burstBad s1 k (range b.pos hi) = none → b.begun = true → b.gather = [] → b.lo ≤ k.reach → upto = min hi (ringEnd s1 k) → b.pos < upto →
    copyMiss s1 k (range b.pos upto) = none → allPresent ((range b.pos upto).map fun i => (readElem s1 k b.got i).map fun c => (i, c)) = some es →
    burstTurn s k b = (readsFor (writeElems (reserveFor (copyFlits { s1 with free := s1.free + 1 } k (range b.pos upto)) k upto) k es) k).onCopy k.id fun k =>
      k.onBurst b fun b => { b with pos := upto }) ∧
  (∀ (s : State) (k : Copy) (v : View) (i : Nat), 8 ≤ v.w → v.addr i % k.modulus % 64 + v.w / 8 ≤ 64 →
    (∀ g h pa, k.src = .view v → v.global = true → peekReach s (.copy k.id) k.die k.part .read true (v.addr i % k.modulus) = .ok g → g.tgt = .home h pa → s.converting pa = false →
      (∀ o, k.core = some o → ownWriteIn s.fabric o (.home h) (pa / 64) = false) → readElem s k [] i = some (ofBytes (s.readMem pa (v.w / 8)))) ∧
    (∀ c x, k.src = .view v → v.global = false → v.addr i < 2 ^ 56 → k.core = some c → k.acq = false → s.ctx c = some x → x.stores = [] →
      readElem s k [] i = some (ofBytes (SMap.read (s.core c).mem (v.addr i) (v.w / 8)))) ∧
    (∀ c code, k.dst = .view v → v.global = false → k.core = some c → SMap.wf Core.reset s.cores = true → Memory.wf (s.core c).mem = true →
      SMap.read ((writeElems s k [(i, code)]).core c).mem (v.addr i) (v.w / 8) = bytesOf code (v.w / 8)) ∧
    (∀ code g, k.dst = .view v → v.global = true → peekReach s (.copy k.id) k.die k.part .write true (v.addr i % k.modulus) = .ok g → (∀ c a, g.tgt ≠ .core c a) →
      ∃ q, writeElems s k [(i, code)] = { s with fabric := s.fabric ++ [q] } ∧ q.origin = .copy k.id ∧ q.part = k.part ∧ q.dest = g.tgt.dest ∧ q.elem = i ∧
        q.body = .write ((bytesOf code (v.w / 8)).zipIdx.map fun e => (g.tgt.addr + e.2, e.1, 0xFF#8)) 1 (s.mustHold k.part g.tgt g.irrev)))

/-- R334, R335: LWAIT waits until a landing count reaches its operand, an immediate or bits 31:0 of a scalar; LSET sets a count, and its subtracting form takes the operand from it modulo 2^32. All see the count as the cycle began, and the increments of the cycle are applied after an LSET. R336, R341 to R353, R356, R129, R130, R441: a landing command takes the next tag and the end of the queue; with 256 entries in use it faults with LAND_FULL, and a misaligned address, a scratchpad operand out of bounds or a reserved operand bit faults instead. Where the rules leave a point open this follows the model's choice, log entry 42. -/
def Obligations.LandingCommands : Prop :=
  (∀ (s : State) (h : Hdr) (f : F3) (x : Ctx) (c v : Nat), Acts s h x → c = SMap.get 0 x.lnSeen f.a.toNat → v = (if f.sub.getLsbD 0 then (f.b ++ f.c ++ f.d).toNat else (x.rs f.b).toNat % 2 ^ 32) →
      ((f.b ++ f.c ++ f.d).toNat ≤ c → exec (.lwait h f) s = .next (s.put x)) ∧ (c < (f.b ++ f.c ++ f.d).toNat → exec (.lwait h f) s = .next s.hold) ∧
      ((x.rs f.b).toNat % 2 ^ 32 ≤ c → exec (.lwaitScalar h f) s = .next (s.put x)) ∧ (c < (x.rs f.b).toNat % 2 ^ 32 → exec (.lwaitScalar h f) s = .next s.hold) ∧
      exec (.lset h f) s = .next (s.put (x.setLn f.a.toNat v)) ∧
      (∃ w, exec (.lsetSub h f) s = .next (s.put (x.setLn f.a.toNat w)) ∧ w % 2 ^ 32 = (((c : Int) - v) % 2 ^ 32).toNat) ∧
      (∀ w n, SMap.wf 0 x.ln = true → SMap.wf 0 x.lnSeen = true → n = f.a.toNat → ∃ y, y = x.setLn n w ∧ SMap.get 0 y.lnSeen n = w % 2 ^ 32 ∧
        SMap.get 0 y.ln n = (w + (SMap.get 0 x.ln n + 2 ^ 32 - c)) % 2 ^ 32 ∧ ∀ m, m ≠ n → SMap.get 0 y.ln m = SMap.get 0 x.ln m ∧ SMap.get 0 y.lnSeen m = SMap.get 0 x.lnSeen m)) ∧
  (∀ (s : State) (h : Hdr) (f : F3) (x : Ctx) (b c d ln u : Nat), Acts s h x → b = (x.rs f.b).toNat → c = (x.rs f.c).toNat → d = (x.rs f.d).toNat → ln = f.a.toNat →
      u = (if f.sub.getLsbD 4 then 8 else 4) →
      ∀ (i : Instr) (op : LOp) (checks : List (Bool × Nat)), (i, op, checks) ∈ [
          (Instr.lput h f, .put ln b (c % 2 ^ 23) (c / 2 ^ 32) (if f.d.getLsbD 6 then some (f.d.toNat % 64) else none) none,
            [(targetOk b && sourceOk c, 29), ((b.testBit 53 || b % 8 == 0) && c % 8 == 0, 2),
             ((b.testBit 53 || decide (b % 2 ^ 23 + c / 2 ^ 32 ≤ 0x800000)) && decide (c % 2 ^ 23 + c / 2 ^ 32 ≤ 0x800000), 3)]),
          (.lputf h f, .put ln b (c % 2 ^ 23) (c / 2 ^ 32) none (some (d % 2 ^ 56, d / 2 ^ 56)),
            [(targetOk b && sourceOk c, 29), ((b.testBit 53 || b % 8 == 0) && c % 8 == 0 && d % 8 == 0, 2),
             ((b.testBit 53 || decide (b % 2 ^ 23 + c / 2 ^ 32 ≤ 0x800000)) && decide (c % 2 ^ 23 + c / 2 ^ 32 ≤ 0x800000), 3)]),
          (.lsig h f, .sig ln b, [(targetOk b && !b.testBit 53, 29)]),
          (.aop h f, .aop ln b (f.sub.toNat % 16) (f.sub.getLsbD 4) (x.rs f.c) (some d), [(b % u == 0 && d % u == 0, 2), (decide (d + u ≤ 0x800000), 3)]),
          (.aopn h f, .aop ln b (f.sub.toNat % 16) (f.sub.getLsbD 4) (x.rs f.c) none, [(b % u == 0, 2)]),
          (.acas h f, .acas ln b (f.sub.getLsbD 4) c, [(b % u == 0 && c % 8 == 0, 2), (decide (c + 24 ≤ 0x800000), 3)]),
          (.acasw h f, .acasw ln b (f.sub.toNat % 4 + 1) c, [(decide (b % 64 + 8 * (f.sub.toNat % 4 + 1) ≤ 64), 2), (b % 8 == 0 && c % 8 == 0, 2), (decide (c + 96 ≤ 0x800000), 3)]),
          (.aenq h f, .aenq ln b (x.rs f.c) d, [(b % 4096 == 0 && d % 8 == 0, 2), (decide (d + 8 ≤ 0x800000), 3)]),
          (.achase h f, .achase ln b (c % 64 + 1) (8 * (c / 64 % 256)) d, [(decide (c < 2 ^ 14), 29), (b % 8 == 0 && d % 8 == 0, 2), (decide (d + 16 ≤ 0x800000), 3)]),
          (.ared h f, .ared ln b f.fmt.toNat (x.rs f.c) d, [(decide (d < 65536), 29), (b % (fmtWidth f.fmt.toNat / 8) == 0, 2)]),
          (.aredFin h f, .aredFin ln b f.fmt.toNat (f.sub.toNat % 8) d, [(decide (d < 65536), 29), (b % (fmtWidth f.fmt.toNat / 8) == 0, 2)]),
          (.crossRel h f, .cross false true, []), (.crossAcq h f, .cross true false, []), (.crossAr h f, .cross true true, []),
          (.jraise h f, .jraise ln b (x.rs f.c) (x.ctl.jpa != 0 && b == x.ctl.jpa), [(b % 64 == 0, 2)]),
          (.nlaunch h f, .nlaunch ln b c, [(b % 128 == 0, 2), (decide (b + 128 ≤ 0x800000), 3)]),
          (.sealreq h f, .sealreq ln, [])] →
        (256 ≤ (x.lq.filter LCmd.counts).length → exec i s = .next (s.issueFault (slotNo h.slot) 28 0)) ∧
        ((x.lq.filter LCmd.counts).length < 256 → ∀ e, checks.find? (fun e => !e.1) = some e → exec i s = .next (s.issueFault (slotNo h.slot) e.2 0)) ∧
        ((x.lq.filter LCmd.counts).length < 256 → (∀ e ∈ checks, e.1 = true) →
          exec i s = .next (s.put { x with ltag := (x.ltag + 1) % 2 ^ 16
                                           lq := x.lq ++ [⟨x.ltag, x.bn, f.rnd.toNat, f.ord.getLsbD 1, op, none, false, false⟩] })))

/-- R129, R357, R358, R392, R460: JPOST, whose first execution names the context's JCB, and which faults with LAND_FULL with 256 entries in use; ALIASF, which takes no queue entry; FENCE, which waits for the commands before it and may store its record, and of system scope clears what it reports; and the invalidations, at most four at once, whose status address must be an aligned word of the scratchpad. R96, R457, R459, R460: TSR reads the later of module time and of TFLOOR without the acquires of its own cycle, at L = 2; TRIG leaves its record in the trace, and with SUB[0] fires a trigger. Where the rules leave a point open this follows the model's choices, log entries 42, 82. -/
def Obligations.FencesTimeAndTriggers : Prop :=
  (∀ (s : State) (h : Hdr) (f : F3) (x : Ctx) (b : Nat), Acts s h x → b = (x.rs f.b).toNat →
      (256 ≤ (x.lq.filter LCmd.counts).length → exec (.jpost h f) s = .next (s.issueFault (slotNo h.slot) 28 0)) ∧
      ((x.lq.filter LCmd.counts).length < 256 → b % 64 ≠ 0 → exec (.jpost h f) s = .next (s.issueFault (slotNo h.slot) 2 0)) ∧
      ((x.lq.filter LCmd.counts).length < 256 → b % 64 = 0 → exec (.jpost h f) s = .next (s.put { x with
        ltag := (x.ltag + 1) % 2 ^ 16, ctl := if x.ctl.jpa = 0 then { x.ctl with jpa := b } else x.ctl
        lq := x.lq ++ [⟨x.ltag, x.bn, f.rnd.toNat, f.ord.getLsbD 1, .jpost f.a.toNat b (x.rs f.c) (x.ctl.jpa != 0 && b != x.ctl.jpa), none, false, false⟩] })) ∧
      exec (.aliasf h f) s = .next (s.put { x with lq := x.lq ++ [⟨0, x.bn, 0, false, .alias_ (if f.sub.getLsbD 4 then none else some (f.sub.toNat % 16)), none, false, false⟩] }) ∧
      (f.sub.getLsbD 0 = true → b % 64 ≠ 0 → exec (.fence h f) s = .next (s.issueFault (slotNo h.slot) 2 0)) ∧
      (f.sub.getLsbD 0 = true → b % 64 = 0 → 0x800000 < b + 64 → exec (.fence h f) s = .next (s.issueFault (slotNo h.slot) 3 0)) ∧
      ((f.sub.getLsbD 0 = false ∨ (b % 64 = 0 ∧ b + 64 ≤ 0x800000)) →
        ((∃ q ∈ x.lq, q.counts = true ∧ (f.rnd = 4 ∨ q.away s x = false)) → exec (.fence h f) s = .next s.hold) ∧
        ((∀ q ∈ x.lq, q.counts = true → f.rnd ≠ 4 ∧ q.away s x = true) → f.sub.getLsbD 0 = false →
          exec (.fence h f) s = .next (s.put { x with lost := if f.rnd = 4 then [] else x.lost })) ∧
        ((∀ q ∈ x.lq, q.counts = true → f.rnd ≠ 4 ∧ q.away s x = true) → f.sub.getLsbD 0 = true →
          exec (.fence h f) s = .next (s.put { x with lost := if f.rnd = 4 then [] else x.lost, stores := x.stores ++
            [⟨x.bn, x.bn + 1, h.slot, (fenceRecord x (f.rnd == 4)).zipIdx.map fun e => (b + e.2, e.1), [], 0, []⟩] }))) ∧
      (∀ (i : Instr) (all : Bool) (len a : Nat), (i, all) ∈ [(Instr.vainv h f, false), (.vainvAll h f, true)] → len = (x.rs f.c).toNat → a = (x.rs f.d).toNat →
        (4 ≤ x.vainv → exec i s = .next (s.issueFault (slotNo h.slot) 30 0)) ∧
        (x.vainv < 4 → all = false → (2 ^ 56 ≤ b ∨ 2 ^ 56 < b + len) → exec i s = .next (s.issueFault (slotNo h.slot) 31 0)) ∧
        (x.vainv < 4 → (all = true ∨ (b < 2 ^ 56 ∧ b + len ≤ 2 ^ 56)) → f.sub.getLsbD 1 = true →
          (a % 8 ≠ 0 → exec i s = .next (s.issueFault (slotNo h.slot) 2 0)) ∧ (a % 8 = 0 → 0x800000 < a + 8 → exec i s = .next (s.issueFault (slotNo h.slot) 3 0))) ∧
        (x.vainv < 4 → (all = true ∨ (b < 2 ^ 56 ∧ b + len ≤ 2 ^ 56)) → (f.sub.getLsbD 1 = false ∨ (a % 8 = 0 ∧ a + 8 ≤ 0x800000)) →
          exec i s = .next { s.put { x with vainv := x.vainv + 1 } with invals := s.invals ++ [{
            part := x.part, by_ := some (s.cur, x.team, f.a.toNat, if f.sub.getLsbD 1 then some a else none), all := all, lo := b / 4096, hi := (b + len - 1) / 4096, empty := !all && len == 0,
            released := false, issued := x.bn, todo := (s.part x.part).dies, waiting := [], resets := [] }] }))) ∧
  (∀ (s : State) (h : Hdr) (f : F3) (x : Ctx), Acts s h x →
      exec (.tsr h f) s = .next (s.put (x.putS h 2 f.a (BitVec.ofNat 64 (max s.mtime x.ctl.floorNow)))) ∧
      (f.sub.getLsbD 0 = false → exec (.trig h f) s = .next (s.onTrace s.cur fun t => t.note 6 (s.mtime % 2 ^ 48) 7 f.d.toNat x.pc ((x.rs f.b).toNat % 2 ^ 32))) ∧
      (f.sub.getLsbD 0 = true → exec (.trig h f) s = .next (s.onTrace s.cur fun t =>
        (t.note 6 (s.mtime % 2 ^ 48) 7 f.d.toNat x.pc ((x.rs f.b).toNat % 2 ^ 32)).fire (s.mtime % 2 ^ 48) 0 x.pc)) ∧
      ((s.core s.cur).trace.on = false → ∀ n m, (s.core s.cur).trace.note n (s.mtime % 2 ^ 48) m f.d.toNat x.pc 0 = (s.core s.cur).trace))

/-- R128, R348 to R353, R367, R376: an operation that arrives at its home for the first time, at a line that is not being converted, is applied once there, and the home keeps its reply. Where the rules leave a point open this follows the model's choices, log entries 43, 44, 45, 46, 113. -/
def Obligations.HomeOperations : Prop :=
  ∀ (s t : State) (k h pa st : Nat) (q : Packet) (op : LOp), s.Arrives k q h → q.body = .op pa st op → q.dest = .home h → homeWorks s q.part h = true →
    ownWriteIn (s.fabric.take k) q.src q.dest (pa / 64) = false → (s.taken k).converting pa = false →
    (∀ a n, q.src < 512 → block s q a n = (s.core q.src).engineRead (issuedOf s q) a n) ∧
    (∀ l va o wide v ret old n, op = .aop l va o wide v ret → n = (if wide then 8 else 4) → applyAop (s.taken k) q.part q.unit pa o n v.toNat = some (t, old) →
      exec (.atomicApply k) s = .next (t.answers h q (if ret.isSome || q.src ≥ 512 then .ret (bytesOf old n) else .done)) ∧ old = homeWord s pa n ∧
      (o = 10 → t = s.taken k) ∧ (o ≠ 10 → (s.taken k).homeStore q.part q.unit pa (bytesOf (aopNew o (8 * n) old (v.toNat % 2 ^ (8 * n))) n) = some t)) ∧
    (∀ l va wide blk b old n, op = .acas l va wide blk → n = (if wide then 8 else 4) → b = block s q blk 16 →
      applyCas (s.taken k) q.part q.unit pa n (ofBytes (b.take 8)) (ofBytes (b.drop 8)) = some (t, old) →
      exec (.atomicApply k) s = .next (t.answers h q (.ret (bytesOf old 8))) ∧ old = homeWord s pa n ∧
      (old ≠ ofBytes (b.take 8) % 2 ^ (8 * n) → t = s.taken k) ∧
      (old = ofBytes (b.take 8) % 2 ^ (8 * n) → (s.taken k).homeStore q.part q.unit pa (bytesOf (ofBytes (b.drop 8)) n) = some t)) ∧
    (∀ l va n blk b old, op = .acasw l va n blk → b = block s q blk 64 →
      applyCasw (s.taken k) q.part q.unit pa n (b.take (8 * n)) ((b.drop 32).take (8 * n)) = some (t, old) →
      exec (.operationPacket k) s = .next (t.answers h q (.ret old)) ∧ (old ≠ b.take (8 * n) → t = s.taken k)) ∧
    (∀ l va v ret r, op = .aenq l va v ret → (s.taken k).converting (pa + 64 + 8 * homeWord (s.taken k) pa 8) = false → applyEnq (s.taken k) q.part q.unit pa v = some (t, r) →
      exec (.operationPacket k) s = .next (t.answers h q (.ret (bytesOf r 8))) ∧
      (homeWord s (pa + 8) 8 ≠ 0 → homeWord s (pa + 8) 8 ≤ 504 → homeWord s pa 8 < homeWord s (pa + 8) 8 → r = homeWord s pa 8)) ∧
    (∀ l va fmt v cell, op = .ared l va fmt v cell → crucibleOk (s.taken k) q.part st cell = true → crucibleAdd (s.taken k) q.part st fmt cell v = some t →
      exec (.crucibleAdd k) s = .next (t.answers h q .done)) ∧
    (∀ l va fmt mode cell, op = .aredFin l va fmt mode cell → crucibleOk (s.taken k) q.part st cell = true → crucibleFin (s.taken k) q.part q.unit st pa fmt mode cell = some t →
      exec (.crucibleFinalise k) s = .next (t.answers h q .done)) ∧
    (∀ l j n bad, op = .jraise l j n bad → applyRaise (s.taken k) q.part q.unit pa n = some (t, none) →
      exec (.jcbRaiseApply k) s = .next (t.answers h q .done) ∧ (homeWord s (pa + 16) 8).testBit 0 = false ∧ homeWord s pa 8 + n.toNat < 2 ^ 64) ∧
    (∀ l j n bad excess, (∀ p l, q.origin ≠ .log p l) → op = .jpost l j n bad → applyPost (s.taken k) q.part q.unit pa j n q.job 0 = some (t, excess) →
      exec (.jcbPostApply k) s = .next (t.answers h q (if excess then .excess 0x44 j h else .done)) ∧
      (excess = true ↔ homeWord s pa 8 < (homeWord s (pa + 8) 8 + n.toNat) % 2 ^ 64))

/-- R342 to R347, R354, R359, R371, R376, R377: each packet of a scratchpad put writes its bytes at the target, and the last one to come raises its count and is acknowledged, as the target keeps which have come; a signal raises its count; an acknowledgement or a reply completes its command; a chase goes on or ends; a request is sent again after 2^16 cycles, or 256 after a refusal; a release frees the table's entry; and at the fabric timeout a put or signal still refused faults with LAND_ABSENT, another request on this module is an uncorrectable error, and another module is counted lost. Where the rules leave a point open this follows the model's choices, log entries 39, 43, 91, 97, 113, 115. -/
def Obligations.TargetsAndReplies : Prop :=
  (∀ (s : State) (k c addr off lnT len i n : Nat) (bs : List Byte) (q : Packet) (old : Option PutIn) (got : List Nat),
    s.Arrives k q (10 + c) → q.dest = .core c → q.body = .put i n false addr off bs len lnT none → takesPuts s c q.part q.job = true →
    old = s.puts.find? (fun p => p.core == c && p.src == q.src && p.seq == q.seq) → (∀ p, old = some p → p.slot = none) → got = insertNat i ((old.map PutIn.got).getD []) →
    (got.length ≠ n → exec (.putPacketArrival k) s = .next { (s.taken k).setCore c ((s.core c).engineWrite (addr + off) bs) with
      puts := (s.puts.filter fun p => !(p.core == c && p.src == q.src && p.seq == q.seq)) ++ [⟨c, q.src, q.seq, got, none⟩] }) ∧
    (got.length = n → ∃ t, exec (.putPacketArrival k) s = .next t ∧ t.reqs = s.reqs ∧ t.puts = s.puts.filter (fun p => !(p.core == c && p.src == q.src && p.seq == q.seq)) ∧
      (t.core c).mem = SMap.write (s.core c).mem (addr + off) bs ∧ (∃ y x, s.ctx c = some x ∧ t.ctx c = some y ∧ y.ln = SMap.put 0 x.ln lnT ((SMap.get 0 x.ln lnT + 1) % 2 ^ 32) ∧
        y.seen = (match if q.src < 512 then s.ctx q.src else none with
          | some z => x.observes z q.time
          | none => x.note (SMap.get 0 q.time 4) fun sc => sc == 4).seen) ∧
      ((∀ b d, q.origin ≠ .berth b d) → t.fabric = dropAt s.fabric k ++ [{ q with dest := .core (q.src % 512), body := .reply .done, since := none, inside := false }]))) ∧
  (∀ (s : State) (k c l : Nat) (q : Packet), s.Arrives k q (10 + c) → q.dest = .core c → q.body = .sig l → takesPuts s c q.part q.job = true →
    exec (.lsigArrival k) s = .next ((observe (s.taken k) q c l).answers (10 + c) q .done)) ∧
  (∀ (s : State) (k c d : Nat) (q : Packet) (r : Reply) (x : Ctx) (req : Req) (e : LCmd), s.fabric[k]? = some q → q.dest = .core d → q.body = .reply r → c = q.src % 512 →
    s.ctx c = some x → s.reqs.find? (fun t => t.core == c && t.seq == q.seq) = some req → x.lq.find? (fun e => e.sent == some q.seq && e.counts) = some e →
    s.works x.part (unitLanding c) = true →
    (e.op.isPut = true → r = .done → exec (.putAck k) s = .next (completeCmd (dropReq (s.taken k) req) c e)) ∧
    (e.op.isPut = false → r = .done → exec (.atomicReply k) s = .next (completeCmd (dropReq (s.taken k) req) c e)) ∧
    (∀ bs a, e.op.isPut = false → r = .ret bs → retAt e.op = some a →
      exec (.atomicReply k) s = .next (completeCmd ((dropReq ((s.taken k).setCore c ((s.core c).engineWrite a bs)) req).onCtx c fun x => x.reads s.far) c e))) ∧
  (∀ (s : State) (c : Nat) (x : Ctx) (q : LCmd), s.ctx c = some x → ∃ y, (completeCmd s c q).ctx c = some y ∧ y.lq = x.lq.filter (fun r => !(r.tag == q.tag && r.counts)) ∧
    ∀ l, q.op.ln = some l → y.ln = SMap.put 0 x.ln l ((SMap.get 0 x.ln l + 1) % 2 ^ 32)) ∧
  (∀ (s : State) (k h pa : Nat) (q : Packet) (w : Walk), s.Arrives k q w.first → q.body = .chase w pa → q.dest = .home h → homeWorks s q.part h = true → s.converting pa = false →
    ownWriteIn (s.fabric.take k) q.src q.dest (pa / 64) = false →
    ((w.h ≠ 0 ∨ s.filter w.first q.src = none) → homeWord s pa 8 = 0 → exec (.achaseHop k) s = .next ((s.taken k).answers w.first q (walkReply { w with h := w.h + 1 } 0))) ∧
    (homeWord s pa 8 % 8 ≠ 0 → exec (.achaseHop k) s = .next ((s.taken k).answers w.first q (walkReply { w with h := w.h + 1 } 3))) ∧
    (∀ g h' a, homeWord s pa 8 ≠ 0 → homeWord s pa 8 % 8 = 0 → pointsHome s (if h < 8 then h else (s.part q.part).originDie) q.part (homeWord s pa 8) = true →
      reachNow s (if h < 8 then h else (s.part q.part).originDie) q.part .load ((homeWord s pa 8 + w.off) % 2 ^ 64) = .ok g →
      g.tgt = .home h' a → w.h + 1 ≠ w.limit → exec (.achaseHop k) s = .next { s with fabric := s.fabric.set k { q with
        dest := .home h', body := .chase { w with h := w.h + 1, p := homeWord s pa 8 } a } })) ∧
  (∀ (s : State) (k : Nat) (r : Req), s.reqs[k]? = some r → s.works r.part (unitLanding r.core) = true →
    ((r.retries + 1) * 2 ^ 16 ≤ s.cycle - r.cycle → exec (.endToEndRetry k) s = .next { s with fabric := s.fabric ++ r.packets, reqs := s.reqs.set k { r with retries := r.retries + 1 } }) ∧
    (∀ c, r.refused = some c → 256 ≤ s.cycle - c → exec (.refusalRetry k) s = .next { s with fabric := s.fabric ++ r.packets, reqs := s.reqs.set k { r with refused := none } }) ∧
    (∀ x e, s.ctx r.core = some x → x.lq.find? (fun e => e.sent == some r.seq && e.counts) = some e → s.usCycles r.fto ≤ s.cycle - r.cycle →
      (e.op.isPut = true → r.turned = true → exec (.fabricTimeout k) s = .next (cmdFault (giveUp s r) r.core x e (unitLanding r.core) Cause.landAbsent.code 0)) ∧
      ((e.op.isPut && r.turned) = false → r.module = s.modid → exec (.fabricTimeout k) s = .next (cmdFault (giveUp s r) r.core x e (unitLanding r.core) Cause.uncorrectable.code 0))) ∧
    (∀ x e, s.ctx r.core = some x → x.lq.find? (fun e => e.sent == some r.seq && e.counts) = some e → s.usCycles r.fto ≤ s.cycle - r.cycle → r.module ≠ s.modid →
      (e.op.isPut && r.turned) = false → s.reqs.filter (fun u => u.module == r.module) = [r] →
      ∃ t y, exec (.fabricTimeout k) s = .next t ∧ t.ctx r.core = some y ∧ y.ctl.lstat.testBit 2 = true ∧ r.module ∈ y.lost ∧ y.lq = x.lq.filter fun r => !(r.tag == e.tag && r.counts))) ∧
  (∀ (s : State) (k h : Nat) (q : Packet), s.fabric[k]? = some q → q.body = .release → q.dest = .home h → (∀ p ∈ s.fabric.take k, p.src ≠ q.src ∨ p.dest ≠ q.dest) →
    exec (.sourceRelease k) s = .next { s.taken k with filters := s.filters.filter fun e => !(e.at_ == h && e.src == q.src) })

/-! ### Landings, stalls and memory -/

/-- R29, R31, R61, R163, R184, R211, R219, R259, R13: RESULT_LANDING lands the result that comes first of those due: its bits in the register that it names and in no other, its flags in FSTAT; s0, s64 and k0 take nothing, p0 stays, and a transient result leaves every register alone. A CRW, an XDTH, an SHW and an ALOAD land in the control register, DPH, shadow field and structure table they name, and a result for an out port in its entry. CELL_LANDING lands the cell result that comes first: at its chain landing its chain values, at its full landing its cells and tags, and no other cell, with its flags in FSTAT and QSTAT; an overflow under QCTL.OVE waits for the boundary. R29, R30: what a reader sees of the landing of one result at bundle `x.bn`. Under the result's mask a transient one is read in that bundle and the two after it, and then the file's value shows through again; one that is not transient is read from then on, over every transient landing before it. Off the mask nothing changes. Scalars, vectors, predicates and lane masks are read so. R13: s0 and s64 read as zero, p0 as true and k0 as all ones. -/
def Obligations.LandingsLand : Prop :=
  ((∀ (s : State) (c : Nat) (x : Ctx) (r : Result), s.ctx c = some x → x.nextResult = some r → exec (.resultLanding c) s = .next (s.setCtx c x.landNext) ∧
      r ∈ x.results ∧ r.due ≤ x.bn ∧ ∀ q ∈ x.results, q.due ≤ x.bn → q.before r = false) ∧
    (∀ (s : State) (c : Nat) (x : Ctx) (r : CellResult), s.ctx c = some x → firstBy CellResult.before (x.cellRes.filter fun r => decide (r.at_ ≤ x.bn)) = some r →
      SMap.wf Cell.zero (s.core c).cells = true →
      (r ∈ x.cellRes ∧ r.at_ ≤ x.bn ∧ ∀ q ∈ x.cellRes, q.at_ ≤ x.bn → q.before r = false) ∧
      (r.chained = false → r.chain ≠ r.full → ∃ k, exec (.cellLanding c) s = .next (s.setCore c k) ∧ k.mem = (s.core c).mem ∧
        k.ctx = some { x with cellRes := x.cellRes.map fun q => if q.id = r.id then { q with chained := true } else q } ∧
        ∀ n, k.cell n = match r.writes.reverse.find? (fun w => w.cell == n) with
          | none => (s.core c).cell n
          | some w => { (s.core c).cell n with chain := w.val.chainVal r.id, chainF32 := w.f32 }) ∧
      ((r.chained = true ∨ r.chain = r.full) → ∃ k y, exec (.cellLanding c) s = .next (s.setCore c k) ∧ k.ctx = some y ∧ k.mem = (s.core c).mem ∧
        y.cellRes.length + 1 = x.cellRes.length ∧ y.ctl.qstat = x.ctl.qstat ||| r.qfl ∧
        y.ctl.fstat = r.writes.foldl (fun g w => g ||| (w.val.eval x.ctl.dph).2) x.ctl.fstat ||| r.fl ∧
        (r.ovf = none ∨ x.ctl.qctl % 2 = 0 → y.pend = x.pend) ∧
        (∀ n, r.ovf = some n → x.ctl.qctl % 2 = 1 → x.pend = none → y.pend = some (0x21, n / 128 + n % 128 * 256, r.pc)) ∧
        (∀ n, (∀ w ∈ r.writes, w.cell ≠ n) → k.cell n = (s.core c).cell n) ∧
        ∀ n w, r.writes.reverse.find? (fun w => w.cell == n) = some w → (k.cell n).q = (w.val.eval x.ctl.dph).1 ∧ (k.cell n).f32 = w.f32)) ∧
    (∀ (x : Ctx) (r : Result) (v : Nat) (fl : Flags), x.nextResult = some r → r.loc.early = false → r.val.eval ((x.ctl.dph + x.dphAdv) % 32) = (v, fl) →
      SMap.wf 0 x.s = true → SMap.wf 0 x.v = true → SMap.wf 0 x.k = true →
      x.landNext.ctl.fstat = x.ctl.fstat ||| fl ∧ x.landNext.results = dropOne r x.results ∧
      (r.t = true ∨ Ctx.discards r.loc = true → x.landNext.s = x.s ∧ x.landNext.v = x.v ∧ x.landNext.k = x.k ∧ x.landNext.p = x.p) ∧
      (∀ n, r.t = false → r.loc = .s n → n ≠ 0 → n ≠ 64 → SMap.get 0 x.landNext.s n = BitVec.ofNat 64 (merge (SMap.get 0 x.s n).toNat v r.mask) ∧
        (∀ m, m ≠ n → SMap.get 0 x.landNext.s m = SMap.get 0 x.s m) ∧ x.landNext.v = x.v ∧ x.landNext.k = x.k ∧ x.landNext.p = x.p) ∧
      (∀ n, r.t = false → r.loc = .v n → SMap.get 0 x.landNext.v n = BitVec.ofNat 4096 (merge (SMap.get 0 x.v n).toNat v r.mask) ∧
        (∀ m, m ≠ n → SMap.get 0 x.landNext.v m = SMap.get 0 x.v m) ∧ x.landNext.s = x.s ∧ x.landNext.k = x.k ∧ x.landNext.p = x.p) ∧
      (∀ n, r.t = false → r.loc = .k n → n ≠ 0 → SMap.get 0 x.landNext.k n = BitVec.ofNat 128 (merge (SMap.get 0 x.k n).toNat v r.mask) ∧
        (∀ m, m ≠ n → SMap.get 0 x.landNext.k m = SMap.get 0 x.k m) ∧ x.landNext.s = x.s ∧ x.landNext.v = x.v ∧ x.landNext.p = x.p) ∧
      (r.t = false → r.loc = .p → (∀ n, 0 < n → x.landNext.p.testBit n = if r.mask.testBit n then v.testBit n else x.p.testBit n) ∧
        x.landNext.p.testBit 0 = x.p.testBit 0 ∧ x.landNext.s = x.s ∧ x.landNext.v = x.v ∧ x.landNext.k = x.k) ∧
      (∀ j id st, r.t = false → r.loc = .port j id → x.stream j = some st → x.landNext.stream j = some { st with queue := st.queue.map fun e =>
        if e.id = id then { e with data := BitVec.ofNat 4096 (merge 0 v r.mask), landed := true, issued := x.bn } else e })) ∧
    (∀ (x : Ctx) (r : Result) (v : Nat) (fl : Flags), x.nextResult = some r → r.loc.early = true → r.t = false → r.val.eval x.ctl.dph = (v, fl) →
      SMap.wf 0 x.shapeShd = true → SMap.wf 0 x.tables = true →
      x.landNext.s = x.s ∧ x.landNext.v = x.v ∧ x.landNext.k = x.k ∧ x.landNext.p = x.p ∧ x.landNext.results = dropOne r x.results ∧
      (∀ n, r.loc = .ctl n → x.landNext.ctl = { x.ctl with fstat := x.ctl.fstat ||| fl }.write n v) ∧
      (r.loc = .dph → x.landNext.ctl = { x.ctl with fstat := x.ctl.fstat ||| fl, dph := v }) ∧
      (∀ i g, r.loc = .shape i g → x.landNext.ctl = { x.ctl with fstat := x.ctl.fstat ||| fl } ∧ SMap.get 0 x.landNext.shapeShd (16 * i + g) = BitVec.ofNat 64 v ∧
        ∀ m, m ≠ 16 * i + g → SMap.get 0 x.landNext.shapeShd m = SMap.get 0 x.shapeShd m) ∧
      (∀ n, r.loc = .table n → x.landNext.ctl = { x.ctl with fstat := x.ctl.fstat ||| fl } ∧ SMap.get 0 x.landNext.tables n = merge (SMap.get 0 x.tables n) v r.mask ∧
        ∀ m, m ≠ n → SMap.get 0 x.landNext.tables m = SMap.get 0 x.tables m))) ∧
  ((∀ (x : Ctx) (r : Result) (v b i : Nat) (fl : Flags), x.nextResult = some r → r.loc.early = false → r.val.eval ((x.ctl.dph + x.dphAdv) % 32) = (v, fl) →
      Ctx.discards r.loc = false → SMap.wf 0 x.s = true → SMap.wf 0 x.v = true → SMap.wf 0 x.k = true → (∀ j id, r.loc ≠ .port j id) →
      (r.mask.testBit i = true → r.t = true → x.bn ≤ b → b ≤ x.bn + 2 → ({ x.landNext with bn := b }.see r.loc).testBit i = v.testBit i) ∧
      (r.mask.testBit i = true → r.t = true → x.bn + 2 < b → ({ x.landNext with bn := b }.see r.loc).testBit i = (x.file r.loc).testBit i) ∧
      (r.mask.testBit i = true → r.t = false → (∀ n, r.loc = .s n → i < 64) → (∀ n, r.loc = .v n → i < 4096) → (∀ n, r.loc = .k n → i < 128) → (r.loc = .p → i ≠ 0) →
        ({ x.landNext with bn := b }.see r.loc).testBit i = v.testBit i) ∧
      (r.mask.testBit i = false → ({ x.landNext with bn := b }.see r.loc).testBit i = ({ x with bn := b }.see r.loc).testBit i) ∧
      (∀ l, l ≠ r.loc → ({ x.landNext with bn := b }.see l) = ({ x with bn := b }.see l))) ∧
    (∀ (x : Ctx) (n : BitVec 7), (physS x.ctl.rrb n.toNat ≠ 0 → physS x.ctl.rrb n.toNat ≠ 64 → x.rs n = BitVec.ofNat 64 (x.see (.s (physS x.ctl.rrb n.toNat)))) ∧
      (physP x.ctl.rrb n.toNat ≠ 0 → x.rp n = (x.see .p).testBit (physP x.ctl.rrb n.toNat)) ∧
      (x.port n = none → x.rvec n = BitVec.ofNat 4096 (x.see (.v (physV x.ctl.rrb n.toNat))))) ∧
    (∀ (x : Ctx) (n : Nat), n ≠ 0 → x.rk n = BitVec.ofNat 128 (x.see (.k n)))) ∧
  (∀ x : Ctx, x.rs 0 = 0 ∧ x.rs 64 = 0 ∧ x.rp 0 = true ∧ x.rk 0 = BitVec.allOnes 128)

/-- R32, R89, R356, R357: a held bundle that can issue now issues whole at STALL_END, as an RVW does once its OUT is clear; CROSS_PERFORMED takes the first crossing or ALIASF of the queue once every write before it is done, and an acquire drops the snapshot window. Where the rules leave a point open this follows the model's choices, log entries 19, 20, 101, 112. -/
def Obligations.StallsAndCrossings : Prop :=
  (∀ (s : State) (c hdr len : Nat) (x : Ctx) (is : List (Slot × Nat × Instr)) (t : Tally), s.ctx c = some x → x.state = .held → (s.part x.part).halt = none →
    fetch (landDue s c).1 c x = .ok hdr len is → runAll c (actOrder is) ⟨readied (landDue s c).1 c hdr len x is, none, none, none⟩ = .next t → t.stop = none → t.held = none →
    exec (.stallEnd c) s = .next (endBundle (noteIssue t.s c x t.note (landDue s c).2) c (x.pc + len))) ∧
  (∀ (s s1 : State) (c hdr w : Nat) (x y : Ctx) (h : Hdr) (f : FB), s.ctx c = some x → x.state = .held → (s.part x.part).halt = none →
    fetch (landDue s c).1 c x = .ok hdr 16 [(.b, w, .rvw h f)] → s1 = readied (landDue s c).1 c hdr 16 x [(.b, w, .rvw h f)] →
    s1.ctx c = some y → (y.guard h = false ∨ (y.rvTask (rvPointOf f)).out = false) →
    exec (.stallEnd c) s = .next (endBundle (noteIssue (if y.guard h then waitEnd s1 c (rvPointOf f) else s1) c x none (landDue s c).2) c (x.pc + 16))) ∧
  (∀ (s : State) (c : Nat) (x : Ctx), s.ctx c = some x → (x.state ≠ .held ∨ (s.part x.part).halt.isSome = true) → exec (.stallEnd c) s = .next s) ∧
  (∀ (s : State) (c : Nat) (x : Ctx) (before rest : List LCmd) (q : LCmd), s.ctx c = some x → splitCross [] x.lq = some (before, q, rest) → s.works x.part (unitLanding c) = true →
    (∀ acq rel, q.op = .cross acq rel → (rel = true → writesDone s c x q.issued before = true) → ∃ t y, exec (.crossPerformed c) s = .next t ∧ t.ctx c = some y ∧ y.lq = before ++ rest ∧
      (acq = true → (t.core c).window = [] ∧ y.ctl.tfloor = max x.ctl.tfloor (SMap.get 0 x.seen q.scope)) ∧ (acq = false → (t.core c).window = (s.core c).window) ∧
      (rel = true → y.relTime = SMap.put 0 x.relTime q.scope s.mtime) ∧ (rel = false → y.relTime = x.relTime)) ∧
    (∀ g, q.op = .alias_ g → writesDone s c x q.issued before = true → ((s.copiesOf c).any fun k => decide (k.issued < q.issued)) = false → ∃ t y, exec (.crossPerformed c) s = .next t ∧ t.ctx c = some y ∧ y.lq = before ++ rest ∧
      (t.core c).window = (s.core c).window.filter (fun l => match g with
        | none => false
        | some a => l.group % 16 != a)))

/-- R28 to R31: as it issues, a slot syllable changes no byte of memory or of any scratchpad, no cell, no register of any context, no structure table, no transposer buffer and no sticky flag; those change when results, cells and stores land. Outside the B and D slots it changes no control register either, and no other core. -/
def Obligations.IssueFrame : Prop :=
  ∀ (i : Instr) (s t : State) (c : Cls) (o : Nat) (h : Hdr) (f : Legal.Form), SMap.wf Core.reset s.cores = true → i.parts = some (c, o, h, f) → exec i s = .next t →
    s.SameData t ∧
    (c ≠ .b → c ≠ .d → (∀ n, n ≠ s.cur → t.core n = s.core n) ∧ ∀ x y, s.ctx s.cur = some x → t.ctx s.cur = some y → y.ctl = x.ctl)

/-- R14, R28, R31, R71, R427: every byte outside the bytes written reads as before, and the bytes written read as written: of a landing store in its scratchpad, of an engine's write in a scratchpad, of a store at the home of its line, and of a masked write, which changes only the bits of its masks. Where the rules leave a point open this follows the model's choice, log entry 50. -/
def Obligations.MemoryWrites : Prop :=
  (∀ (m : SMap Byte) (x : Ctx) (a : Nat), Memory.wf m = true → (∀ p ∈ duePending x, ∀ e ∈ p.all x.ctl.dph, e.1 ≠ a) →
    SMap.get 0 (commitStores m x).1 a = SMap.get 0 m a) ∧
  (∀ (m : SMap Byte) (x : Ctx) (p : PStore) (a : Nat) (bs : List Byte), Memory.wf m = true → duePending x = [p] → p.late = [] → p.dead = [] → p.bytes = bs.zipIdx.map (fun e => (a + e.2, e.1)) →
    SMap.read (commitStores m x).1 a bs.length = bs) ∧
  (∀ (k : Core) (a j : Nat) (bs : List Byte), Memory.wf k.mem = true → j < a ∨ a + bs.length ≤ j → SMap.get 0 (k.engineWrite a bs).mem j = SMap.get 0 k.mem j) ∧
  (∀ (k : Core) (a : Nat) (bs : List Byte), Memory.wf k.mem = true → SMap.read (k.engineWrite a bs).mem a bs.length = bs) ∧
  (∀ (s t : State) (p unit pa j : Nat) (bs : List Byte), Memory.wf s.mem = true → s.homeStore p unit pa bs = some t →
    (j < pa ∨ pa + bs.length ≤ j → SMap.get 0 t.mem j = SMap.get 0 s.mem j) ∧ SMap.read t.mem pa bs.length = bs ∧ t.cores = s.cores) ∧
  (∀ (m : SMap Byte) (a : Nat) (v k : Byte), Memory.wf m = true → SMap.get 0 (State.mergeBytes m [(a, v, k)]) a = (SMap.get 0 m a &&& ~~~k) ||| (v &&& k)) ∧
  (∀ (m : SMap Byte) (bs : List MByte) (j : Nat), Memory.wf m = true → (∀ b ∈ bs, b.1 ≠ j) → SMap.get 0 (State.mergeBytes m bs) j = SMap.get 0 m j)

/-- The invariant of the model's memory: a step keeps memory, the list of cores and every scratchpad in their canonical form, whatever state it starts from. Where the rules leave a point open this follows the model's choice, log entry 50. -/
def Obligations.StepKeepsInvariant : Prop := ∀ s t : State, s.Inv → step s = .next t → t.Inv

/-- Tables 3.3, 4.1, 14.1, 15.1, 16.1, 17.1, 18.2, 18.3, 19.3, 19.4 and 20.1, R425, R457, R465: what module reset leaves. Every control register reads its reset value: the word at offset `o` of the register space is the one of its table, and 0 where the table gives 0 or no register stands. No partition is enabled, no task is resident, bring-up stands in phase 0, every trace unit is off and every black box empty; no home logs, no write is held, and the model's invariant of memory holds. Where the rules leave a point open this follows the model's choices, log entries 7, 8, 9, 10. -/
def Obligations.ResetState : Prop :=
  State.reset.Inv ∧
  (∀ o, registerRead (mmioBase + o) State.reset = BitVec.ofNat 64 (
    if o = 0x500000 then 4 * 2 ^ 4 else if o = 0x500008 then 5000
    else if 0x500020 ≤ o ∧ o < 0x500060 ∧ o % 8 = 0 then 4096 * 2 ^ 32 else if 0x500060 ≤ o ∧ o < 0x500070 ∧ o % 8 = 0 then 8192 * 2 ^ 32
    else if 0x500100 ≤ o ∧ o < 0x500300 ∧ o % 0x20 = 0 then (o - 0x500100) / 0x20 else if 0x500100 ≤ o ∧ o < 0x500300 ∧ o % 0x20 = 0x10 then 1
    else if o = 0xB00008 then 2800 else if o = 0xB00010 then 2 ^ 64 - 1 else if o = 0xB00018 then 10000 else if o = 0xB00030 then 2 ^ 20 * 2 ^ 32
    else if o < 0x10000 ∧ o % 0x1000 = 0x10 then 0x400000 else if o < 0x10000 ∧ o % 0x1000 = 0x18 then 0x10000
    else if 0x400000 ≤ o ∧ o < 0x410000 ∧ o % 0x1000 = 0x10 then 16 * 2 ^ 32 else if 0x400000 ≤ o ∧ o < 0x410000 ∧ o % 0x1000 = 0x28 then 0x10000
    else if 0x600000 ≤ o ∧ o < 0x610000 ∧ o % 0x1000 = 0x10 then 0xE4E1C0 else 0)) ∧
  State.reset.mtime = 0 ∧ State.reset.mgmt.phase = 0 ∧ State.reset.mgmt.err = 0 ∧ State.reset.mgmt.busy = false ∧ State.reset.mgmt.meas = List.replicate 16 0 ∧
  State.reset.mgmt.nonce = [0, 0, 0, 0] ∧ State.reset.modid = 0 ∧ State.reset.msix = [] ∧ State.reset.mem = [] ∧ State.reset.parts.length = 16 ∧
  (∀ h < 10, State.reset.risers.getD h [] = []) ∧ (∀ l, SMap.get 0xFFFF State.reset.lmeta l = 0xFFFF) ∧ State.reset.hostHold = [] ∧
  (∀ p < 16, (State.reset.part p).en = false ∧ (State.reset.part p).halt = none ∧ (State.reset.part p).nests = [] ∧ (State.reset.part p).teams = [] ∧
    (State.reset.part p).graphs = [] ∧ (State.reset.part p).slots = [] ∧ (State.reset.part p).key = 0 ∧ (State.reset.part p).box.total = 0 ∧
    ∀ q < 16, (State.reset.part p).queue q = ⟨0, 0, false, false, 0, 0, 0, 0, 0, 0⟩) ∧
  (∀ c < 512, State.reset.ctx c = none ∧ (State.reset.core c).mem = [] ∧ (State.reset.core c).cells = [] ∧ (State.reset.core c).trace.on = false ∧
    (State.reset.core c).trace.armed = false ∧ (State.reset.core c).trace.fired = false ∧ (State.reset.core c).trace.frozen = false ∧ (State.reset.core c).trace.lost = 0) ∧
  (∀ k < 8, State.reset.stack k = ⟨0, 0, 0, 0, 0, 0, 0, 0, 0, 0, [], []⟩) ∧
  (∀ b < 16, (State.reset.berth b).kpend = List.replicate 8 0 ∧ (State.reset.berth b).hold = [] ∧ (State.reset.berth b).down = false)

/-! ### The module around the cores -/

/-- R101 to R104, R106, R130: a doorbell moves the tail of a host's queue where it is within R102, and stops the queue where it is not; a queue's configuration is set, with EN = 0 as well, and an illegal depth is refused; a waiting head gains a priority level after each 2^20 cycles, and moving on resets it; NLAUNCH_APPEND appends the record where the queue takes it, and answers 0, 1, 2 or 3. R106, R426, R432: a fence ends at once with status 0, which is a write of the dispatch engine to the packet's last eight bytes; a seal request asks for the seal of its own group and ends with 0, or with 2 for another group; a level switch takes the level that it asks for once every started record has retired, with status 0; a switch to D2 takes the lowest free aligned blocks of HBM4E and LPDDR-6 slots that overlap no other D2 partition's, with its declared latencies, and ends with status 1 and changes no level where LANE is 0, no block is free, or the module is not yet in full service. Where the rules leave a point open this follows the model's choices, log entries 66, 98. -/
def Obligations.QueueEvents : Prop :=
  ((∀ (s : State) (p q : Nat) (v : Word) (u : Queue), u = (s.part p).queue q →
      (u.tl = false → (v.toNat % 2 ^ 32 + 2 ^ 32 - u.head) % 2 ^ 32 ≤ 2 ^ u.log2n → (v.toNat % 2 ^ 32 + 2 ^ 32 - u.tail) % 2 ^ 32 ≤ (v.toNat % 2 ^ 32 + 2 ^ 32 - u.head) % 2 ^ 32 →
        exec (.qtailWrite p q v) s = .next (s.onPart p fun x => x.onQueue q fun _ => u.setTail (v.toNat % 2 ^ 32) s.cycle) ∧
        (u.setTail (v.toNat % 2 ^ 32) s.cycle).tail = v.toNat % 2 ^ 32) ∧
      (u.tl = false → (2 ^ u.log2n < (v.toNat % 2 ^ 32 + 2 ^ 32 - u.head) % 2 ^ 32 ∨ (v.toNat % 2 ^ 32 + 2 ^ 32 - u.head) % 2 ^ 32 < (v.toNat % 2 ^ 32 + 2 ^ 32 - u.tail) % 2 ^ 32) → exec (.qtailWrite p q v) s = .next (s.onPart p fun x => x.onQueue q fun _ => { u with qerr := 1, en := false })) ∧
      (u.tl = true → exec (.qtailWrite p q v) s = .next (s.onPart p fun x => x.onQueue q fun _ => { u with qerr := 2 }))) ∧
    (∀ (s : State) (p q : Nat) (v : Word) (u : Queue), u = (s.part p).queue q →
      (v.getLsbD 16 = true → 4 ≤ fld v 3 0 → fld v 3 0 ≤ 12 → exec (.qcfgWrite p q v) s = .next (s.onPart p fun x => x.onQueue q fun _ =>
        { u with tl := v.getLsbD 17, en := true, prio := fld v 10 8, log2n := fld v 3 0 })) ∧
      (v.getLsbD 16 = true → (fld v 3 0 < 4 ∨ 12 < fld v 3 0) → exec (.qcfgWrite p q v) s = .next (s.onPart p fun x => x.onQueue q fun _ =>
        { u with tl := v.getLsbD 17, en := false, prio := fld v 10 8, log2n := fld v 3 0, qerr := 3 })) ∧
      (v.getLsbD 16 = false → exec (.qcfgWrite p q v) s = .next (s.onPart p fun x => x.onQueue q fun _ =>
        { u with tl := v.getLsbD 17, en := false, prio := fld v 10 8, log2n := fld v 3 0 }))) ∧
    (∀ (s : State) (p q : Nat) (u : Queue), u = (s.part p).queue q → u.head ≠ u.tail → (s.part p).en = true → min 7 (u.prio + u.boost) < 7 →
      (u.boost + 1) * 2 ^ 20 ≤ s.cycle - u.since →
      exec (.queuePriorityAging p q) s = .next (s.onPart p fun x => x.onQueue q fun _ => { u with boost := u.boost + 1 })) ∧
    (∀ (s : State) (p q : Nat) (u : Queue), p < s.parts.length → SMap.wf Queue.reset (s.part p).queues = true → u = (s.part p).queue q →
      ((advance s p q).part p).queue q = { u with head := (u.head + 1) % 2 ^ 32, since := s.cycle, boost := 0 } ∧
      ∀ j, j ≠ q → ((advance s p q).part p).queue j = (s.part p).queue j) ∧
    (∀ (s : State) (k n : Nat) (bs : List Byte) (q : Packet) (u : Queue), s.Arrives k q 600 → q.body = .nlaunch n bs → q.dest = .dispatch →
      (s.part q.part).halt = none → u = (s.part q.part).queue n →
      (u.en = false → exec (.nlaunchAppend k) s = .next ((s.taken k).answers 600 q (.ret (bytesOf 2 8)))) ∧
      (u.en = true → u.tl = false → exec (.nlaunchAppend k) s = .next ((s.taken k).answers 600 q (.ret (bytesOf 3 8)))) ∧
      (u.en = true → u.tl = true → 2 ^ u.log2n ≤ (u.tail + 2 ^ 32 - u.head) % 2 ^ 32 →
        exec (.nlaunchAppend k) s = .next ((s.taken k).answers 600 q (.ret (bytesOf 1 8)))) ∧
      (∀ a t, u.en = true → u.tl = true → (u.tail + 2 ^ 32 - u.head) % 2 ^ 32 < 2 ^ u.log2n → (s.taken k).dram (u.base + u.tail % 2 ^ u.log2n * 128) = some a →
        (s.taken k).converting a = false → (s.taken k).converting (a + 64) = false → recordWrite (s.taken k) q.part (homeOf a) a bs = some t →
        exec (.nlaunchAppend k) s = .next ((t.onPart q.part fun x =>
          x.onQueue n fun u => u.setTail ((u.tail + 1) % 2 ^ 32) s.cycle).answers 600 q (.ret (bytesOf 0 8)))))) ∧
  ((∀ (s : State) (p q : Nat) (bs : List Byte) (u : Queue), s.HeadStarts p q 0x11 bs → u = (s.part p).queue q →
      exec (.queueFence p q) s = .next (packetStatus (advance s p q) p u u.head 0)) ∧
    (∀ (s : State) (p q : Nat) (bs : List Byte) (u : Queue), s.HeadStarts p q 0x12 bs → u = (s.part p).queue q →
      (field bs 8 4 = (s.part p).gid → exec (.sealRequestPacket p q) s = .next (packetStatus ((advance s p q).requestSeal p .plain) p u u.head 0)) ∧
      (field bs 8 4 ≠ (s.part p).gid → exec (.sealRequestPacket p q) s = .next (packetStatus (advance s p q) p u u.head 2))) ∧
    (∀ (s : State) (p i v a : Nat) (u : Queue), s.dram (u.recAt i + 120) = some a → ∃ k : Packet, packetStatus s p u i v = { s with fabric := s.fabric ++ [k] } ∧ k.part = p ∧
      k.dest = .home (homeOf a) ∧ k.body = .write ((bytesOf v 8).zipIdx.map fun e => (a + e.2, e.1, 0xFF#8)) 1 false) ∧
    (∀ (s : State) (p q : Nat) (bs : List Byte), s.HeadStarts p q 0x10 bs → exec (.levelSwitch p q) s = .next ((advance s p q).onPart p fun x =>
      { x with switch := some (field bs 8 1), state := 3, ctrls := x.ctrls ++ [⟨q, ((s.part p).queue q).head, 0x10, field bs 8 1⟩] })) ∧
    (∀ (s s1 : State) (p l : Nat) (c : Ctrl) (x : Part) (u : Queue), x = s.part p → x.switch = some l → (x.ctrls.find? fun c => c.kind == 0x10) = some c → u = x.queue c.queue →
      allQuiet s p = true → x.halt = none → s1 = (s.onPart p fun x => { x with switch := none, state := 1, ctrls := x.ctrls.filter fun d => d.kind != 0x10 }) →
      (l ≠ 2 → exec (.levelSwitchComplete p) s = .next (packetStatus ((s1.onPart p fun x => { x with level := l }).blackBox p 5 0 l) p u c.index 0)) ∧
      (l = 2 → x.level = 2 → exec (.levelSwitchComplete p) s = .next (packetStatus s1 p u c.index 0)) ∧
      (∀ hb lb, l = 2 → x.level ≠ 2 → x.lane ≠ 0 → 5 ≤ s.mgmt.phase → hbmBlock s p = some hb → lpBlock s p = some lb → exec (.levelSwitchComplete p) s =
        .next (packetStatus ((s1.onPart p fun x => { x with level := 2, hblk := hb, lblk := lb, dlat := declared x }).blackBox p 5 0 2) p u c.index 0)) ∧
      (l = 2 → x.level ≠ 2 → (x.lane = 0 ∨ s.mgmt.phase < 5 ∨ hbmBlock s p = none ∨ lpBlock s p = none) →
        exec (.levelSwitchComplete p) s = .next (packetStatus s1 p u c.index 1))) ∧
    (∀ (s : State) (p b n : Nat) (fits : Nat → Prop), n = 2 ^ (s.part p).hk → (∀ a, fits a ↔ a % n = 0 ∧ a + n ≤ 56 ∧ ∀ r < 16, r ≠ p → (s.part r).en = true → (s.part r).level = 2 →
        a + n ≤ (s.part r).hblk ∨ (s.part r).hblk + 2 ^ (s.part r).hk ≤ a) → (hbmBlock s p = some b ↔ fits b ∧ ∀ a < b, ¬fits a)) ∧
    (∀ (s : State) (p b n : Nat) (fits : Nat → Prop), n = 2 ^ (s.part p).lj → (∀ a, fits a ↔ a % n = 0 ∧ a + n ≤ 28 ∧ ∀ r < 16, r ≠ p → (s.part r).en = true → (s.part r).level = 2 →
        a + n ≤ (s.part r).lblk ∨ (s.part r).lblk + 2 ^ (s.part r).lj ≤ a) → (lpBlock s p = some b ↔ fits b ∧ ∀ a < b, ¬fits a)))

/-- R105, R109, R120, R329: a nest record starts an active nest at task index 0 with its queue's priority, or is rejected, with cause 2 where a field is out of range with cause 1 where no candidate rectangle holds a team, and with cause 3 where its M3 code does not translate; a copy record starts a copy of its views, or is rejected with cause 10; a graph-launch record starts its graph, whose nodes without predecessors are ready, or which fails with cause 6 where its fields are malformed, or at the first node that breaks Table 4.6 or 4.7. A fault of the read of an M3 image halts the partition. R107, R117, R122: RETIRE_LOG_WRITE sends the first log of its queue that no earlier record holds back, with the next number of D1 and D2 in its status record, and its post; and a SIGNAL node finishes once its write has been accepted. Where the rules leave a point open this follows the model's choices, log entries 15, 45, 62. -/
def Obligations.RecordsAndLogs : Prop :=
  ((∀ (s : State) (p q : Nat) (bs : List Byte) (u : Queue) (n : ANest), s.HeadStarts p q 1 bs → u = (s.part p).queue q →
      n = { id := s.nextId, recd := nestRec bs, addr := u.recAt u.head, prio := u.prio, src := ⟨q, u.head, none⟩, next := 0, logical := [], retired := 0
            first := none, failed := none, refused := none, boost := 0 } →
      ((nestRec bs).fieldsOk = false → exec (.nestRecordStart p q) s = .next (retireNests (endNest { advance s p q with nextId := s.nextId + 1 } p n 3 2 allOnes64) p)) ∧
      ((nestRec bs).fieldsOk = true → candidates (s.part p) (nestRec bs).tw (nestRec bs).th = [] →
        exec (.nestRecordStart p q) s = .next (retireNests (endNest { advance s p q with nextId := s.nextId + 1 } p n 3 1 allOnes64) p)) ∧
      (∀ code, (nestRec bs).fieldsOk = true → candidates (s.part p) (nestRec bs).tw (nestRec bs).th ≠ [] → (nestRec bs).m3 = true →
        readVa s p (nestRec bs).code (nestRec bs).clen = .ok code →
        exec (.nestRecordStart p q) s = .next (match (Config.m3 code).1 with
          | some off => retireNests (endNest { readFlits (advance s p q) p (nestRec bs).code (nestRec bs).clen with nextId := s.nextId + 1 } p n 3 3 off) p
          | none => retireNests ({ readFlits (advance s p q) p (nestRec bs).code (nestRec bs).clen with nextId := s.nextId + 1 }.onPart p fun x => { x with nests := x.nests ++ [n] }) p)) ∧
      (∀ c va, (nestRec bs).fieldsOk = true → candidates (s.part p) (nestRec bs).tw (nestRec bs).th ≠ [] → (nestRec bs).m3 = true →
        readVa s p (nestRec bs).code (nestRec bs).clen = .fault c va →
        exec (.nestRecordStart p q) s = .next (dispatchFault (s.onPart p fun x => { x with barred := none }) p c va q u.head (nestRec bs).job)) ∧
      ((nestRec bs).fieldsOk = true → candidates (s.part p) (nestRec bs).tw (nestRec bs).th ≠ [] → (nestRec bs).m3 = false → exec (.nestRecordStart p q) s =
        .next (retireNests ({ advance s p q with nextId := s.nextId + 1 }.onPart p fun x => { x with nests := x.nests ++ [n] }) p))) ∧
    (∀ (s : State) (p q esz : Nat) (bs : List Byte) (u : Queue), s.HeadStarts p q 3 bs → u = (s.part p).queue q → esz = 2 ^ bits (field bs 0 8) 9 8 →
      (field bs 8 8 % esz ≠ 0 ∨ field bs 16 8 % esz ≠ 0 → exec (.copyRecordStart p q) s =
        .next (endRecord (advance s p q) p ⟨q, u.head, none⟩ 3 10 0 allOnes64 (field bs 96 8) (field bs 88 8))) ∧
      (field bs 8 8 % esz = 0 → field bs 16 8 % esz = 0 → (∀ j < 6, sfield bs (40 + 8 * j) % (esz : Int) = 0) →
        ((List.range 3).map fun j => field bs (24 + 4 * j) 4).foldl (· * ·) 1 * esz < 2 ^ 48 →
        ∃ k : Copy, exec (.copyRecordStart p q) s = .next { advance s p q with copies := s.copies ++ [k], nextId := s.nextId + 1 } ∧
          k.part = p ∧ k.job = field bs 104 4 ∧ k.by_ = .record ⟨q, u.head, none⟩ (field bs 96 8) (field bs 88 8) ∧ k.acq = true ∧ k.rel = true ∧ k.done = 0 ∧ k.upto = 0 ∧
          k.n * k.w = ((List.range 3).map fun j => field bs (24 + 4 * j) 4).foldl (· * ·) 1 * (8 * esz) ∧
          ∃ a b, k.src = .view a ∧ k.dst = .view b ∧ a.base = field bs 8 8 ∧ b.base = field bs 16 8)) ∧
    (∀ (s : State) (p q n : Nat) (bs nodes : List Byte) (g : Graph), s.HeadStarts p q 2 bs → n = field bs 16 2 →
      g = newGraph s ⟨q, ((s.part p).queue q).head, none⟩ ((s.part p).queue q).prio bs nodes →
      ((field bs 8 8 % 64 ≠ 0 ∨ 4096 < n) → nodes = [] →
        exec (.graphLaunch p q) s = .next (runGraphs ({ advance s p q with nextId := s.nextId + 1 }.onPart p fun x => { x with graphs := x.graphs ++ [g] }) p)) ∧
      (field bs 8 8 % 64 = 0 → n ≤ 4096 → readVa s p (field bs 8 8) (64 * n) = .ok nodes →
        exec (.graphLaunch p q) s = .next (runGraphs ({ readFlits (advance s p q) p (field bs 8 8) (64 * n) with nextId := s.nextId + 1 }.onPart p fun x =>
          { x with graphs := x.graphs ++ [g] }) p)) ∧
      (field bs 8 8 % 64 ≠ 0 ∨ n = 0 ∨ 4096 < n → g.failed = some (6, allOnes64)) ∧
      (field bs 8 8 % 64 = 0 → 0 < n → n ≤ 4096 →
        (∀ i < n, nodeOk n ((nodes.drop (64 * i)).take 64) = false → (∀ j < i, nodeOk n ((nodes.drop (64 * j)).take 64) = true) → g.failed = some (6, i) ∧ g.ready = []) ∧
        ((∀ i < n, nodeOk n ((nodes.drop (64 * i)).take 64) = true) → g.failed = none ∧ g.nodes.length = n ∧
          (∀ i < n, g.node i = gnode ((nodes.drop (64 * i)).take 64) ∧ g.counts.getD i 0 = field ((nodes.drop (64 * i)).take 64) 2 2) ∧
          ∀ i, i ∈ g.ready ↔ i < n ∧ field ((nodes.drop (64 * i)).take 64) 2 2 = 0))) ∧
    (∀ (n : Nat) (b : List Byte), nodeOk n b = true ↔ field b 1 1 ≤ 8 ∧ (∀ i < 64, 4 ≤ i ∧ i < 8 ∨ 8 + 2 * field b 1 1 ≤ i ∧ i < 24 ∨ 40 ≤ i → b.getD i 0 = 0) ∧
      (∀ k < field b 1 1, field b (8 + 2 * k) 2 < n) ∧
      (field b 0 1 = 1 ∧ field b 32 8 = 0 ∨ field b 0 1 = 2 ∧ field b 32 8 = 0 ∨ field b 0 1 = 3 ∧ field b 32 8 ≤ field b 1 1 ∨
       field b 0 1 = 4 ∧ field b 32 8 = 0 ∧ field b 1 1 = 2 ∨ field b 0 1 = 5 ∧ field b 32 8 = 0 ∨ field b 0 1 = 6 ∧ field b 24 8 % 8 = 0 ∨
       field b 0 1 = 7 ∧ field b 24 8 = 0 ∧ field b 32 8 = 0))) ∧
  ((∀ (s s1 s2 : State) (p q seq : Nat) (l : Log), ((s.part p).logs.find? fun l => l.src.queue == q && !l.sent && !logBlocked s p l) = some l → (s.part p).halt = none →
      (s.part p).en = true → seq = (if (s.part p).level = 0 ∨ l.src.node.isSome = true then 0 else ((s.part p).jseq + 1) % 2 ^ 64) →
      s1 = (if l.status = 0 then s else writeStatus s p (.log p l.id) l.status (statusRecord l seq s.mtime) l.src.detail 0) → (s1.part p).halt = none →
      s2 = (if l.jcb = 0 then s1 else sendPost s1 p (.log p l.id) l.jcb l.src.detail 0) → (s2.part p).halt = none →
      exec (.retireLogWrite p q) s = .next (s2.onPart p fun x => { x with jseq := if seq = 0 then x.jseq else seq
                                                                          logs := x.logs.map fun m => if m.id = l.id then { m with sent := true } else m })) ∧
    (∀ (l : Log) (seq time : Nat), statusRecord l seq time = bytesOf (l.state + 256 * l.cause) 8 ++ bytesOf l.done 8 ++ bytesOf l.first 8 ++ bytesOf seq 8 ++ bytesOf time 8 ++
      List.replicate 24 0) ∧
    (∀ (s : State) (p g n : Nat) (r : Graph), ((s.part p).graphs.find? fun r => r.id == g) = some r → n ∈ r.running → (r.node n).kind = 6 →
      (∀ k ∈ s.fabric, k.origin ≠ .node p g n) → exec (.signalWriteAccepted p g n) s = .next (runGraphs (nodeDone s p g n) p)))

/-- R105, R111 to R117, R119: the next iteration is launched on its rectangle and every core of it starts its task as Table 4.4 says, with its code and its arguments copied, the rest of the argument block zero and, with ZS, every other byte, an empty accumulator store and snapshot window; and all of them issue from the next cycle on; a team whose tasks are done retires, and its cores are free; a waiting iteration gains a level after each 2^20 cycles, and a team that has used its slice is marked. Where the rules leave a point open this follows the model's choices, log entries 61, 120. -/
def Obligations.TeamEvents : Prop :=
  (∀ (s : State) (p : Nat) (m : ANest) (r : Nat × Nat) (code args : List Byte), nextNest s p = some m → rectNow s p m = some r → m.recd.m3 = false →
    readVa s p m.recd.code m.recd.clen = .ok code → readVa s p m.recd.args m.recd.alen = .ok args →
    exec (.teamLaunch p m.id) s = .next (startTeam (readFlits (readFlits s p m.recd.code m.recd.clen) p m.recd.args m.recd.alen) p m r.1 r.2 (placeNext (s.part p) m).2 code args)) ∧
  (∀ (s : State) (p team core rank : Nat) (n : ANest) (code args : List Byte) (x : Ctx), SMap.wf Core.reset s.cores = true → x = startCtx s p n team core rank →
    (loadCore s p n team code args core rank).ctx core = some { x with state := .loading, codeLen := code.length } ∧ x.pc = n.recd.cdst + n.recd.entry ∧ x.rank = rank ∧ x.ctl = Ctl.start n.recd.dph0 ∧ x.p = 0 ∧ x.v = [] ∧ x.k = [] ∧
    (∀ j < 6, SMap.get 0 x.s (1 + j) = BitVec.ofNat 64 ((n.recd.indices n.next).getD j 0)) ∧ SMap.get 0 x.s 7 = BitVec.ofNat 64 rank ∧
    SMap.get 0 x.s 8 = BitVec.ofNat 64 (n.recd.tw * n.recd.th) ∧ SMap.get 0 x.s 9 = 0x7FF000#64 ∧ SMap.get 0 x.s 10 = BitVec.ofNat 64 n.recd.job ∧
    (∀ j, 1 ≤ j → j ≤ 10 → SMap.get 0 x.s (64 + j) = SMap.get 0 x.s j) ∧ (∀ r, (r = 0 ∨ 10 < r ∧ r < 65 ∨ 74 < r) → SMap.get 0 x.s r = 0) ∧ x.ln = [] ∧
    (Memory.wf (s.core core).mem = true → n.recd.cdst + code.length ≤ 0x7FF000 → args.length ≤ 4096 →
      SMap.read ((loadCore s p n team code args core rank).core core).mem n.recd.cdst code.length = code ∧
      SMap.read ((loadCore s p n team code args core rank).core core).mem 0x7FF000 4096 = args ++ List.replicate (4096 - args.length) 0 ∧
      ∀ a, a < n.recd.cdst ∨ n.recd.cdst + code.length ≤ a ∧ a < 0x7FF000 ∨ 0x800000 ≤ a →
        SMap.get 0 ((loadCore s p n team code args core rank).core core).mem a = if n.recd.zs then 0 else SMap.get 0 (s.core core).mem a) ∧
    ((loadCore s p n team code args core rank).core core).cells = [] ∧ ((loadCore s p n team code args core rank).core core).window = [] ∧
    (∀ c, c ≠ core → (loadCore s p n team code args core rank).core c = s.core c)) ∧
  (∀ (s : State) (c : Nat) (x : Ctx), s.ctx c = some x → x.state = .loading → (wake s).ctx c = some { x with state := .run, lnSeen := x.ln, ctl := { x.ctl with floorNow := x.ctl.tfloor } }) ∧
  (∀ (s : State) (p t : Nat) (m : Team), s.team p t = some m → m.arrivals = [] → m.sbals = [] → m.phase = .running → (s.part p).halt = none → m.cores.all (fun c => taskDone s c t) = true →
    exec (.teamRetire p t) s = .next (retireNests (((m.cores.foldl (fun s c => s.setCore c { s.core c with ctx := none, window := [], phase := [], full := false }) s).onPart p fun q =>
      { q with teams := q.teams.filter fun u => u.id != t }).onNest p m.nest fun n =>
        { n with retired := n.retired + 1, logical := n.logical.map fun l => if l.team = t then { l with retired := true } else l }) p)) ∧
  (∀ (s : State) (p c : Nat) (m : ANest), ((s.part p).nests.find? fun n => n.id == m.id) = some m → m.refused = some c → min 7 (m.prio + m.boost) < 7 →
    (m.boost + 1) * 2 ^ 20 ≤ s.cycle - c → exec (.iterationPriorityAging p m.id) s = .next (s.onNest p m.id fun n => { n with boost := n.boost + 1 })) ∧
  (∀ (s : State) (p t : Nat) (m : Team), s.team p t = some m → m.sliced = false → m.phase = .running → (s.part p).level ≠ 2 → (s.part p).slice ≤ s.cycle - m.start →
    exec (.sliceExpiry p t) s = .next (requestPreempts (s.onTeam p t fun m => { m with sliced := true }) p))

/-- R99, R100, R410, R468: an enable that passes R99's checks zeroes the partition's scratchpads and accumulator stores and starts it in an empty pour; one that fails a check sets ERR to it and changes nothing else but PCFG; a disable is ignored while a team runs and the partition is not halted, and otherwise ends its halt, its nests, graphs, teams and record copies, its contexts and their commands, and leaves the records not yet started in their queues. Before full service a write that asks for D2 is refused with ERR 1. Where the rules leave a point open this follows the model's choices, log entries 64, 65, 119. -/
def Obligations.PartitionsOnAndOff : Prop :=
  (∀ (s : State) (p : Nat) (v : Word), p < s.parts.length → SMap.wf Core.reset s.cores = true → (s.part p).en = false → (5 ≤ s.mgmt.phase ∨ fld v 33 32 ≠ 2) →
    enableErr (s.onPart p fun q => q.config v) p = 0 → ∃ t q, exec (.partitionEnable p v) s = .next t ∧ t.part p = q ∧ q.en = true ∧ q.state = 1 ∧ q.haltseq = 0 ∧
      q.rollseq = 0 ∧ q.gstate = 0 ∧ q.wrote = false ∧ q.halt = none ∧ q.x0 = fld v 4 0 ∧ q.y0 = fld v 12 8 ∧ q.wm1 = fld v 20 16 ∧ q.hm1 = fld v 28 24 ∧ q.level = fld v 33 32 ∧
      t.mem = s.mem ∧ (∀ c ∈ q.cores, (t.core c).mem = [] ∧ (t.core c).cells = [] ∧ t.ctx c = none) ∧ (∀ c, c ∉ q.cores → t.core c = s.core c) ∧
      ∀ r, r ≠ p → t.part r = s.part r) ∧
  (∀ (s : State) (p : Nat) (v : Word), p < s.parts.length → (s.part p).en = false → (5 ≤ s.mgmt.phase ∨ fld v 33 32 ≠ 2) → enableErr (s.onPart p fun q => q.config v) p ≠ 0 →
    exec (.partitionEnable p v) s = .next (s.onPart p fun q => { q.config v with err := enableErr (s.onPart p fun q => q.config v) p })) ∧
  (∀ (s : State) (p : Nat) (v : Word), (s.part p).en = false → s.mgmt.phase < 5 → fld v 33 32 = 2 → exec (.partitionEnable p v) s = .next (s.onPart p fun q => { q with err := 1 })) ∧
  (∀ (s : State) (p : Nat) (v : Word) (m : Team), p < s.parts.length → (s.part p).en = true → (s.part p).halted = false → m ∈ (s.part p).teams → m.phase = .running →
    exec (.partitionDisable p v) s = .next s) ∧
  (∀ (s : State) (p : Nat) (v : Word), p < s.parts.length → (s.part p).en = true → ((s.part p).halted = true ∨ ∀ m ∈ (s.part p).teams, m.phase ≠ .running) →
    ∃ t q, exec (.partitionDisable p v) s = .next t ∧ t.part p = q ∧ q.en = false ∧ q.state = 0 ∧ q.halt = none ∧ q.halted = false ∧ q.slots = [] ∧ q.ctrls = [] ∧ q.logs = [] ∧
      q.switch = none ∧ q.reqs = [] ∧ q.gstate = 0 ∧ q.nests = [] ∧ q.graphs = [] ∧ q.teams = [] ∧ q.queues = (s.part p).queues ∧
      (∀ k ∈ t.copies, k.part ≠ p) ∧ (∀ c < 512, ∀ x, t.ctx c = some x → x.part ≠ p) ∧ (∀ r ∈ t.reqs, r.part ≠ p))

/-- R386, R390, R393 to R396: a walk that finds a page adds it to its die's page cache, and gives a stale one or a fault only to the requests that joined it; an invalidation removes what it covers from a die's page cache and from the windows of its cores, and gives the die its copy of the ranges; the die acknowledges once its stale walks have ended; VAINV then stores its status and raises its count; and TINV goes to every die of the partition. Where the rules leave a point open this follows the model's choices, log entries 54, 55. -/
def Obligations.TranslationEvents : Prop :=
  (∀ (s : State) (k : Nat) (w : PWalk), s.walks[k]? = some w → s.works w.part (unitXlat w.die) = true →
    (∀ g, walk s w.die w.part w.vpn = .page g → w.stale = false → exec (.translationWalkComplete k) s =
      .next ({ s with walks := dropAt s.walks k }.setXlat w.die w.part { s.xlat w.die w.part with pages := g :: (s.xlat w.die w.part).pages })) ∧
    (∀ g, walk s w.die w.part w.vpn = .page g → w.stale = true → exec (.translationWalkComplete k) s =
      .next { s with walks := dropAt s.walks k, grants := s.grants ++ w.joined.map fun j => ⟨j, w.part, w.vpn, some { g with stale := true }, 0⟩ }) ∧
    (∀ c, walk s w.die w.part w.vpn = .fault c → exec (.translationWalkComplete k) s =
      .next { s with walks := dropAt s.walks k, grants := s.grants ++ w.joined.map fun j => ⟨j, w.part, w.vpn, none, c⟩ })) ∧
  (∀ (s : State) (k d : Nat) (v : Inval), s.invals[k]? = some v → d ∈ v.todo → v.by_ = none ∨ v.released = true →
    (v.released = true ∨ invalReady s v = true) → ∃ t, exec (.dieInvalidate k d) s = .next t ∧
      t.invals = s.invals.set k { v with released := true, todo := v.todo.filter (· != d), waiting := v.waiting ++ [d] } ∧
      (SMap.wf Core.reset s.cores = true → ∀ c, dieOf c = d → c < 512 → (t.core c).window = (s.core c).window.filter fun l => !(l.part == v.part && v.hitsLine l.line)) ∧
      (SMap.wf ⟨[], []⟩ s.dies = true → v.part < 16 → (t.xlat d v.part).pages = (s.xlat d v.part).pages.filter (fun g => !v.hits g) ∧
        (t.xlat d v.part).ranges = SMap.put 0 (s.part v.part).xblk 256 (s.part v.part).ptroot) ∧ t.mem = s.mem) ∧
  (∀ (s : State) (k d : Nat) (v : Inval), s.invals[k]? = some v → d ∈ v.waiting → (∀ w ∈ s.walks, ¬(w.die = d ∧ w.part = v.part ∧ w.stale = true)) →
    (v.by_.isSome = true ∨ v.todo ≠ [] → exec (.invalidateAck k d) s = .next { s with invals := s.invals.set k { v with waiting := v.waiting.filter (· != d) } }) ∧
    (v.by_ = none → v.todo = [] → v.waiting.filter (· != d) = [] → ∃ t, exec (.invalidateAck k d) s = .next t ∧
      t.invals.length + 1 = s.invals.length ∧ (v.part < s.parts.length → (t.part v.part).tinvBusy = false))) ∧
  (∀ (s : State) (k c ln : Nat) (st : Option Nat) (v : Inval) (x : Ctx), s.invals[k]? = some v → s.ctx c = some x → v.by_ = some (c, x.team, ln, st) → v.todo = [] → v.waiting = [] →
    SMap.wf Core.reset s.cores = true → ∃ t y, exec (.vainvComplete k) s = .next t ∧ t.invals = dropAt s.invals k ∧ t.ctx c = some y ∧ y.vainv = x.vainv - 1 ∧
      y.ln = SMap.put 0 x.ln ln ((SMap.get 0 x.ln ln + 1) % 2 ^ 32) ∧
      (∀ a, st = some a → (t.core c).mem = SMap.write (s.core c).mem a (bytesOf (invalStatus v) 8))) ∧
  (∀ (s : State) (p : Nat), (s.part p).tinvBusy = false → (s.part p).dies ≠ [] → p < s.parts.length → ∃ t, exec (.tinvGo p) s = .next t ∧ (t.part p).tinvBusy = true ∧
    (t.part p).tinvAbr = false ∧ (t.part p).tinvDies = 0 ∧ t.invals = s.invals ++ [{ part := p, by_ := none, all := true, lo := 0, hi := 0, empty := false, released := true, issued := 0, todo := (s.part p).dies, waiting := [], resets := [] }]) ∧
  (∀ (s : State) (p : Nat), (s.part p).tinvBusy = true → exec (.tinvGo p) s = .next s)

/-- R24, R399 to R404, Table 16.3: a fault raised where no halt stands starts one with every engine of the partition still to stop, and one raised during a halt joins it; an engine stops at its boundary and writes its stop record at SRBASE + 128 (1 + its slot), and writes it again where it has raised a fault since; once all have, the area header is written, FIRST is the cause of the first fault, HALTSEQ has gone up by one, and the partition's vector is raised. R404, R408 to R410, R422, R439, Table 16.1: resume ends a halt that is not the recovery engine's, and lets every stopped context of the partition issue again from the end of the cycle; a dump takes the images of the contexts of a halted partition with enough free slots as they stand, and ends with them in its slots; an error in a line or a core halts the partition that uses it with cause UNCORRECTABLE, or ends a gather copy at the element it strikes. Where the rules leave a point open this follows the model's choices, log entries 22, 57, 58, 59. -/
def Obligations.HaltsAndResume : Prop :=
  ((∀ (s : State) (p : Nat) (f : FaultInfo), p < s.parts.length →
      ((s.part p).halt = none → ((s.raise p f).part p).halt = some ⟨s.cycle, [{ f with cycle := s.cycle }], s.serving p, [], false, [], []⟩) ∧
      (∀ h, (s.part p).halt = some h → ((s.raise p f).part p).halt = some { h with faults := h.faults ++ [{ f with cycle := s.cycle }], again := if h.stopped.contains f.unit && !h.again.contains f.unit then h.again ++ [f.unit] else h.again }) ∧
      (∀ r, r ≠ p → (s.raise p f).part r = s.part r) ∧ (s.raise p f).cores = s.cores ∧ (s.raise p f).mem = s.mem) ∧
    (∀ (s : State) (slot c d : Nat) (x : Ctx), s.ctx s.cur = some x → x.part < s.parts.length → (s.part x.part).halt = none → SMap.wf Core.reset s.cores = true →
      ∃ y h f, (s.issueFault slot c d).ctx s.cur = some y ∧ y = { x with state := .stopped } ∧ ((s.issueFault slot c d).part x.part).halt = some h ∧ h.faults = [f] ∧
        f.unit = 4 * s.cur ∧ f.kind = 0 ∧ f.cause = c ∧ f.detail = d ∧ f.pc = x.pc ∧ f.job = x.job ∧ f.slot = slot ∧ f.syl = SMap.get 0 s.latch slot ∧ (s.issueFault slot c d).mem = s.mem ∧
        ((s.issueFault slot c d).core s.cur).mem = (s.core s.cur).mem) ∧
    (∀ (s : State) (p k : Nat) (h : Halt), p < s.parts.length → (s.part p).halt = some h → k ∈ h.pending → k ∉ h.again → atBoundary s p k = true → unitKind k ≠ 0 →
      saveBusy s ((s.part p).recordAt k) 128 = false → ∃ t, exec (.engineStop p k) s = .next t ∧
      (t.part p).halt = some { h with pending := h.pending.filter (· != k), stopped := h.stopped ++ [k] } ∧ t.cores = s.cores ∧
      t.mem = (s.writePhys ((s.part p).srbase + 128 * (1 + k)) (stopRecord s p k h)).mem) ∧
    (∀ (s : State) (p k : Nat) (h : Halt), p < s.parts.length → (s.part p).halt = some h → k ∈ h.again → saveBusy s ((s.part p).recordAt k) 128 = false →
      ∃ t, exec (.engineStop p k) s = .next t ∧ (t.part p).halt = some { h with again := h.again.filter (· != k) } ∧ t.cores = s.cores ∧
      t.mem = (s.writePhys ((s.part p).recordAt k) (stillStopped (s.readPhys ((s.part p).recordAt k) 128) (stopRecord s p k h))).mem) ∧
    (∀ (s : State) (p c : Nat) (h : Halt) (x : Ctx), p < s.parts.length → SMap.wf Core.reset s.cores = true → (s.part p).halt = some h → 4 * c ∈ h.pending → 4 * c ∉ h.again → c < 512 → s.ctx c = some x →
      saveBusy s ((s.part p).recordAt (4 * c)) 128 = false →
      ∃ t y, exec (.engineStop p (4 * c)) s = .next t ∧ t.ctx c = some y ∧ (x.state = .run ∨ x.state = .held ∨ x.state = .loading → y = { x with state := .stopped }) ∧
        (t.part p).halt = some { h with pending := h.pending.filter (· != 4 * c), stopped := h.stopped ++ [4 * c] }) ∧
    (∀ (s : State) (p : Nat) (h : Halt) (f : FaultInfo), p < s.parts.length → (s.part p).halt = some h → h.halted = false → h.pending = [] → h.again = [] → h.first = some f →
      (∀ m ∈ (s.part p).teams, ∀ l, m.phase ≠ .saving l) → saveBusy s (s.part p).srbase 128 = false →
      ∃ t, exec (.haltComplete p) s = .next t ∧ (t.part p).halted = true ∧ (t.part p).halt = some { h with halted := true } ∧ (t.part p).hfirst = f.cause ∧
        (t.part p).haltseq = ((s.part p).haltseq + 1) % 2 ^ 32 ∧ (t.part p).state = 2 ∧ p ∈ t.msix ∧ t.mem = (s.writePhys (s.part p).srbase (areaHeader s p h)).mem)) ∧
  ((∀ (s : State) (p : Nat), p < s.parts.length → SMap.wf Core.reset s.cores = true → (s.part p).halted = true → recoveryCause (s.part p).hfirst = false →
      ∃ t, exec (.haltResume p) s = .next t ∧ (t.part p).halt = none ∧ (t.part p).halted = false ∧ (t.part p).state = 1 ∧
        (∀ c x, c ∈ (s.part p).cores → s.ctx c = some x → x.part = p → x.state = .stopped → ∃ y, t.ctx c = some y ∧ y.state = .loading ∧ y.pc = x.pc ∧ y.s = x.s ∧ y.ctl = x.ctl) ∧ t.mem = s.mem) ∧
    (∀ (s : State) (p : Nat), (s.part p).halted = false ∨ recoveryCause (s.part p).hfirst = true → exec (.haltResume p) s = .next s) ∧
    (∀ c, recoveryCause c = true ↔ (0x80 ≤ c ∨ c = Cause.riserExhausted.code ∨ c = Cause.holdExhausted.code)) ∧
    (∀ (s : State) (p : Nat), (s.part p).halted = true → (s.part p).slots = [] → (contextsOf s p).length ≤ (s.part p).nslot →
      exec (.haltDump p) s = .next (s.onPart p fun q => { q with dumping := true, dump := dumpImages s p })) ∧
    (∀ (s : State) (p : Nat), (s.part p).dumping = true → exec (.haltDumpComplete p) s = .next (((s.part p).dump.foldl (fun s e => saveWrite s p e.1 e.2) s).onPart p fun q =>
      { q with dumping := false, dump := [] })) ∧
    (∀ (s : State) (pa p : Nat), (s.part p).en = true → struckGather s pa p = none →
      exec (.uncorrectable (.line pa p)) s = .next (s.engineFault p (if homeOf pa < 8 then unitStack (homeOf pa) else unitRecovery) Cause.uncorrectable.code 0 0 0 0)) ∧
    (∀ (s : State) (pa p : Nat) (k : Copy) (b : Burst) (i : Nat), (s.part p).en = true → struckGather s pa p = some (k, b, i) →
      exec (.uncorrectable (.line pa p)) s = .next (gatherError s k b pa i)) ∧
    (∀ (s : State) (c p : Nat), ((List.range 16).find? fun p => (s.part p).en && (s.part p).holds c) = some p →
      exec (.uncorrectable (.core c)) s = .next (s.engineFault p (4 * c) Cause.uncorrectable.code 0 0 0 (((s.ctx c).map Ctx.job).getD 0))))

/-- R411 to R416, R119, R421: a stopped context is quiet once its landing queue is empty, its streams' writes are performed and its copies stand between bursts; a team whose members are all quiet is saved into the lowest free slots, and its cores are then free; it comes back on the first free rectangle of its level, and OVR goes up where its save and its restore took longer than its slice; and a team not wholly stopped within PWAIT goes on. R414, R418 to R421, Tables 16.5 to 16.7: a context read back from its image is the one saved. Its pc, its control registers, its rendezvous points, its shapes, tables and landing counts are what they were, and of the scalars, vectors, predicates, lane masks, transposer buffers, accumulator windows and scratchpad bytes those that its liveness record keeps, or all of them where it keeps all; the code and the argument block always come back. Where the rules leave a point open this follows the model's choices, log entries 59, 60, 61, 95. -/
def Obligations.PreemptionEvents : Prop :=
  ((∀ (s : State) (c : Nat) (x : Ctx), s.ctx c = some x → x.state = .hinted → x.lq = [] → (∀ o ∈ x.streams, ∀ st, o = some st → st.pos = st.sent) →
      (∀ k ∈ s.copiesOf c, ∀ q ∈ s.fabric, q.origin ≠ .copy k.id) →
      ∃ t, exec (.quiesceMarkerReturn c) s = .next t ∧ t.ctx c = some { x with state := .quiet } ∧ (∀ k ∈ t.copies, k.core = some c → k.bursts = []) ∧ t.mem = s.mem ∧ t.parts = s.parts) ∧
    (∀ (s : State) (p t : Nat) (m : Team), s.team p t = some m → m.phase = .running → (s.part p).halt = none → (∀ c ∈ m.cores, ∃ x, s.ctx c = some x ∧ x.state = .quiet) →
      m.cores.length ≤ (s.part p).freeSlots.length → p < s.parts.length → ∃ u, exec (.preemptSave p t) s = .next u ∧ (u.part p).moving = true ∧
        u.team p t = some { m with phase := .saving ((s.part p).freeSlots.take m.cores.length), saveAt := s.cycle } ∧ ∀ k ∈ (s.part p).freeSlots.take m.cores.length, k ∈ (u.part p).slots) ∧
    (∀ (s : State) (p t : Nat) (m : Team) (slots : List Nat), s.team p t = some m → m.phase = .saving slots → (s.part p).halt = none → m.preempts + 1 < 2 ^ 16 → p < s.parts.length →
      (∀ e ∈ m.cores.zip slots, ∀ x, s.ctx e.1 = some x → saveBusy s ((s.part p).slotAt e.2) (image s 0 (keepOf (s.core e.1) x) (s.core e.1) x (some m)).length = false) →
      SMap.wf Core.reset s.cores = true → ∃ u n, exec (.preemptSaveComplete p t) s = .next u ∧ (∀ c ∈ m.cores, u.ctx c = none) ∧ (u.part p).moving = false ∧
        u.team p t = some n ∧ n.phase = .out slots ∧ n.preempts = m.preempts + 1 ∧ n.request = false ∧ n.stopped = none) ∧
    (∀ (s u : State) (p t : Nat) (m : Team) (slots : List Nat) (r : Nat × Nat), s.team p t = some m → m.phase = .out slots → restoreAt s p m = some r → (s.part p).halt = none →
      (nextNest s p).any (fun n => decide ((s.part p).prioOf m < n.effective)) = false → (∀ k ∈ slots, saveBusy s ((s.part p).slotAt k) (max 64 (imageLen s p k)) = false) →
      ((m.kept.zip slots).zip { m with x := r.1, y := r.2 }.cores).foldl (fun (o : Option State) e => o.bind fun s => restoreOne s p m e.1.1 e.1.2 e.2)
        (some (s.onPart p fun q => { q with slots := q.slots.filter fun k => !slots.contains k })) = some u →
      ∃ v w, (u.onTeam p t fun n => { n with x := r.1, y := r.2, phase := .running, kept := [], start := s.cycle, sliced := false, request := false, stopped := none, arrivals := n.arrivals.map fun a => { a with core := ((m.cores.zip { m with x := r.1, y := r.2 }.cores).find? fun e => e.1 == a.core).elim a.core Prod.snd } }).choose = (v, w) ∧
        exec (.preemptRestore p t) s = .next (if (s.part p).slice < m.saveAt + Config.restoreTime v then w.onPart p fun q => { q with ovr := (q.ovr + 1) % 2 ^ 64 } else w)) ∧
    (∀ (s : State) (p t c : Nat) (m : Team), s.team p t = some m → m.stopped = some c → m.phase = .running → (s.part p).pwait ≤ s.cycle - c →
      (∃ k ∈ m.cores, ∀ x, s.ctx k = some x → x.state ≠ .quiet) → exec (.pwaitExpiry p t) s = .next (abandon s p t))) ∧
  (∀ (s : State) (k : Keep) (c : Core) (x z : Ctx) (t : Option Team) (gens : List Nat), x.stores = [] → x.pc < 2 ^ 23 → (∀ n < 32, x.ctl.read n < 2 ^ 64) →
      x.ctl.repStart < 2 ^ 23 → x.ctl.repEnd < 2 ^ 24 → (∀ n < 4, SMap.get 0 x.tables n < 2 ^ 576) → (∀ n < 64, SMap.get 0 x.ln n < 2 ^ 32) →
      (∀ m, t = some m → m.points.length ≤ 24) → x.codeBase + x.codeLen ≤ 0x7FF000 → x.argLen ≤ 4096 →
      ∃ mem cells y, readImage (image s 0 k c x t) z gens = some (mem, cells, y) ∧ y.pc = x.pc ∧ (∀ n < 32, y.ctl.read n = x.ctl.read n) ∧
        (∀ j < 24, (y.rvTask j).out = (x.rvTask j).out ∧ (y.rvTask j).mark = (x.rvTask j).mark) ∧
        (∀ i < 320, SMap.get 0 y.shapeAct i = SMap.get 0 x.shapeAct i ∧ SMap.get 0 y.shapeShd i = SMap.get 0 x.shapeShd i) ∧
        (∀ n < 4, SMap.get 0 y.tables n = SMap.get 0 x.tables n) ∧ (∀ n < 64, SMap.get 0 y.ln n = SMap.get 0 x.ln n) ∧
        (∀ r < 128, 4096 + r ∈ x.dirty → k.reg 0 r (physS x.ctl.rrb) 128 = true → y.file (.s r) = x.file (.s r)) ∧
        (∀ r < 128, 8192 + r ∈ x.dirty → k.reg 16 r (physV x.ctl.rrb) 128 = true → y.file (.v r) = x.file (.v r)) ∧
        (∀ i < 96, 0 < i → k.reg 32 i (physP x.ctl.rrb) 96 = true → y.p.testBit i = x.p.testBit i) ∧
        (∀ i < 16, 0 < i → k.reg 44 i id 16 = true → y.file (.k i) = x.file (.k i)) ∧
        (k.all = true ∨ liveField k.bs 57 1 % 2 = 1 → ∀ i < 8192, SMap.get 0 y.tbuf i = SMap.get 0 x.tbuf i) ∧
        (∀ n < 4096, 12288 + n / 128 ∈ x.dirty → (k.all = true ∨ (liveField k.bs 48 4).testBit (n / 128) = true) →
          (SMap.get Cell.zero cells n).q = (c.cell n).q ∧ (SMap.get Cell.zero cells n).f32 = (c.cell n).f32) ∧
        (∀ a < 0x800000, a / 4096 ∈ x.dirty → (k.all = true ∨ ∃ r ∈ k.ranges, r.1 ≤ 4096 * (a / 4096) ∧ a < r.1 + r.2) → SMap.get 0 mem a = SMap.get 0 c.mem a) ∧
        (∀ a, (x.codeBase ≤ a ∧ a < x.codeBase + x.codeLen) ∨ (argBase ≤ a ∧ a < argBase + x.argLen) → SMap.get 0 mem a = SMap.get 0 c.mem a))

/-- R426 to R431, R437, R453 to R456: a line read brings its line, with the core's own writes that are on their way to it; a plain write is performed at its home, which logs the line's old bytes once per pour; a host's write is unlogged, at the addresses that its windows decode alone; a write out through a berth leaves once the berth is open, and one that finds an Ultra Ethernet berth there is to be held; a held write enters its path's buffer while there is room, and leaves it once it is released; a write that has waited 1 s for room halts its group; and metadata more than 2^15 pours behind an enabled partition's pour are swept. Where the rules leave a point open this follows the model's choices, log entries 47, 51, 52, 53, 92, 113. -/
def Obligations.HomesAndHeldWrites : Prop :=
  (∀ (s : State) (k c j h vline ag line : Nat) (q : Packet) (st : Stream), s.fabric[k]? = some q → q.body = .read vline ag line → q.origin = .stream c j → q.dest = .home h →
    ((s.ctx c).bind fun x => x.stream j) = some st → inOrder s k = true → homeWorks s q.part h = true → (∀ i < 64, s.converting (64 * line + i) = false) →
    atomicAhead s k c (.home h) line = false → exec (.homeLineRead k) s = .next ((snapFill { s.taken k with free := s.free + 1 } c j q.once
      ⟨vline, q.part, ag, ownWrites s c (.home h) line (lineData s (.home h) line)⟩).onCtx c fun x => x.reads s.far)) ∧
  (∀ (s t : State) (k h n : Nat) (q : Packet) (bs : List MByte), s.fabric[k]? = some q → q.body = .write bs n false → q.dest = .home h → inOrder s k = true → homeWorks s q.part h = true →
    (∀ b ∈ bs, s.converting b.1 = false) → (s.taken k).homeWrite q.part (q.owner s) n bs = some t → exec (.homeLineWrite (.fabric k)) s = .next (replyInbound t q .done)) ∧
  (∀ (s t : State) (p unit n a : Nat) (v m : Byte) (bs : List MByte), s.homeWrite p unit n ((a, v, m) :: bs) = some t → t.mem = State.mergeBytes s.mem ((a, v, m) :: bs) ∧
    (SMap.get 0xFFFF s.lmeta (a / 64) = (s.part p).cur % 65536 → t.risers = s.risers ∧ t.lmeta = s.lmeta) ∧
    (SMap.get 0xFFFF s.lmeta (a / 64) ≠ (s.part p).cur % 65536 → t.lmeta = SMap.put 0xFFFF s.lmeta (a / 64) ((s.part p).cur % 65536) ∧
      t.risers = s.risers.set (homeOf (64 * (a / 64))) (s.risers.getD (homeOf (64 * (a / 64))) [] ++ [⟨64 * (a / 64), (s.part p).cur, false, p, (s.part p).gid, s.readMem (64 * (a / 64)) 64⟩]))) ∧
  (∀ (s : State) (pa : Nat) (bs : List Byte),
    (inBar pa bs.length = true → (∀ i < bs.length, (s.dram (pa + i)).isSome = true) → exec (.homeLineWrite (.host pa bs)) s = .next (s.writePhys pa bs)) ∧
    (inBar pa bs.length = false ∨ (∃ i < bs.length, s.dram (pa + i) = none) → exec (.homeLineWrite (.host pa bs)) s = .next s)) ∧
  (∀ (s : State) (pa n : Nat), (inBar pa n = false → hostRead s pa n = none) ∧
    (∀ a, inBar pa n = true → (∀ i < n, s.dram (pa + i) = some (a + i)) → hostRead s pa n = some (SMap.read s.mem a n))) ∧
  (∀ (s : State) (k b m n : Nat) (q : Packet) (bs : List MByte), s.fabric[k]? = some q → q.body = .write bs n false → q.dest = .berth b m → inOrder s k = true → pathOk s q = true →
    ((s.berth b).isUet = false ∨ m = 4096 → s.berthOpen b = true → remoteMiss s q = none → exec (.homeLineWrite (.fabric k)) s = .next (((s.taken k).flit b).wroteIn q.part)) ∧
    ((s.berth b).isUet = true → m ≠ 4096 → exec (.homeLineWrite (.fabric k)) s = .next { s with fabric := s.fabric.set k { q with body := .write bs n true, since := none } })) ∧
  (∀ (s : State) (k b m n : Nat) (q : Packet) (bs : List MByte), s.fabric[k]? = some q → q.body = .write bs n true → q.dest = .berth b m → b < s.berths.length → b < 16 →
    (∀ y ∈ s.fabric.take k, y.origin = q.origin → y.holdAt = none) → pathOk s q = true → (s.berth b).state = 3 → heldCause s q = none → s.holdRoom b bs.length = true →
    ∃ t, exec (.holdBufferEntry k) s = .next t ∧ (t.berth b).hold = (s.berth b).hold ++ [⟨q.part, (s.part q.part).gid, (s.part q.part).cur, m, bs, false⟩] ∧ t.mem = s.mem ∧
      t.fabric = dropAt s.fabric k) ∧
  (∀ (s : State) (k i : Nat) (h : Held), (s.holdOf k).findIdx? Held.released = some i → (s.holdOf k)[i]? = some h →
    (16 ≤ k → s.hostUp = true → (∀ b ∈ h.bytes, s.converting b.1 = false) → exec (.heldWritePerformed k) s = .next { s.setHold k (dropAt (s.holdOf k) i) with mem := State.mergeBytes s.mem h.bytes }) ∧
    (k < 16 → h.module = s.modid → exec (.heldWritePerformed k) s = .next (if h.bytes.any fun b => s.converting b.1 then ((s.faultOnce h.part (unitStack (homeOf ((h.bytes.find? fun b => s.converting b.1).elim 0 Prod.fst))) Cause.convertBusy.code 0 0 0 0).getD s)
      else { s.setHold k (dropAt (s.holdOf k) i) with mem := State.mergeBytes s.mem h.bytes })) ∧
    (k < 16 → s.berthOpen k = true → h.module ≠ 4096 → h.module ≠ s.modid → exec (.heldWritePerformed k) s = .next ((s.setHold k (dropAt (s.holdOf k) i)).flit k)) ∧
    (k < 16 → s.berthOpen k = true → h.module = 4096 → (∀ b ∈ h.bytes, s.converting b.1 = false) → ∃ t, exec (.heldWritePerformed k) s = .next t ∧ t.mem = State.mergeBytes s.mem h.bytes)) ∧
  (∀ (s : State) (k t : Nat) (q : Packet), s.fabric[k]? = some q → q.since = some t → noRoom s q = true → s.usCycles 1000000 ≤ s.cycle - t → (s.part q.part).gstate < 4 →
    (q.holdAt = none → exec (.riserWaitExpiry k) s = .next (haltGroup s q.part Cause.riserExhausted.code 4)) ∧
    (q.holdAt ≠ none → exec (.holdWaitExpiry k) s = .next (haltGroup s q.part Cause.holdExhausted.code 4))) ∧
  (∀ (s : State) (line : Nat), SMap.get 0xFFFF s.lmeta line ≠ 0xFFFF → 
    (∃ p < 16, (s.part p).en = true ∧ 32768 < ((s.part p).cur % 65536 + 65536 - SMap.get 0xFFFF s.lmeta line) % 65536) →
    exec (.metaSweep line) s = .next { s with lmeta := SMap.put 0xFFFF s.lmeta line 0xFFFF })

/-- R425, R432 to R436: a timer that expires asks for a seal where its pour holds a write; a group whose members have all drained sends PREPARE; each member answers it with its restart record kept, and a leader on another module that finds its group misconfigured fails the seal here; after every PREPARED the leader sends COMMIT, and a FAILED ends the seal, or the pour where another module's comes with no seal under way; nothing goes on past a fault that belongs to recovery; a member that commits has sealed the pour and begins the next, and no metadata stay more than 49,152 pours behind it; after every COMMITTED the leader sends FREE, and a member then frees its group's riser entries of the pour and releases its held writes. Where the rules leave a point open this follows the model's choices, log entries 67, 69, 70, 71, 118. -/
def Obligations.SealExchange : Prop :=
  (∀ n, nextPour n % 65536 ≠ 65535 ∧ (n < 2 ^ 32 → (n + 1) % 65536 ≠ 65535 → nextPour n = (n + 1) % 2 ^ 32)) ∧
  (∀ (s : State) (p : Nat), (s.part p).en = true → s.lead p = p → s.sealper ≠ 0 → (s.part p).timed = false → s.usCycles (1000 * s.sealper) ≤ s.cycle - (s.part p).sealAt →
    ((s.part p).wrote = true → exec (.sealTimerExpiry p) s = .next ((s.onPart p fun q => { q with timed := true }).requestSeal p .plain)) ∧
    ((s.part p).wrote = false → exec (.sealTimerExpiry p) s = .next (s.onPart p fun q => { q with timed := true }))) ∧
  (∀ (s : State) (p : Nat) (w : Seal), (s.part p).en = true → s.lead p = p → (s.part p).leader = s.modid → (s.part p).sealing = none →
    (∀ m ∈ s.group p, (s.part m).gstate = 1 ∧ drained s m = true) →
    w = { pour := (s.part p).cur, todo := (s.group p).map localMember, await := (s.group p).map localMember ++ otherModules s p, step := 1, meets := (s.part p).reqs, bad := [] } →
    exec (.sealDrainComplete p) s = .next ((s.onGroup p fun q => { q with gstate := 2 }).onPart p fun q => { q with reqs := [], sealing := some w })) ∧
  (∀ (s : State) (p l : Nat) (w : Seal), l = s.lead p → (s.part l).en = true → (s.part l).gstate < 4 → (s.part l).sealing = some w → w.step = 1 → localMember p ∈ w.todo → drained s p = true → struck s p = false → bitmapBusy s p = false → (s.part l).leader = s.modid →
    (prepareFails s p = none → exec (.prepare p) s = .next ((s.onPart p fun x => { x with gstate := 2, restarts := (restartOf s p w :: x.restarts).take 2 }).onSeal l fun w =>
      { w with todo := w.todo.filter (· != localMember p) })) ∧
    (prepareFails s p = some Cause.groupConfig.code → exec (.prepare p) s = .next ((s.onPart p fun x =>
      { x with gstate := 2, restarts := (restartOf s p w :: x.restarts).take 2 }).onSeal l fun w =>
        { w with todo := w.todo.filter (· != localMember p), bad := (localMember p, Cause.groupConfig.code) :: w.bad }))) ∧
  (∀ (s : State) (p l : Nat) (w : Seal), l = s.lead p → (s.part l).en = true → (s.part l).gstate < 4 → (s.part l).sealing = some w → w.step = 1 → w.todo = [localMember p] → w.bad = [] →
    drained s p = true → struck s p = false → bitmapBusy s p = false → (s.part l).leader ≠ s.modid → prepareFails s p = some Cause.groupConfig.code →
    exec (.prepare p) s = .next (sealFails ((s.onPart p fun x => { x with gstate := 2, restarts := (restartOf s p w :: x.restarts).take 2 }).onSeal l fun w =>
      { w with todo := [], bad := [(localMember p, Cause.groupConfig.code)] }) l Cause.groupConfig.code)) ∧
  (∀ (s : State) (p : Nat) (r : SealReply) (w : Seal), (s.part p).sealing = some w → (s.part p).leader = s.modid → (s.part p).gstate < 4 → w.step = 1 → r.member ∈ w.await → r.member ∉ w.todo → struck s p = false →
    (r.member < 4096 ∨ (w.bad.find? fun b => b.1 == r.member).map Prod.snd = if r.ok then none else some r.cause) →
    (r.ok = false → exec (.prepareReply p r) s = .next (sealFails s p r.cause)) ∧
    (r.ok = true → w.await.filter (· != r.member) ≠ [] → exec (.prepareReply p r) s = .next (s.onSeal p fun w => { w with await := w.await.filter (· != r.member) })) ∧
    (r.ok = true → w.await.filter (· != r.member) = [] → exec (.prepareReply p r) s = .next ((s.onGroup p fun q => { q with gstate := 3, wrote := false }).onSeal p fun w =>
      { w with step := 2, todo := (s.group p).map localMember, await := (s.group p).map localMember ++ otherModules s p }))) ∧
  (∀ (s : State) (p : Nat) (r : SealReply), (s.part p).en = true → s.lead p = p → r.ok = false → (s.part p).gstate < 4 → r.member ∈ otherModules s p → (s.part p).sealing = none →
    (r.cause ≠ Cause.groupConfig.code → exec (.prepareReply p r) s = .next (haltGroup s p r.cause 4)) ∧
    (r.cause = Cause.groupConfig.code → exec (.prepareReply p r) s = .next ((s.group p).foldl (fun s q => s.msi q) (haltGroup s p r.cause 5)))) ∧
  (∀ (s : State) (p : Nat), (s.part (s.lead p)).en = true → (s.part (s.lead p)).gstate < 4 → (s.part (s.lead p)).sealing = none → (s.part (s.lead p)).leader ≠ s.modid → struck s p = false →
    exec (.prepare p) s = .next ((s.onGroup p fun q => { q with gstate := 1 }).onPart (s.lead p) fun q => { q with
      reqs := [], sealing := some { pour := (s.part (s.lead p)).cur, todo := (s.group p).map localMember, await := [], step := 1, meets := (s.part (s.lead p)).reqs, bad := [] } })) ∧
  (∀ (s : State) (p : Nat), struck s p = true → exec (.prepare p) s = .next s ∧ exec (.commit p) s = .next s ∧ exec (.committed p) s = .next s) ∧
  (∀ (s : State) (p : Nat) (w : Seal), p < s.parts.length → (s.part (s.lead p)).sealing = some w → (s.part p).gstate < 4 → struck s p = false → w.step = 2 → localMember p ∈ w.todo →
    ∃ t, exec (.commit p) s = .next t ∧ (t.part p).sealed = w.pour ∧ (t.part p).cur = nextPour w.pour ∧ (t.part p).top = nextPour w.pour ∧ (t.part p).gstate = 0 ∧ t.mem = s.mem ∧ t.risers = s.risers ∧
      (SMap.wf 0xFFFF s.lmeta = true → ∀ line, SMap.get 0xFFFF t.lmeta line = SMap.get 0xFFFF s.lmeta line ∨
        (SMap.get 0xFFFF t.lmeta line = 0xFFFF ∧ 49152 < behind (nextPour w.pour) (SMap.get 0xFFFF s.lmeta line))) ∧
      (SMap.wf 0xFFFF s.lmeta = true → ∀ line, SMap.get 0xFFFF t.lmeta line ≠ 0xFFFF → behind (nextPour w.pour) (SMap.get 0xFFFF t.lmeta line) ≤ 49152)) ∧
  (∀ (s : State) (p m : Nat) (w : Seal), (s.part p).sealing = some w → (s.part p).leader = s.modid → (s.part p).gstate < 4 → struck s p = false → w.step = 2 → w.todo = [] → w.await = [m] →
    exec (.committed p) s = .next (finishSeal (s.onSeal p fun w => { w with await := [], step := 3, todo := (s.group p).map localMember }) p w)) ∧
  (∀ (s : State) (p : Nat) (w : Seal), (s.part (s.lead p)).sealing = some w → w.step = 3 → localMember p ∈ w.todo →
    ∃ t, exec (.free p) s = .next t ∧ t.risers = s.risers.map (fun es => es.filter fun e => !(e.gid == (s.part (s.lead p)).gid && e.pour == w.pour)) ∧
      t.hostHold = s.hostHold.map (fun h => if h.gid = (s.part (s.lead p)).gid ∧ h.pour = w.pour then { h with released := true } else h) ∧
      t.berths = s.berths.map (fun b => { b with hold := b.hold.map fun h => if h.gid = (s.part (s.lead p)).gid ∧ h.pour = w.pour then { h with released := true } else h }) ∧ t.mem = s.mem)

/-- R437 to R440: a rollback of the host halts every member of the group with its cause; once all have halted, what they wrote after the last seal is undone, oldest value last, so that a line holds again what its oldest entry after the seal kept and any other line what it held; held writes after it are dropped and the others released, at the host port and at every berth; no riser entry of the group is left, each member is cleared and loads its restart record, and every member goes on in the pour after the group's last; after the riser or a hold buffer was exhausted the group is held for the host. An armed injection counts the writes of a cycle by home and line, and at its Nth one raises the error, or keeps it for PREPARE. Where the rules leave a point open this follows the model's choices, log entries 68, 69, 71, 118. -/
def Obligations.Rollbacks : Prop :=
  (∀ (s : State) (v : Word), v.getLsbD 4 = true → (s.part (fld v 3 0)).en = true → exec (.rctlRollback v) s = .next (haltGroup s (fld v 3 0) Cause.hostRollback.code 4)) ∧
  (∀ (s : State) (p cause state m : Nat), s.parts.length = 16 → m ∈ s.group p → ((haltGroup s p cause state).part m).gstate = state ∧ ((haltGroup s p cause state).part m).gcause = cause ∧
    ((haltGroup s p cause state).part m).halt.isSome = true) ∧
  (∀ (s : State) (p l top : Nat), (s.part p).en = true → s.lead p = p → (s.part p).gstate = 4 → (∀ m ∈ s.group p, (s.part m).halted = true) → l = rollbackTarget s p → top = groupTop s (s.group p) →
    ((s.part p).gcause ≠ Cause.riserExhausted.code → (s.part p).gcause ≠ Cause.holdExhausted.code → exec (.rollbackComplete p) s =
      .next ((s.group p).foldl (fun s m => restartMember s m l top)
        (((s.group p).foldl (fun s m => loadRestart (clearMember s m) m l) (replay s (s.part p).gid l)).onPart p fun q => { q with sealing := none }))) ∧
    (((s.part p).gcause = Cause.riserExhausted.code ∨ (s.part p).gcause = Cause.holdExhausted.code) → exec (.rollbackComplete p) s =
      .next ((s.group p).foldl (fun t m => ((t.onPart m fun q => { q with gstate := 5, sealed := l }).blackBox m 3 0 (s.part p).gcause).msi m)
        (((s.group p).foldl (fun s m => loadRestart (clearMember s m) m l) (replay s (s.part p).gid l)).onPart p fun q => { q with sealing := none })))) ∧
  (∀ (s : State) (gid l h : Nat), ∀ e ∈ (replay s gid l).risers.getD h [], e.gid ≠ gid) ∧
  (∀ (s : State) (h : Nat) (e : RiserEntry), e.cell = false → (undo s h e).mem = SMap.write s.mem e.addr e.old ∧ (undo s h e).risers = s.risers) ∧
  (∀ (s : State) (gid l a : Nat), a % 64 = 0 → Memory.wf s.mem = true → (∀ h < 10, ∀ e ∈ s.risers.getD h [], e.cell = false → homeOf e.addr = h ∧ e.addr % 64 = 0 ∧ e.old.length = 64) →
    match (s.risers.getD (homeOf a) []).find? fun e => !e.cell && e.gid == gid && after l e.pour && e.addr == a with
    | some e => SMap.read (replay s gid l).mem a 64 = e.old
    | none => SMap.read (replay s gid l).mem a 64 = SMap.read s.mem a 64) ∧
  (∀ (s : State) (gid l : Nat), ∀ h ∈ (replay s gid l).hostHold, h.gid = gid → h.released = true ∧ after l h.pour = false) ∧
  (∀ (s : State) (gid l : Nat), (replay s gid l).hostHold = (s.hostHold.filter fun h => !(h.gid == gid && after l h.pour)).map (fun h => if h.gid = gid then { h with released := true } else h) ∧
    (replay s gid l).berths = s.berths.map fun b => { b with hold := (b.hold.filter fun h => !(h.gid == gid && after l h.pour)).map fun h => if h.gid = gid then { h with released := true } else h }) ∧
  (∀ (s : State) (p : Nat), (s.part p).leader = s.modid → ((s.part p).sealing = none → rollbackTarget s p = (s.part p).sealed) ∧
    (∀ w r, (s.part p).sealing = some w → w.step = 2 → (s.part p).restarts.find? (fun r => r.pour != w.pour) = some r → rollbackTarget s p = r.pour)) ∧
  (∀ (s : State) (p c : Nat), SMap.wf Core.reset s.cores = true → c ∈ (s.part p).cores → ((clearMember s p).core c).mem = [] ∧ ((clearMember s p).core c).cells = [] ∧
    (clearMember s p).ctx c = none ∧ ((clearMember s p).core c).window = [] ∧ ((clearMember s p).core c).seq = 0 ∧ (clearMember s p).mem = s.mem ∧
    (∀ k ∈ (clearMember s p).copies, k.part ≠ p) ∧ (∀ k ∈ (clearMember s p).fabric, k.part ≠ p) ∧ (∀ e ∈ (clearMember s p).filters, e.part ≠ p)) ∧
  (∀ (s : State) (p n unit a : Nat), s.injSeen.Pairwise (fun x y => ¬(y.home < x.home ∨ y.home = x.home ∧ y.line < x.line)) → s.inj.getLsbD 63 = true → fld s.inj 51 48 = p → fld s.inj 47 32 = (s.part p).cur % 65536 →
    (s.inject p n unit a).injSeen.Pairwise (fun x y => ¬(y.home < x.home ∨ y.home = x.home ∧ y.line < x.line)) ∧ ⟨homeOf a, a / 64, n, unit, p⟩ ∈ (s.inject p n unit a).injSeen ∧
    (s.inject p n unit a).injSeen.length = s.injSeen.length + 1) ∧
  (∀ (s : State) (w : InjWrite), s.inj.getLsbD 63 = true → (s.injCount + w.n < fld s.inj 27 0 → s.injectOne w = { s with injCount := s.injCount + w.n }) ∧
    (fld s.inj 27 0 ≤ s.injCount + w.n → 0 < fld s.inj 27 0 → (s.injectOne w).inj = s.inj &&& 0x7FFFFFFFFFFFFFFF#64 ∧
      (s.inj.getLsbD 62 = true → (s.injectOne w).injHeld = some w.part ∧ (s.injectOne w).parts = s.parts) ∧
      (s.inj.getLsbD 62 = false → w.part < s.parts.length → ((s.injectOne w).part w.part).halt.isSome = true ∧ (s.injectOne w).injHeld = s.injHeld))) ∧
  (∀ (s : State) (p l : Nat) (r : Restart), p < s.parts.length → ((s.part p).restarts.find? fun r => r.pour == l) = some r →
    ((loadRestart s p l).part p).nests = r.nests ∧ ((loadRestart s p l).part p).graphs = r.graphs ∧ ((loadRestart s p l).part p).teams = [] ∧ (loadRestart s p l).mem = s.mem) ∧
  (∀ (s : State) (p l top : Nat), p < s.parts.length → ((restartMember s p l top).part p).sealed = l ∧ ((restartMember s p l top).part p).cur = nextPour top ∧
    ((restartMember s p l top).part p).rollseq = ((s.part p).rollseq + 1) % 2 ^ 32 ∧ ((restartMember s p l top).part p).gstate = 0 ∧ ((restartMember s p l top).part p).halt = none)

/-- R442 to R452, R456: a write of PERS that no check refuses stops its berth; a drained berth trains its lanes, or powers down for Off; four trained lanes bring it up with a fresh key, fewer leave it failed; a drain that takes longer than DRAINTO faults what still waits and goes on; KGO begins a new key; a key near its limit, or at it, is noted and raises the berth's vector, and one that is used up stays noted against a write that clears it; a landing request that is not the first to have reached its berth waits behind those that were; and the host's link goes down and comes back. R445, R472: a request through a berth that is up enters the fabric for the partition whose key it carries, under its own source and numbers; one whose key no enabled partition has, or that its target does not permit, is refused in its reply, with nothing applied, and a release has no reply. A write of a sender outside the group has been sealed there: it is performed, unlogged, and answered. Where the rules leave a point open this follows the model's choices, log entries 14, 47, 72, 73, 105, 115, 116. -/
def Obligations.BerthsAndRemoteRequests : Prop :=
  ((∀ (s : State) (b : Nat) (v : Word), b < s.berths.length →
      ((s.berth b).state ≠ 1 → (s.berth b).state ≠ 2 → State.holdBytes (s.berth b).hold = 0 → fld v 1 0 ≠ (s.berth b).cur → ∃ t, exec (.persWrite b v) s = .next t ∧
        t.berth b = { s.berth b with pers := fld v 1 0, err := 0, state := 1, drainAt := s.cycle } ∧ t.mem = s.mem ∧ t.parts = s.parts) ∧
      (((s.berth b).state = 1 ∨ (s.berth b).state = 2) → exec (.persWrite b v) s = .next (s.onBerth b fun x => { x with err := 1 })) ∧
      ((s.berth b).state ≠ 1 → (s.berth b).state ≠ 2 → State.holdBytes (s.berth b).hold ≠ 0 → exec (.persWrite b v) s = .next (s.onBerth b fun x => { x with err := 2 }))) ∧
    (∀ (s : State) (b : Nat), (s.berth b).state = 1 → berthDrained s b = true →
      ((s.berth b).pers ≠ 0 → exec (.berthDrainComplete b) s = .next (s.onBerth b fun x => { x with state := 2 })) ∧
      ((s.berth b).pers = 0 → exec (.berthDrainComplete b) s = .next ((s.onBerth b fun x =>
        { x with cur := 0, lanes := 0, state := 0, switches := (x.switches + 1) % 2 ^ 32 }).msi (16 + b)))) ∧
    (∀ (s : State) (b : Nat), (s.berth b).state = 1 → berthDrained s b = false → (s.berth b).drainTo ≤ s.cycle - (s.berth b).drainAt →
      exec (.drainTimeout b) s = .next (retrain ((acceptedGone (reqsGone s b) b).onBerth b fun x => { x with err := 4 }) b)) ∧
    (∀ (s : State) (b lanes : Nat) (klimit : Word), (s.berth b).state = 2 →
      (lanes < 4 → exec (.berthTrainingComplete b lanes klimit) s = .next ((s.onBerth b fun x => { x with state := 4, err := 3, lanes, cur := 0 }).msi (16 + b))) ∧
      (4 ≤ lanes → exec (.berthTrainingComplete b lanes klimit) s = .next ((s.onBerth b fun x => { x with
        state := 3, cur := x.pers, lanes := 4, switches := (x.switches + 1) % 2 ^ 32, ktx := 0, klimit := klimit.toNat, klow := false, kexh := false, lowSeen := false, down := false }).msi (16 + b)))) ∧
    (∀ (s : State) (b : Nat), (s.berth b).state ≠ 1 → (s.berth b).state ≠ 2 →
      exec (.kgo b) s = .next (s.onBerth b fun x => if x.state = 1 ∨ x.state = 2 then x else { x with ktx := 0, klow := false, kexh := false, lowSeen := false })) ∧
    (∀ (s : State) (b : Nat), (s.berth b).state = 3 ∨ (s.berth b).state = 1 →
      ((s.berth b).lowSeen = false → (s.berth b).klimit ≤ (s.berth b).ktx + 2 ^ 20 → exec (.keyLow b) s = .next ((s.onBerth b fun x => { x with klow := true, lowSeen := true }).msi (16 + b))) ∧
      ((s.berth b).kexh = false → (s.berth b).klimit ≤ (s.berth b).ktx → exec (.keyExhausted b) s = .next ((s.onBerth b fun x => { x with kexh := true }).msi (16 + b)))) ∧
    (∀ (s : State) (b : Nat) (v : Word), b < s.berths.length → ((kstatWrite s b v).berth b).klow = ((s.berth b).klow && !v.getLsbD 0) ∧
      ((s.berth b).klimit ≤ (s.berth b).ktx → ((kstatWrite s b v).berth b).kexh = (s.berth b).kexh) ∧
      ((s.berth b).ktx < (s.berth b).klimit → ((kstatWrite s b v).berth b).kexh = ((s.berth b).kexh && !v.getLsbD 1))) ∧
    (∀ (s : State) (c m b : Nat) (x : Ctx) (q : LCmd) (body : Body) (bs : List Byte), route s m = .inl b → (s.berth b).isUet = false →
      (s.berthOpen b = true → s.firstAt b c q.tag = true → sendAway s c x q m body bs = some ((sendReq s c x q m [(.berth b m, body)]).entered b c q.tag)) ∧
      (s.berthOpen b = false ∨ s.firstAt b c q.tag = false → sendAway s c x q m body bs = some (s.waitAt b c q.tag) ∧ (b < s.berths.length → (c, q.tag) ∈ ((s.waitAt b c q.tag).berth b).order))) ∧
    (∀ (s : State) (b : Nat), exec (.berthLoss b) s = .next (reqsGone (s.onBerth b fun x => { x with down := true }) b)) ∧
    (∀ (s : State), exec .hostLinkLoss s = .next { s with hostUp := false } ∧ exec .hostLinkReturn s = .next { s with hostUp := true })) ∧
  ((∀ (s : State) (r : RemoteRequest), (s.berth r.berth).state ≠ 3 ∨ (s.berth r.berth).down = true ∨ ((s.berth r.berth).cur ≠ 2 ∧ (s.berth r.berth).cur ≠ 3) →
      exec (.remoteRequestAdmission r) s = .next s) ∧
    (∀ (s : State) (r : RemoteRequest), (s.berth r.berth).state = 3 → (s.berth r.berth).down = false → ((s.berth r.berth).cur = 2 ∨ (s.berth r.berth).cur = 3) →
      ((∀ p < 16, (s.part p).en = true → (s.part p).key = 0 ∨ (s.part p).key ≠ r.key.toNat) ∨ (∃ p, admitTo s r = some p ∧ remotePackets s r p = []) →
        (isRelease r.op = false → exec (.remoteRequestAdmission r) s = .next (replyTo s (inboundPacket r 16 0 .dispatch .release) .refused)) ∧
        (isRelease r.op = true → exec (.remoteRequestAdmission r) s = .next s)) ∧
      (∀ p, admitTo s r = some p → remotePackets s r p ≠ [] → r.gid = (s.part p).gid →
        ∃ ps : List Packet, exec (.remoteRequestAdmission r) s = .next { s with fabric := s.fabric ++ ps } ∧ ps.map (fun q => (q.dest, q.body)) = remotePackets s r p ∧
          ∀ q ∈ ps, q.origin = .berth r.berth r.seq ∧ q.part = p ∧ q.src = 512 + 512 * r.module + r.core ∧ q.seq = r.seq ∧ q.floor = r.floor ∧ q.time = SMap.put 0 [] 4 r.time) ∧
      (∀ p d bs n h, admitTo s r = some p → remotePackets s r p = [(d, .write bs n h)] → r.gid ≠ (s.part p).gid → (∀ b ∈ bs, s.converting b.1 = false) →
        ∃ t, exec (.remoteRequestAdmission r) s = .next t ∧ t.mem = State.mergeBytes s.mem bs ∧ t.lmeta = s.lmeta ∧ t.risers = s.risers ∧ t.parts = s.parts ∧
          ∃ q, t.fabric = s.fabric ++ [q] ∧ q.dest = .berth r.berth ((512 * r.module + r.core) / 512) ∧ q.body = .reply .done ∧ q.seq = r.seq)) ∧
    (∀ (s : State) (k b m : Nat) (q : Packet) (r : Reply), s.fabric[k]? = some q → q.dest = .berth b m → q.body = .reply r →
      (pathOk s q = true → s.berthReplies b = true → exec (.atomicReply k) s = .next { s.flit b with fabric := dropAt s.fabric k }) ∧
      (pathOk s q = false → exec (.atomicReply k) s = .next { s with fabric := dropAt s.fabric k }) ∧
      (pathOk s q = true → s.berthReplies b = false → exec (.atomicReply k) s = .next s)))

/-- R366, R372, R373, R468: a write of CVCTL without GO sets the register; a GO while a conversion runs sets CAUSE 4; one that fails a check leaves STATE 3 with the check's cause; the others start the conversion, which completes with STATE 2 after every element in its order; and an allocation of crucible cells takes effect, and zeroes them, where its partition is disabled and it fits. R460 to R464: a record that leaves the queue goes to the next place of the ring; arming, clearing, the match of the trigger address, the freeze after the last record and the dump of a trace unit's 4,096 records; and the clearing of the black boxes of disabled partitions. Where the rules leave a point open this follows the model's choices, log entries 80, 81, 82, 109. -/
def Obligations.ConvertersAndTraces : Prop :=
  ((∀ (s : State) (k : Nat) (v : Word), k < s.hbmStacks.length →
      (v.getLsbD 63 = false → exec (.cvctlGo k v) s = .next (s.onStack k fun x => { x with cvctl := fld v 20 0 })) ∧
      (v.getLsbD 63 = true → (s.stack k).cvstate = 1 → exec (.cvctlGo k v) s = .next (s.onStack k fun x => { x with cvctl := fld v 20 0, cvcause := 4 })) ∧
      (v.getLsbD 63 = true → (s.stack k).cvstate ≠ 1 → cvCause s k v ≠ 0 → exec (.cvctlGo k v) s = .next (s.onStack k fun x =>
        { x with cvctl := fld v 20 0, cvflags := 0, cvdone := 0, cvcause := cvCause s k v, cvstate := 3, runAddr := x.cvaddr, runCnt := x.cvcnt, runCtl := fld v 20 0 })) ∧
      (v.getLsbD 63 = true → (s.stack k).cvstate ≠ 1 → cvCause s k v = 0 → exec (.cvctlGo k v) s = .next (s.onStack k fun x =>
        { x with cvctl := fld v 20 0, cvflags := 0, cvdone := 0, cvcause := 0, cvstate := 1, runAddr := x.cvaddr, runCnt := x.cvcnt, runCtl := fld v 20 0 }))) ∧
    (∀ (s : State) (k : Nat), (s.stack k).cvstate = 1 → exec (.conversionComplete k) s =
      .next (((cvOrder (s.stack k)).foldl (convertOne k) s).onStack k fun x => { x with cvstate := 2 })) ∧
    (∀ x : Stack, (fmtWidth (cvDst x.runCtl) ≤ fmtWidth (cvSrc x.runCtl) → cvOrder x = List.range x.runCnt) ∧
      (fmtWidth (cvSrc x.runCtl) < fmtWidth (cvDst x.runCtl) → cvOrder x = (List.range x.runCnt).reverse)) ∧
    (∀ (s : State) (k n : Nat) (v : Word), (s.part n).en = false → fld v 15 0 + fld v 32 16 ≤ 65536 → ∃ t, exec (.crallocWrite k n v) s = .next t ∧ (k < s.hbmStacks.length →
      SMap.wf 0 (s.stack k).cralloc = true → SMap.get 0 (t.stack k).cralloc n = fld v 32 0 ∧
      (SMap.wf 0 (s.stack k).cells = true → ∀ c, SMap.get 0 (t.stack k).cells c = if fld v 15 0 ≤ c ∧ c < fld v 15 0 + fld v 32 16 then 0 else SMap.get 0 (s.stack k).cells c)) ∧
      t.mem = s.mem ∧ t.parts = s.parts) ∧
    (∀ (s : State) (k n : Nat) (v : Word), (s.part n).en = true ∨ 65536 < fld v 15 0 + fld v 32 16 → exec (.crallocWrite k n v) s = .next s)) ∧
  ((∀ (s : State) (c : Nat) (t : Trace), t = (s.core c).trace →
      exec (.traceArm c) s = .next (s.onTrace c fun _ => { t with armed := true, fired := false, frozen := false, left := none }) ∧
      exec (.traceClr c) s = .next (s.onTrace c fun _ => { t with wr := 0, wrapped := false, lost := 0, frozen := false, left := if t.frozen then none else t.left }) ∧
      (t.frozen = true ∨ bit t.ctl 0 = false → t.dumping = false → dumpTo s t.tdst = true → exec (.traceDump c) s = .next (s.onTrace c fun _ => { t with dumping := true, dumpAt := t.tdst })) ∧
      (t.frozen = false → bit t.ctl 0 = true → exec (.traceDump c) s = .next (s.onTrace c fun _ => t)) ∧
      (t.dumping = true → (∀ i < 1024, ∀ a, s.dram (t.dumpAt + 64 * i) = some a → s.converting a = false) → exec (.traceDumpComplete c) s = .next ((((SMap.read t.buf 0 65536).zipIdx t.dumpAt).foldl dumpByte s).onTrace c fun t => { t with dumping := false })) ∧
      (t.fired = true → t.frozen = false → t.left = some 0 → exec (.traceFreeze c) s = .next (s.onTrace c fun _ => { t with frozen := true, queue := [] })) ∧
      (∀ x, s.ctx c = some x → bit t.ctl 0 = true → t.armed = true → bit t.ctl 9 = true → x.pc = t.pcm →
        exec (.tracePcMatch c) s = .next (s.onTrace c fun _ => t.fire (s.mtime % 2 ^ 48) 1 x.pc))) ∧
    (∀ (t : Trace) (time src pc : Nat), bit t.ctl 0 = true → t.armed = true → bit t.ctl (8 + src) = true → (t.fire time src pc).armed = false ∧ (t.fire time src pc).fired = true) ∧
    (∀ (t : Trace) (r : List Byte) (rs : List (List Byte)), t.queue = r :: rs → t.done = false → r.length = 16 → Memory.wf t.buf = true → t.drainOne.queue = rs ∧
      SMap.read t.drainOne.buf (16 * t.wr) 16 = r ∧ t.drainOne.wr = (t.wr + 1) % 4096 ∧ t.drainOne.wrapped = (t.wrapped || (t.wr + 1) % 4096 == 0) ∧
      ∀ a, a < 16 * t.wr ∨ 16 * t.wr + 16 ≤ a → SMap.get 0 t.drainOne.buf a = SMap.get 0 t.buf a) ∧
    (∀ (s : State) (v : Word), ∃ t, exec (.bbclr v) s = .next t ∧ t.mem = s.mem ∧ t.cores = s.cores ∧
      (∀ p < 16, p < s.parts.length → (s.part p).en = false → v.getLsbD p = true → (t.part p).box = ⟨[], 0, false, 0, 0, 0⟩) ∧
      (∀ p < 16, p < s.parts.length → ((s.part p).en = true ∨ v.getLsbD p = false) → t.part p = s.part p)))

/-- R465 to R469, R472: the phases of bring-up and their errors; a GO of a management command; the commands that attest, enter full service and write routes and keys: each ends with its result code, 0, or 2 for a bad report address, 3 for a key used up, 4 for an enabled partition and 5 for a bad argument, and with vector 33; and what the resets of a partition, a die and the module clear and leave. Where the rules leave a point open this follows the model's choices, log entries 9, 16, 75, 76, 78, 79, 104, 110. -/
def Obligations.BringUpAndResets : Prop :=
  (∀ (s : State), s.mgmt.err = 0 →
    (s.mgmt.phase = 0 → exec (.bootPhaseComplete 0) s = .next { s with mgmt := { s.mgmt with phase := 1 } }) ∧
    (s.mgmt.phase = 1 → exec (.bootPhaseComplete 0) s = .next (bootVerify s)) ∧
    (s.mgmt.phase = 2 → exec (.bootPhaseComplete 0) s = .next { s with mgmt := { s.mgmt with phase := 3 } }) ∧
    (s.mgmt.phase = 4 → exec (.bootPhaseComplete 0) s = .next { s with mgmt := { s.mgmt with phase := 5, fusesvn := max s.mgmt.fusesvn s.mgmt.svn } }) ∧
    (∀ e, (s.mgmt.phase, e) ∈ [(1, 1), (1, 2), (2, 3), (4, 4)] → exec (.bootPhaseComplete e) s = .next { s with mgmt := { s.mgmt with err := e } })) ∧
  (∀ (s : State) (r : Nat), (mbDone s r).mgmt = { s.mgmt with busy := false, result := r } ∧ 33 ∈ (mbDone s r).msix ∧ (mbDone s r).mem = s.mem ∧ (mbDone s r).parts = s.parts) ∧
  (∀ (s : State) (v : Word), s.mgmt.err = 0 → s.mgmt.busy = false → v.getLsbD 63 = true → 1 ≤ fld v 7 0 → fld v 7 0 ≤ 4 →
    (fld v 7 0 = 2 → (∃ q ∈ s.parts, q.en = true) → exec (.registerWrite 0xF00100B00028 v) s = .next (mbDone { s with mgmt := { s.mgmt with cmd := 2 } } 4)) ∧
    (fld v 7 0 ≠ 2 ∨ (∀ q ∈ s.parts, q.en = false) → exec (.registerWrite 0xF00100B00028 v) s = .next { s with mgmt := { s.mgmt with
      cmd := fld v 7 0, busy := true, run := fld v 7 0, snapNonce := s.mgmt.nonce, snapMeas := s.mgmt.meas } })) ∧
  (∀ (s : State), s.mgmt.busy = true →
    (s.mgmt.run = 2 → (∃ q ∈ s.parts, q.en = true) → exec .enterFullService s = .next (mbDone s 4)) ∧
    (s.mgmt.run = 2 → (∀ q ∈ s.parts, q.en = false) → s.mgmt.phase = 3 → ∃ t, exec .enterFullService s = .next t ∧ t.mgmt.phase = 4 ∧ t.mgmt.result = 0 ∧ t.mgmt.busy = false ∧ 33 ∈ t.msix) ∧
    (s.mgmt.run = 3 → fld s.mgmt.arg0 63 12 = 0 → fld s.mgmt.arg1 62 20 = 0 → fld s.mgmt.arg1 15 12 = 0 → SMap.wf 0 s.mroute = true → ∃ t, exec .writeRoute s = .next t ∧
      SMap.get 0 t.mroute (fld s.mgmt.arg0 11 0) = s.mgmt.arg1 ∧ t.mgmt.result = 0 ∧ t.mgmt.busy = false ∧ 33 ∈ t.msix) ∧
    (s.mgmt.run = 3 → (fld s.mgmt.arg0 63 12 ≠ 0 ∨ fld s.mgmt.arg1 62 20 ≠ 0 ∨ fld s.mgmt.arg1 15 12 ≠ 0) → exec .writeRoute s = .next (mbDone s 5)) ∧
    (s.mgmt.run = 4 → fld s.mgmt.arg0 63 12 = 0 → fld s.mgmt.arg1 63 32 = 0 → (s.part (fld s.mgmt.arg0 3 0)).en = false → s.parts.length = 16 → ∃ t, exec .writeJoinKey s = .next t ∧
      (t.part (fld s.mgmt.arg0 3 0)).key = s.mgmt.arg1.toNat ∧ t.mgmt.result = 0 ∧ t.mgmt.busy = false ∧ 33 ∈ t.msix) ∧
    (s.mgmt.run = 4 → (fld s.mgmt.arg0 63 12 ≠ 0 ∨ fld s.mgmt.arg1 63 32 ≠ 0 ∨ (s.part (fld s.mgmt.arg0 3 0)).en = true) → exec .writeJoinKey s = .next (mbDone s 5)) ∧
    (s.mgmt.run = 1 → (s.mgmt.mbaddr % 64 ≠ 0 ∨ s.tableAt s.mgmt.mbaddr = false) → exec .attest s = .next (mbDone s 2)) ∧
    (s.mgmt.run = 1 → s.mgmt.mbaddr % 64 = 0 → s.tableAt s.mgmt.mbaddr = true → s.mgmt.akleft = 0 → exec .attest s = .next (mbDone s 3)) ∧
    (∀ a, s.mgmt.run = 1 → s.mgmt.mbaddr % 64 = 0 → (∀ i < 2348, s.dram (s.mgmt.mbaddr + i) = some (a + i)) → (∀ i < 37, s.converting (a + 64 * i) = false) → s.mgmt.akleft ≠ 0 →
      s.mgmt.snapNonce.length = 4 → s.mgmt.snapMeas.length = 16 → ∃ t, exec .attest s = .next t ∧
      t.mgmt.akleft = s.mgmt.akleft - 1 ∧ t.mgmt.keyIndex = s.mgmt.keyIndex + 1 ∧ t.mgmt.result = 0 ∧ t.mgmt.busy = false ∧ 33 ∈ t.msix ∧
      t.mem = SMap.write s.mem a (report s s.mgmt.keyIndex ++ (List.range 1772).map (Config.lms s.mgmt.keyIndex (report s s.mgmt.keyIndex))))) ∧
  (∀ (s : State) (p : Nat), ∃ t q, exec (.partitionReset p) s = .next t ∧ t.part p = q ∧ q.en = false ∧ q.state = 0 ∧ q.halt = none ∧ q.halted = false ∧ q.nests = [] ∧ q.graphs = [] ∧ q.teams = [] ∧
    q.logs = [] ∧ q.slots = [] ∧ q.ctrls = [] ∧ q.reqs = [] ∧ q.sealing = none ∧ q.gstate = 0 ∧ (∀ e ∈ q.queues, e.2.en = false) ∧ q.srbase = (s.part p).srbase ∧ q.imgbase = (s.part p).imgbase ∧
    t.mem = s.mem ∧ t.lmeta = s.lmeta ∧ t.risers = s.risers ∧ (∀ k ∈ t.fabric, k.part ≠ p) ∧ (∀ k ∈ t.copies, k.part ≠ p) ∧ (∀ w ∈ t.walks, w.part ≠ p) ∧ (∀ r ∈ t.reqs, r.part ≠ p) ∧
    (∀ r, r ≠ p → t.part r = s.part r) ∧
    (SMap.wf Core.reset s.cores = true → (∀ c < 512, ∀ x, t.ctx c = some x → x.part ≠ p) ∧
      ((s.part p).en = true → ∀ c ∈ (s.part p).cores, (t.core c).mem = [] ∧ (t.core c).cells = [] ∧ t.ctx c = none ∧ (t.core c).window = []))) ∧
  (∀ (s : State) (d : Nat), ∃ t, exec (.dieReset d) s = .next t ∧ (∀ w ∈ t.walks, w.die ≠ d) ∧ (∀ e ∈ t.dies, e.1 / 16 ≠ d) ∧ (∀ v ∈ t.invals, d ∉ v.todo ∧ d ∉ v.waiting) ∧ t.mem = s.mem ∧
    (∀ p < 16, s.parts.length = 16 → (s.part p).en = true → d ∈ (s.part p).dies → (t.part p).en = false ∧ (t.part p).nests = [] ∧ (t.part p).teams = [])) ∧
  (∀ (s : State), ∃ t, exec .moduleReset s = .next t ∧ t.cores = [] ∧ t.mem = [] ∧ t.lmeta = [] ∧ t.fabric = [] ∧ t.reqs = [] ∧ t.copies = [] ∧ t.walks = [] ∧ t.invals = [] ∧ t.filters = [] ∧ t.msix = [] ∧
    t.mroute = [] ∧ t.risers = State.reset.risers ∧ t.hbmStacks = State.reset.hbmStacks ∧ t.berths = State.reset.berths ∧
    (∀ p < 16, s.parts.length = 16 → { t.part p with box := (s.part p).box } = { Part.reset s.modid p with box := (s.part p).box }) ∧ t.mgmt.phase = 0 ∧ t.mgmt.err = 0 ∧
    t.mgmt.fusesvn = s.mgmt.fusesvn ∧ t.mgmt.akleft = s.mgmt.akleft ∧ t.mgmt.keyIndex = s.mgmt.keyIndex ∧ t.mtime = 0 ∧ t.modid = s.modid ∧ t.mgmt.meas = List.replicate 16 0)

/-- R8, R457, R464, R466, R470, Tables 3.3, 4.1, 14.1, 15.1, 16.1, 17.1, 18.3, 19.3, 19.4 and 20.1: a write of a control register of BAR0 sets its writable fields, or does what the command in it asks for; one outside BAR0, one not aligned to 8 bytes and any write after a failed boot change nothing; a read brings the writable fields that were written, and module time; and the power limit opens every gate where it is 2590 W or more. Where the rules leave a point open this follows the model's choices, log entries 74, 76, 77. -/
def Obligations.RegisterWrites : Prop :=
  (∀ (s : State) (a : Nat) (v : Word), a < 0xF00100000000 ∨ 0xF00101000000 ≤ a ∨ a % 8 ≠ 0 ∨ s.mgmt.err ≠ 0 → exec (.registerWrite a v) s = .next s) ∧
  (∀ (s : State) (p : Nat) (v : Word), s.mgmt.err = 0 → p < 16 →
    exec (.registerWrite (0xF00100000000 + 0x1000 * p) v) s = (if v.getLsbD 63 then exec (.partitionEnable p v) s else exec (.partitionDisable p v) s) ∧
    exec (.registerWrite (0xF00100000000 + 0x1000 * p + 0x010) v) s = .next (s.onPart p fun q => { q with slice := v.toNat }) ∧
    exec (.registerWrite (0xF00100000000 + 0x1000 * p + 0x018) v) s = .next (s.onPart p fun q => { q with qmin := v.toNat }) ∧
    exec (.registerWrite (0xF00100000000 + 0x1000 * p + 0x020) v) s = .next (s.onPart p fun q => { q with ovr := v.toNat }) ∧
    (∀ q < 16, exec (.registerWrite (0xF00100000000 + 0x1000 * p + 0x100 + 0x20 * q + 0x18) v) s = exec (.qtailWrite p q v) s ∧
      exec (.registerWrite (0xF00100000000 + 0x1000 * p + 0x100 + 0x20 * q + 0x08) v) s = exec (.qcfgWrite p q v) s ∧
      exec (.registerWrite (0xF00100000000 + 0x1000 * p + 0x100 + 0x20 * q) v) s = .next (s.onPart p fun x => x.onQueue q fun u => { u with base := fld v 51 12 * 2 ^ 12 })) ∧
    (∀ j < 64, exec (.registerWrite (0xF00100000000 + 0x100000 + 0x1000 * p + 8 * j) v) s = .next (s.onPart p fun q =>
      { q with rwin := SMap.put 0 q.rwin j (BitVec.ofNat 64 (fld v 63 63 * 2 ^ 63 + fld v 38 24 * 2 ^ 24 + fld v 11 0)) })) ∧
    (∀ j < 64, ∀ i < 4, exec (.registerWrite (0xF00100000000 + 0x200000 + 0x1000 * p + 32 * j + 8 * i) v) s = .next (s.onPart p fun q =>
      { q with xblk := SMap.put 0 q.xblk (4 * j + i) (BitVec.ofNat 64 (keep v ([[(55, 12), (0, 0)], [(55, 12)], [(51, 12)], [(7, 4), (2, 0)]].getD i []))) })) ∧
    exec (.registerWrite (0xF00100000000 + 0x200000 + 0x1000 * p + 0x800) v) s = .next (s.onPart p fun q =>
      { q with ptroot := BitVec.ofNat 64 (fld v 51 20 * 2 ^ 20 + fld v 0 0) }) ∧
    exec (.registerWrite (0xF00100000000 + 0x200000 + 0x1000 * p + 0x808) v) s = (if v.getLsbD 63 then exec (.tinvGo p) s else .next s) ∧
    (∀ fixed, fixed = ((s.part p).moving || (s.part p).dumping || !(s.part p).slots.isEmpty) →
      exec (.registerWrite (0xF00100000000 + 0x400000 + 0x1000 * p) v) s = .next (if fixed ∨ s.tableAt (fld v 51 12 * 2 ^ 12) = false then s else s.onPart p fun q => { q with srbase := fld v 51 12 * 2 ^ 12 }) ∧
      exec (.registerWrite (0xF00100000000 + 0x400000 + 0x1000 * p + 0x008) v) s = .next (if fixed ∨ s.tableAt (fld v 51 12 * 2 ^ 12) = false then s else s.onPart p fun q => { q with imgbase := fld v 51 12 * 2 ^ 12 }) ∧
      exec (.registerWrite (0xF00100000000 + 0x400000 + 0x1000 * p + 0x010) v) s = .next (if fixed then s else s.onPart p fun q =>
        { q with stride := if 10 ≤ fld v 47 32 ∧ fld v 47 32 ≤ 1024 then fld v 47 32 else q.stride, nslot := fld v 15 0 })) ∧
    (v = 1 → exec (.registerWrite (0xF00100000000 + 0x400000 + 0x1000 * p + 0x018) v) s = exec (.haltResume p) s) ∧
    (v = 2 → exec (.registerWrite (0xF00100000000 + 0x400000 + 0x1000 * p + 0x018) v) s = exec (.haltDump p) s) ∧
    exec (.registerWrite (0xF00100000000 + 0x400000 + 0x1000 * p + 0x028) v) s = .next (s.onPart p fun q => { q with pwait := v.toNat }) ∧
    exec (.registerWrite (0xF00100000000 + 0x400000 + 0x1000 * p + 0x030) v) s = .next (s.onPart p fun q => { q with pabort := v.toNat }) ∧
    ((s.part p).en = true → exec (.registerWrite (0xF00100000000 + 0x500100 + 0x20 * p) v) s = .next s ∧ exec (.registerWrite (0xF00100000000 + 0x500108 + 0x20 * p) v) s = .next s) ∧
    ((s.part p).en = false →
      exec (.registerWrite (0xF00100000000 + 0x500100 + 0x20 * p) v) s = .next (measure (s.onPart p fun q => { q with leader := fld v 27 16, gid := fld v 15 0 }) (0xF00100000000 + 0x500100 + 0x20 * p) v) ∧
      exec (.registerWrite (0xF00100000000 + 0x500108 + 0x20 * p) v) s = .next (measure (s.onPart p fun q => { q with gmem := fld v 51 9 * 2 ^ 9 }) (0xF00100000000 + 0x500108 + 0x20 * p) v))) ∧
  (∀ (s : State) (k : Nat) (v : Word), s.mgmt.err = 0 → k < 8 →
    exec (.registerWrite (0xF00100000000 + 0x300000 + 0x1000 * k) v) s = .next (s.onStack k fun x => { x with cvaddr := fld v 51 6 * 2 ^ 6 }) ∧
    exec (.registerWrite (0xF00100000000 + 0x300000 + 0x1000 * k + 0x008) v) s = .next (s.onStack k fun x => { x with cvcnt := fld v 31 0 }) ∧
    exec (.registerWrite (0xF00100000000 + 0x300000 + 0x1000 * k + 0x010) v) s = exec (.cvctlGo k v) s ∧
    (∀ n < 16, exec (.registerWrite (0xF00100000000 + 0x300000 + 0x1000 * k + 0x100 + 8 * n) v) s = exec (.crallocWrite k n v) s)) ∧
  (∀ (s : State) (b : Nat) (v : Word), s.mgmt.err = 0 → b < 16 →
    exec (.registerWrite (0xF00100000000 + 0x600000 + 0x1000 * b) v) s = exec (.persWrite b v) s ∧
    exec (.registerWrite (0xF00100000000 + 0x600000 + 0x1000 * b + 0x010) v) s = .next (s.onBerth b fun x => { x with drainTo := v.toNat }) ∧
    exec (.registerWrite (0xF00100000000 + 0x600000 + 0x1000 * b + 0x020) v) s = (if v.getLsbD 0 then exec (.kgo b) s else .next s) ∧
    exec (.registerWrite (0xF00100000000 + 0x600000 + 0x1000 * b + 0x028) v) s = .next (kstatWrite s b v) ∧
    (∀ j < 8, exec (.registerWrite (0xF00100000000 + 0x600000 + 0x1000 * b + 0x040 + 8 * j) v) s = .next (s.onBerth b fun x => { x with kpend := x.kpend.set j v }))) ∧
  (∀ (s : State) (c : Nat) (v : Word), s.mgmt.err = 0 → c < 512 →
    exec (.registerWrite (0xF00100000000 + 0x800000 + 0x40 * c) v) s = .next (s.onTrace c fun t => { t with ctl := keep v [(63, 48), (46, 40), (38, 32), (27, 16), (10, 8), (6, 0)] }) ∧
    exec (.registerWrite (0xF00100000000 + 0x800000 + 0x40 * c + 0x08) v) s = .next (s.onTrace c fun t => { t with pcm := fld v 22 3 * 2 ^ 3 }) ∧
    (v = 1 → exec (.registerWrite (0xF00100000000 + 0x800000 + 0x40 * c + 0x18) v) s = exec (.traceArm c) s) ∧
    (v = 2 → exec (.registerWrite (0xF00100000000 + 0x800000 + 0x40 * c + 0x18) v) s = exec (.traceClr c) s) ∧
    (v = 4 → exec (.registerWrite (0xF00100000000 + 0x800000 + 0x40 * c + 0x18) v) s = exec (.traceDump c) s) ∧
    exec (.registerWrite (0xF00100000000 + 0x800000 + 0x40 * c + 0x20) v) s = .next (s.onTrace c fun t => { t with tdst := fld v 51 12 * 2 ^ 12 })) ∧
  (∀ (s : State) (v : Word), s.mgmt.err = 0 →
    exec (.registerWrite (0xF00100000000 + 0x500000) v) s = .next (if (∃ q ∈ s.parts, q.en = true) ∨ fld v 8 4 = 0 ∨ 16 < fld v 8 4 then s else { s with riser := fld v 8 4 }) ∧
    exec (.registerWrite (0xF00100000000 + 0x500008) v) s = .next { s with sealper := fld v 31 0 } ∧
    exec (.registerWrite (0xF00100000000 + 0x500010) v) s = .next { s with inj := BitVec.ofNat 64 (keep v [(63, 62), (51, 32), (27, 0)]), injCount := 0 } ∧
    exec (.registerWrite (0xF00100000000 + 0x500018) v) s = (if v.getLsbD 4 then exec (.rctlRollback v) s else .next s) ∧
    exec (.registerWrite (0xF00100000000 + 0xA00008) v) s = exec (.mtset v) s ∧ exec (.registerWrite (0xF00100000000 + 0xA00010) v) s = exec (.bbclr v) s ∧
    exec (.mtset v) s = .next { s with mtime := max s.mtime v.toNat } ∧
    (∃ t, exec (.registerWrite (0xF00100000000 + 0xB00008) v) s = .next t ∧ t.mgmt = { s.mgmt with pcap := fld v 31 0 } ∧ (2590 ≤ fld v 31 0 → ∀ q ∈ t.parts, q.gate = 15)) ∧
    exec (.registerWrite (0xF00100000000 + 0xB00018) v) s = .next (if 100 ≤ fld v 31 0 ∧ fld v 31 0 ≤ 1000000 then { s with mgmt := { s.mgmt with fto := fld v 31 0 } } else s) ∧
    (∀ p < 16, v = BitVec.ofNat 64 (2 ^ p) → exec (.registerWrite (0xF00100000000 + 0xB00020) v) s = exec (.partitionReset p) s) ∧
    exec (.registerWrite (0xF00100000000 + 0xB00038) v) s = .next { s with mgmt := { s.mgmt with mbaddr := fld v 51 6 * 2 ^ 6 } } ∧
    (∀ j < 4, exec (.registerWrite (0xF00100000000 + 0xB00040 + 8 * j) v) s = .next { s with mgmt := { s.mgmt with nonce := s.mgmt.nonce.set j v } }) ∧
    exec (.registerWrite (0xF00100000000 + 0xB00060) v) s = .next { s with mgmt := { s.mgmt with arg0 := v } } ∧
    exec (.registerWrite (0xF00100000000 + 0xB00068) v) s = .next { s with mgmt := { s.mgmt with arg1 := v } }) ∧
  (∀ (s t : State) (n : Nat) (v : Word) (r : Nat × List (Nat × Nat)), s.mgmt.err = 0 → n < 16 → s.parts.length = 16 → s.berths.length = 16 → s.hbmStacks.length = 8 →
    SMap.wf 0 (s.part n).rwin = true → SMap.wf Queue.reset (s.part n).queues = true → SMap.wf Core.reset s.cores = true → s.tableAt (fld v 51 12 * 2 ^ 12) = true → (s.part n).moving = false → (s.part n).dumping = false → (s.part n).slots = [] →
    r ∈ [(0x1000 * n + 0x010, [(63, 0)]), (0x1000 * n + 0x018, [(63, 0)]), (0x1000 * n + 0x020, [(63, 0)]), (0x1000 * n + 0x100, [(51, 12)]), (0x100000 + 0x1000 * n, [(63, 63), (38, 24), (11, 0)]),
      (0x200000 + 0x1000 * n + 0x800, [(51, 20), (0, 0)]), (0x300000 + 0x1000 * (n % 8), [(51, 6)]), (0x300000 + 0x1000 * (n % 8) + 0x008, [(31, 0)]), (0x400000 + 0x1000 * n, [(51, 12)]),
      (0x400000 + 0x1000 * n + 0x008, [(51, 12)]), (0x400000 + 0x1000 * n + 0x028, [(63, 0)]), (0x400000 + 0x1000 * n + 0x030, [(63, 0)]), (0x500008, [(31, 0)]), (0x500010, [(63, 62), (51, 32), (27, 0)]),
      (0x600000 + 0x1000 * n + 0x010, [(63, 0)]), (0x800000 + 0x40 * n, [(63, 48), (46, 40), (38, 32), (27, 16), (10, 8), (6, 0)]), (0x800000 + 0x40 * n + 0x08, [(22, 3)]),
      (0x800000 + 0x40 * n + 0x20, [(51, 12)]), (0xB00008, [(31, 0)]), (0xB00038, [(51, 6)]), (0xB00068, [(63, 0)])] →
    exec (.registerWrite (0xF00100000000 + r.1) v) s = .next t → registerRead (0xF00100000000 + r.1) t = BitVec.ofNat 64 (keep v r.2)) ∧
  (∀ s : State, s.mgmt.err = 0 → registerRead (0xF00100000000 + 0xA00000) s = BitVec.ofNat 64 s.mtime) ∧
  (∀ (s : State) (draw : Nat), 2590 ≤ s.mgmt.pcap → exec (.pgateUpdate draw) s = .next { s with parts := s.parts.map fun q => { q with gate := 15 } }) ∧
  (∀ (s : State) (draw : Nat), s.mgmt.pcap < 2590 → ∃ t, exec (.pgateUpdate draw) s = .next t ∧ t.mem = s.mem ∧ t.cores = s.cores ∧ t.parts.length = s.parts.length ∧
    ∀ p < s.parts.length, (t.part p).gate ≤ 15 ∧ ((s.part p).en = false ∨ (s.part p).level = 2 → (t.part p).gate = 15) ∧ { t.part p with gate := (s.part p).gate } = s.part p)
end

