-- ==== Sys2Proof/Laws/Maps.lean ====
section
/-!
SUPPORT. The laws of sparse maps: reads after writes, the canonical form under every operation on memory, and equal reads make equal maps.
-/

namespace Sys2Proof.SMap

variable {α : Type} [DecidableEq α] {d : α}

theorem wfAbove_mono {lo lo' : Nat} (h : lo' ≤ lo) {m : SMap α} (w : wfAbove d lo m = true) : wfAbove d lo' m = true := by
  cases m with
  | nil => rfl
  | cons e m => simp only [wfAbove, Bool.and_eq_true, decide_eq_true_eq] at w ⊢; exact ⟨⟨by omega, w.1.2⟩, w.2⟩

theorem wf_of_wfAbove {lo : Nat} {m : SMap α} (w : wfAbove d lo m = true) : wf d m = true := by
  cases m with
  | nil => rfl
  | cons e m => simp only [wfAbove, wf, Bool.and_eq_true, decide_eq_true_eq] at w ⊢; exact ⟨w.1.2, w.2⟩

theorem wf_cons {a : Nat} {x : α} {m : SMap α} : wf d ((a, x) :: m) = true ↔ x ≠ d ∧ wfAbove d a m = true := by simp [wf]

theorem wfAbove_cons {lo a : Nat} {x : α} {m : SMap α} : wfAbove d lo ((a, x) :: m) = true ↔ (lo < a ∧ x ≠ d) ∧ wfAbove d a m = true := by
  simp [wfAbove]

/-- Nothing is listed at or below the bound. -/
theorem get_below {lo k : Nat} {m : SMap α} (w : wfAbove d lo m = true) (h : k ≤ lo) : get d m k = d := by
  cases m with
  | nil => rfl
  | cons e m => rw [wfAbove_cons] at w; rw [get, if_neg (by omega), if_pos (by omega)]

theorem put_wfAbove {lo k : Nat} {x : α} (h : lo < k) {m : SMap α} (w : wfAbove d lo m = true) : wfAbove d lo (put d m k x) = true := by
  induction m generalizing lo with
  | nil => simp only [put]; split <;> simp_all [wfAbove]
  | cons e m ih =>
    obtain ⟨a, y⟩ := e
    rw [wfAbove_cons] at w
    simp only [put]
    split
    · split
      · rw [wfAbove_cons]; exact w
      · rw [wfAbove_cons, wfAbove_cons]; exact ⟨⟨h, ‹_›⟩, ⟨‹_›, w.1.2⟩, w.2⟩
    · split
      · split
        · exact wfAbove_mono (by omega) w.2
        · rw [wfAbove_cons]; exact ⟨⟨h, ‹_›⟩, by subst k; exact w.2⟩
      · rw [wfAbove_cons]; exact ⟨w.1, ih (by omega) w.2⟩

/-- A write keeps the canonical form. -/
theorem put_wf {k : Nat} {x : α} {m : SMap α} (w : wf d m = true) : wf d (put d m k x) = true := by
  cases m with
  | nil => simp only [put]; split <;> simp_all [wf, wfAbove]
  | cons e m =>
    obtain ⟨a, y⟩ := e
    rw [wf_cons] at w
    simp only [put]
    split
    · split
      · rw [wf_cons]; exact w
      · rw [wf_cons, wfAbove_cons]; exact ⟨‹_›, ⟨‹_›, w.1⟩, w.2⟩
    · split
      · split
        · exact wf_of_wfAbove w.2
        · rw [wf_cons]; exact ⟨‹_›, by subst k; exact w.2⟩
      · rw [wf_cons]; exact ⟨w.1, put_wfAbove (by omega) w.2⟩

theorem get_put_above {lo k : Nat} {x : α} {m : SMap α} (w : wfAbove d lo m = true) : get d (put d m k x) k = x := by
  induction m generalizing lo with
  | nil => simp only [put]; split <;> simp_all [get]
  | cons e m ih =>
    obtain ⟨a, y⟩ := e
    rw [wfAbove_cons] at w
    simp only [put]
    split
    · split
      · rw [get, if_neg (by omega), if_pos (by omega)]; exact ‹x = d›.symm
      · rw [get, if_pos rfl]
    · split
      · split
        · rw [get_below w.2 (by omega)]; exact ‹x = d›.symm
        · rw [get, if_pos rfl]
      · rw [get, if_neg (by omega), if_neg (by omega)]; exact ih w.2

theorem get_put_above_ne {lo k j : Nat} {x : α} (h : j ≠ k) {m : SMap α} (w : wfAbove d lo m = true) : get d (put d m k x) j = get d m j := by
  induction m generalizing lo with
  | nil => simp only [put]; split <;> simp_all [get]
  | cons e m ih =>
    obtain ⟨a, y⟩ := e
    rw [wfAbove_cons] at w
    simp only [put]
    split
    · split
      · rfl
      · rw [get, if_neg h]
        split
        · rw [get, if_neg (by omega), if_pos (by omega)]
        · rfl
    · split
      · subst k
        split
        · rw [get, if_neg h]
          split
          · exact get_below w.2 (by omega)
          · rfl
        · rw [get, get, if_neg h, if_neg h]
      · rw [get, get, ih w.2]

/-- A read after a write to the same key gives the value written. -/
theorem get_put_same {k : Nat} {x : α} {m : SMap α} (w : wf d m = true) : get d (put d m k x) k = x := by
  cases m with
  | nil => simp only [put]; split <;> simp_all [get]
  | cons e m =>
    obtain ⟨a, y⟩ := e
    rw [wf_cons] at w
    simp only [put]
    split
    · split
      · rw [get, if_neg (by omega), if_pos (by omega)]; exact ‹x = d›.symm
      · rw [get, if_pos rfl]
    · split
      · split
        · rw [get_below w.2 (by omega)]; exact ‹x = d›.symm
        · rw [get, if_pos rfl]
      · rw [get, if_neg (by omega), if_neg (by omega)]; exact get_put_above w.2

/-- A write leaves every other key alone. -/
theorem get_put_ne {k j : Nat} {x : α} (h : j ≠ k) {m : SMap α} (w : wf d m = true) : get d (put d m k x) j = get d m j := by
  cases m with
  | nil => simp only [put]; split <;> simp_all [get]
  | cons e m =>
    obtain ⟨a, y⟩ := e
    rw [wf_cons] at w
    simp only [put]
    split
    · split
      · rfl
      · rw [get, if_neg h]
        split
        · rw [get, if_neg (by omega), if_pos (by omega)]
        · rfl
    · split
      · subst k
        split
        · rw [get, if_neg h]
          split
          · exact get_below w.2 (by omega)
          · rfl
        · rw [get, get, if_neg h, if_neg h]
      · rw [get, get, get_put_above_ne h w.2]

theorem erase_wfAbove {lo : Nat} {p : Nat → Bool} {m : SMap α} (w : wfAbove d lo m = true) : wfAbove d lo (erase p m) = true := by
  induction m generalizing lo with
  | nil => rfl
  | cons e m ih =>
    obtain ⟨a, y⟩ := e
    rw [wfAbove_cons] at w
    simp only [erase, List.filter]
    split
    · exact wfAbove_cons.2 ⟨w.1, ih w.2⟩
    · exact wfAbove_mono (by omega) (ih w.2)

/-- Dropping entries keeps the canonical form. -/
theorem erase_wf {p : Nat → Bool} {m : SMap α} (w : wf d m = true) : wf d (erase p m) = true := by
  cases m with
  | nil => rfl
  | cons e m =>
    obtain ⟨a, y⟩ := e
    rw [wf_cons] at w
    simp only [erase, List.filter]
    split
    · exact wf_cons.2 ⟨w.1, erase_wfAbove w.2⟩
    · exact wf_of_wfAbove (erase_wfAbove w.2)

theorem ext_above {lo : Nat} {m n : SMap α} (v : wfAbove d lo m = true) (w : wfAbove d lo n = true) (h : ∀ k, lo < k → get d m k = get d n k) :
    m = n := by
  induction m generalizing lo n with
  | nil =>
    cases n with
    | nil => rfl
    | cons e n =>
      obtain ⟨a, y⟩ := e
      rw [wfAbove_cons] at w
      have := h a w.1.1
      rw [get, get, if_pos rfl] at this
      exact absurd this.symm w.1.2
  | cons e m ih =>
    obtain ⟨a, x⟩ := e
    rw [wfAbove_cons] at v
    cases n with
    | nil =>
      have := h a v.1.1
      rw [get, get, if_pos rfl] at this
      exact absurd this v.1.2
    | cons e' n =>
      obtain ⟨b, y⟩ := e'
      rw [wfAbove_cons] at w
      have hab : a = b := by
        rcases Nat.lt_trichotomy a b with c | c | c
        · have := h a v.1.1
          rw [get, if_pos rfl, get, if_neg (by omega), if_pos c] at this
          exact absurd this v.1.2
        · exact c
        · have := h b w.1.1
          rw [get, if_neg (by omega), if_pos c, get, if_pos rfl] at this
          exact absurd this.symm w.1.2
      subst hab
      have hxy := h a v.1.1
      rw [get, if_pos rfl, get, if_pos rfl] at hxy
      rw [hxy, ih v.2 w.2 fun k hk => by
        have := h k (by omega)
        rwa [get, if_neg (by omega), if_neg (by omega), get, if_neg (by omega), if_neg (by omega)] at this]

/-- Canonical maps that read the same are the same. -/
theorem ext {m n : SMap α} (v : wf d m = true) (w : wf d n = true) (h : ∀ k, get d m k = get d n k) : m = n := by
  cases m with
  | nil =>
    cases n with
    | nil => rfl
    | cons e n =>
      obtain ⟨a, y⟩ := e
      rw [wf_cons] at w
      have := h a
      rw [get, get, if_pos rfl] at this
      exact absurd this.symm w.1
  | cons e m =>
    obtain ⟨a, x⟩ := e
    rw [wf_cons] at v
    cases n with
    | nil =>
      have := h a
      rw [get, get, if_pos rfl] at this
      exact absurd this v.1
    | cons e' n =>
      obtain ⟨b, y⟩ := e'
      rw [wf_cons] at w
      have hab : a = b := by
        rcases Nat.lt_trichotomy a b with c | c | c
        · have := h a
          rw [get, if_pos rfl, get, if_neg (by omega), if_pos c] at this
          exact absurd this v.1
        · exact c
        · have := h b
          rw [get, if_neg (by omega), if_pos c, get, if_pos rfl] at this
          exact absurd this.symm w.1
      subst hab
      have hxy := h a
      rw [get, if_pos rfl, get, if_pos rfl] at hxy
      rw [hxy, ext_above v.2 w.2 fun k hk => by
        have := h k
        rwa [get, if_neg (by omega), if_neg (by omega), get, if_neg (by omega), if_neg (by omega)] at this]

end Sys2Proof.SMap

namespace Sys2Proof.Memory

/-- A write of bytes keeps the canonical form. -/
theorem write_wf {m : SMap Byte} {a : Nat} {bs : List Byte} (w : Memory.wf m = true) : Memory.wf (SMap.write m a bs) = true := by
  induction bs generalizing m a with
  | nil => exact w
  | cons b bs ih => exact ih (SMap.put_wf w)

/-- A write of bytes leaves every address outside them alone. -/
theorem get_write_ne {m : SMap Byte} {a j : Nat} {bs : List Byte} (w : Memory.wf m = true) (h : j < a ∨ a + bs.length ≤ j) :
    SMap.get 0 (SMap.write m a bs) j = SMap.get 0 m j := by
  induction bs generalizing m a with
  | nil => rfl
  | cons b bs ih =>
    simp only [List.length_cons] at h
    rw [SMap.write, ih (SMap.put_wf w) (by omega), SMap.get_put_ne (by omega) w]

/-- A read of the bytes written gives them. -/
theorem get_write_same {m : SMap Byte} {a i : Nat} {bs : List Byte} (w : Memory.wf m = true) (h : i < bs.length) :
    SMap.get 0 (SMap.write m a bs) (a + i) = bs[i] := by
  induction bs generalizing m a i with
  | nil => simp at h
  | cons b bs ih =>
    rw [SMap.write]
    cases i with
    | zero => rw [get_write_ne (SMap.put_wf w) (by omega)]; simpa using SMap.get_put_same w
    | succ i =>
      have := ih (m := SMap.put 0 m a b) (a := a + 1) (i := i) (SMap.put_wf w) (by simpa using h)
      simpa [Nat.add_assoc, Nat.add_comm 1 i] using this

/-- A write under masks keeps the canonical form. -/
theorem mergeBytes_wf {m : SMap Byte} {l : List Machine.MByte} (w : Memory.wf m = true) : Memory.wf (Machine.State.mergeBytes m l) = true := by
  induction l generalizing m with
  | nil => exact w
  | cons e l ih => exact ih (SMap.put_wf w)

/-- Pending stores reach a scratchpad in the canonical form. -/
theorem writeBytes_wf {m : SMap Byte} {l : List (Nat × Byte)} (w : Memory.wf m = true) : Memory.wf (Machine.writeBytes m l) = true := by
  induction l generalizing m with
  | nil => exact w
  | cons e l ih => exact ih (SMap.put_wf w)

/-- Pending stores leave the addresses they do not name alone. -/
theorem get_writeBytes_ne {m : SMap Byte} {l : List (Nat × Byte)} {j : Nat} (w : Memory.wf m = true) (h : ∀ e ∈ l, e.1 ≠ j) :
    SMap.get 0 (Machine.writeBytes m l) j = SMap.get 0 m j := by
  induction l generalizing m with
  | nil => rfl
  | cons e l ih =>
    rw [Machine.writeBytes, ih (SMap.put_wf w) fun e he => h e (List.mem_cons_of_mem _ he),
      SMap.get_put_ne (fun c => h e (List.mem_cons_self ..) c.symm) w]

end Sys2Proof.Memory
end

