-- ==== Sys2Proof/Laws/State.lean ====
section
/-!
SUPPORT. The laws of State: what each update of the state leaves alone, field by field, and what a core's context reads after an update.
-/

namespace Sys2Proof

/-- A write of a value that is not the default reads back, in any map. -/
theorem SMap.get_put_new {α : Type} [DecidableEq α] {d x : α} (h : x ≠ d) (m : SMap α) (k : Nat) : SMap.get d (SMap.put d m k x) k = x := by
  induction m with
  | nil => simp [SMap.put, SMap.get, h]
  | cons e m ih =>
    obtain ⟨a, y⟩ := e
    simp only [SMap.put, h, if_false]
    split
    · rw [SMap.get, if_pos rfl]
    · split
      · rw [SMap.get, if_pos rfl]
      · rw [SMap.get, if_neg (by omega), if_neg (by omega)]; exact ih

/-- A write of a value that is not the default leaves the other keys alone, in any map. -/
theorem SMap.get_put_new_ne {α : Type} [DecidableEq α] {d x : α} (h : x ≠ d) (m : SMap α) {k j : Nat} (hj : j ≠ k) :
    SMap.get d (SMap.put d m k x) j = SMap.get d m j := by
  induction m with
  | nil => simp [SMap.put, SMap.get, h, hj]
  | cons e m ih =>
    obtain ⟨a, y⟩ := e
    simp only [SMap.put, h, if_false]
    split
    · rw [SMap.get, if_neg hj]
      split
      · rw [SMap.get, if_neg (by omega), if_pos (by omega)]
      · rfl
    · split
      · subst k; rw [SMap.get, SMap.get, if_neg hj, if_neg hj]
      · rw [SMap.get, SMap.get, ih]

end Sys2Proof

namespace Sys2Proof.Machine.State

/-! ### setCore -/

@[simp] theorem parts_setCore (s : State) (c : Nat) (k : Core) : (s.setCore c k).parts = s.parts := rfl
@[simp] theorem hbmStacks_setCore (s : State) (c : Nat) (k : Core) : (s.setCore c k).hbmStacks = s.hbmStacks := rfl
@[simp] theorem dies_setCore (s : State) (c : Nat) (k : Core) : (s.setCore c k).dies = s.dies := rfl
@[simp] theorem mem_setCore (s : State) (c : Nat) (k : Core) : (s.setCore c k).mem = s.mem := rfl
@[simp] theorem lmeta_setCore (s : State) (c : Nat) (k : Core) : (s.setCore c k).lmeta = s.lmeta := rfl
@[simp] theorem risers_setCore (s : State) (c : Nat) (k : Core) : (s.setCore c k).risers = s.risers := rfl
@[simp] theorem copies_setCore (s : State) (c : Nat) (k : Core) : (s.setCore c k).copies = s.copies := rfl
@[simp] theorem engFree_setCore (s : State) (c : Nat) (k : Core) : (s.setCore c k).engFree = s.engFree := rfl
@[simp] theorem fabric_setCore (s : State) (c : Nat) (k : Core) : (s.setCore c k).fabric = s.fabric := rfl
@[simp] theorem reqs_setCore (s : State) (c : Nat) (k : Core) : (s.setCore c k).reqs = s.reqs := rfl
@[simp] theorem puts_setCore (s : State) (c : Nat) (k : Core) : (s.setCore c k).puts = s.puts := rfl
@[simp] theorem filters_setCore (s : State) (c : Nat) (k : Core) : (s.setCore c k).filters = s.filters := rfl
@[simp] theorem walks_setCore (s : State) (c : Nat) (k : Core) : (s.setCore c k).walks = s.walks := rfl
@[simp] theorem grants_setCore (s : State) (c : Nat) (k : Core) : (s.setCore c k).grants = s.grants := rfl
@[simp] theorem invals_setCore (s : State) (c : Nat) (k : Core) : (s.setCore c k).invals = s.invals := rfl
@[simp] theorem berths_setCore (s : State) (c : Nat) (k : Core) : (s.setCore c k).berths = s.berths := rfl
@[simp] theorem hostHold_setCore (s : State) (c : Nat) (k : Core) : (s.setCore c k).hostHold = s.hostHold := rfl
@[simp] theorem hostUp_setCore (s : State) (c : Nat) (k : Core) : (s.setCore c k).hostUp = s.hostUp := rfl
@[simp] theorem msix_setCore (s : State) (c : Nat) (k : Core) : (s.setCore c k).msix = s.msix := rfl
@[simp] theorem mroute_setCore (s : State) (c : Nat) (k : Core) : (s.setCore c k).mroute = s.mroute := rfl
@[simp] theorem modid_setCore (s : State) (c : Nat) (k : Core) : (s.setCore c k).modid = s.modid := rfl
@[simp] theorem riser_setCore (s : State) (c : Nat) (k : Core) : (s.setCore c k).riser = s.riser := rfl
@[simp] theorem sealper_setCore (s : State) (c : Nat) (k : Core) : (s.setCore c k).sealper = s.sealper := rfl
@[simp] theorem inj_setCore (s : State) (c : Nat) (k : Core) : (s.setCore c k).inj = s.inj := rfl
@[simp] theorem injCount_setCore (s : State) (c : Nat) (k : Core) : (s.setCore c k).injCount = s.injCount := rfl
@[simp] theorem injSeen_setCore (s : State) (c : Nat) (k : Core) : (s.setCore c k).injSeen = s.injSeen := rfl
@[simp] theorem injHeld_setCore (s : State) (c : Nat) (k : Core) : (s.setCore c k).injHeld = s.injHeld := rfl
@[simp] theorem mgmt_setCore (s : State) (c : Nat) (k : Core) : (s.setCore c k).mgmt = s.mgmt := rfl
@[simp] theorem mtime_setCore (s : State) (c : Nat) (k : Core) : (s.setCore c k).mtime = s.mtime := rfl
@[simp] theorem thirds_setCore (s : State) (c : Nat) (k : Core) : (s.setCore c k).thirds = s.thirds := rfl
@[simp] theorem cycle_setCore (s : State) (c : Nat) (k : Core) : (s.setCore c k).cycle = s.cycle := rfl
@[simp] theorem turn_setCore (s : State) (c : Nat) (k : Core) : (s.setCore c k).turn = s.turn := rfl
@[simp] theorem cur_setCore (s : State) (c : Nat) (k : Core) : (s.setCore c k).cur = s.cur := rfl
@[simp] theorem latch_setCore (s : State) (c : Nat) (k : Core) : (s.setCore c k).latch = s.latch := rfl
@[simp] theorem blen_setCore (s : State) (c : Nat) (k : Core) : (s.setCore c k).blen = s.blen := rfl
@[simp] theorem nextId_setCore (s : State) (c : Nat) (k : Core) : (s.setCore c k).nextId = s.nextId := rfl
@[simp] theorem agenda_setCore (s : State) (c : Nat) (k : Core) : (s.setCore c k).agenda = s.agenda := rfl
@[simp] theorem free_setCore (s : State) (c : Nat) (k : Core) : (s.setCore c k).free = s.free := rfl

/-! ### setCtx -/

@[simp] theorem parts_setCtx (s : State) (c : Nat) (x : Ctx) : (s.setCtx c x).parts = s.parts := rfl
@[simp] theorem hbmStacks_setCtx (s : State) (c : Nat) (x : Ctx) : (s.setCtx c x).hbmStacks = s.hbmStacks := rfl
@[simp] theorem dies_setCtx (s : State) (c : Nat) (x : Ctx) : (s.setCtx c x).dies = s.dies := rfl
@[simp] theorem mem_setCtx (s : State) (c : Nat) (x : Ctx) : (s.setCtx c x).mem = s.mem := rfl
@[simp] theorem lmeta_setCtx (s : State) (c : Nat) (x : Ctx) : (s.setCtx c x).lmeta = s.lmeta := rfl
@[simp] theorem risers_setCtx (s : State) (c : Nat) (x : Ctx) : (s.setCtx c x).risers = s.risers := rfl
@[simp] theorem copies_setCtx (s : State) (c : Nat) (x : Ctx) : (s.setCtx c x).copies = s.copies := rfl
@[simp] theorem engFree_setCtx (s : State) (c : Nat) (x : Ctx) : (s.setCtx c x).engFree = s.engFree := rfl
@[simp] theorem fabric_setCtx (s : State) (c : Nat) (x : Ctx) : (s.setCtx c x).fabric = s.fabric := rfl
@[simp] theorem reqs_setCtx (s : State) (c : Nat) (x : Ctx) : (s.setCtx c x).reqs = s.reqs := rfl
@[simp] theorem puts_setCtx (s : State) (c : Nat) (x : Ctx) : (s.setCtx c x).puts = s.puts := rfl
@[simp] theorem filters_setCtx (s : State) (c : Nat) (x : Ctx) : (s.setCtx c x).filters = s.filters := rfl
@[simp] theorem walks_setCtx (s : State) (c : Nat) (x : Ctx) : (s.setCtx c x).walks = s.walks := rfl
@[simp] theorem grants_setCtx (s : State) (c : Nat) (x : Ctx) : (s.setCtx c x).grants = s.grants := rfl
@[simp] theorem invals_setCtx (s : State) (c : Nat) (x : Ctx) : (s.setCtx c x).invals = s.invals := rfl
@[simp] theorem berths_setCtx (s : State) (c : Nat) (x : Ctx) : (s.setCtx c x).berths = s.berths := rfl
@[simp] theorem hostHold_setCtx (s : State) (c : Nat) (x : Ctx) : (s.setCtx c x).hostHold = s.hostHold := rfl
@[simp] theorem hostUp_setCtx (s : State) (c : Nat) (x : Ctx) : (s.setCtx c x).hostUp = s.hostUp := rfl
@[simp] theorem msix_setCtx (s : State) (c : Nat) (x : Ctx) : (s.setCtx c x).msix = s.msix := rfl
@[simp] theorem mroute_setCtx (s : State) (c : Nat) (x : Ctx) : (s.setCtx c x).mroute = s.mroute := rfl
@[simp] theorem modid_setCtx (s : State) (c : Nat) (x : Ctx) : (s.setCtx c x).modid = s.modid := rfl
@[simp] theorem riser_setCtx (s : State) (c : Nat) (x : Ctx) : (s.setCtx c x).riser = s.riser := rfl
@[simp] theorem sealper_setCtx (s : State) (c : Nat) (x : Ctx) : (s.setCtx c x).sealper = s.sealper := rfl
@[simp] theorem inj_setCtx (s : State) (c : Nat) (x : Ctx) : (s.setCtx c x).inj = s.inj := rfl
@[simp] theorem injCount_setCtx (s : State) (c : Nat) (x : Ctx) : (s.setCtx c x).injCount = s.injCount := rfl
@[simp] theorem injSeen_setCtx (s : State) (c : Nat) (x : Ctx) : (s.setCtx c x).injSeen = s.injSeen := rfl
@[simp] theorem injHeld_setCtx (s : State) (c : Nat) (x : Ctx) : (s.setCtx c x).injHeld = s.injHeld := rfl
@[simp] theorem mgmt_setCtx (s : State) (c : Nat) (x : Ctx) : (s.setCtx c x).mgmt = s.mgmt := rfl
@[simp] theorem mtime_setCtx (s : State) (c : Nat) (x : Ctx) : (s.setCtx c x).mtime = s.mtime := rfl
@[simp] theorem thirds_setCtx (s : State) (c : Nat) (x : Ctx) : (s.setCtx c x).thirds = s.thirds := rfl
@[simp] theorem cycle_setCtx (s : State) (c : Nat) (x : Ctx) : (s.setCtx c x).cycle = s.cycle := rfl
@[simp] theorem turn_setCtx (s : State) (c : Nat) (x : Ctx) : (s.setCtx c x).turn = s.turn := rfl
@[simp] theorem cur_setCtx (s : State) (c : Nat) (x : Ctx) : (s.setCtx c x).cur = s.cur := rfl
@[simp] theorem latch_setCtx (s : State) (c : Nat) (x : Ctx) : (s.setCtx c x).latch = s.latch := rfl
@[simp] theorem blen_setCtx (s : State) (c : Nat) (x : Ctx) : (s.setCtx c x).blen = s.blen := rfl
@[simp] theorem nextId_setCtx (s : State) (c : Nat) (x : Ctx) : (s.setCtx c x).nextId = s.nextId := rfl
@[simp] theorem agenda_setCtx (s : State) (c : Nat) (x : Ctx) : (s.setCtx c x).agenda = s.agenda := rfl
@[simp] theorem free_setCtx (s : State) (c : Nat) (x : Ctx) : (s.setCtx c x).free = s.free := rfl

/-! ### setPart -/

@[simp] theorem cores_setPart (s : State) (p : Nat) (q : Part) : (s.setPart p q).cores = s.cores := rfl
@[simp] theorem hbmStacks_setPart (s : State) (p : Nat) (q : Part) : (s.setPart p q).hbmStacks = s.hbmStacks := rfl
@[simp] theorem dies_setPart (s : State) (p : Nat) (q : Part) : (s.setPart p q).dies = s.dies := rfl
@[simp] theorem mem_setPart (s : State) (p : Nat) (q : Part) : (s.setPart p q).mem = s.mem := rfl
@[simp] theorem lmeta_setPart (s : State) (p : Nat) (q : Part) : (s.setPart p q).lmeta = s.lmeta := rfl
@[simp] theorem risers_setPart (s : State) (p : Nat) (q : Part) : (s.setPart p q).risers = s.risers := rfl
@[simp] theorem copies_setPart (s : State) (p : Nat) (q : Part) : (s.setPart p q).copies = s.copies := rfl
@[simp] theorem engFree_setPart (s : State) (p : Nat) (q : Part) : (s.setPart p q).engFree = s.engFree := rfl
@[simp] theorem fabric_setPart (s : State) (p : Nat) (q : Part) : (s.setPart p q).fabric = s.fabric := rfl
@[simp] theorem reqs_setPart (s : State) (p : Nat) (q : Part) : (s.setPart p q).reqs = s.reqs := rfl
@[simp] theorem puts_setPart (s : State) (p : Nat) (q : Part) : (s.setPart p q).puts = s.puts := rfl
@[simp] theorem filters_setPart (s : State) (p : Nat) (q : Part) : (s.setPart p q).filters = s.filters := rfl
@[simp] theorem walks_setPart (s : State) (p : Nat) (q : Part) : (s.setPart p q).walks = s.walks := rfl
@[simp] theorem grants_setPart (s : State) (p : Nat) (q : Part) : (s.setPart p q).grants = s.grants := rfl
@[simp] theorem invals_setPart (s : State) (p : Nat) (q : Part) : (s.setPart p q).invals = s.invals := rfl
@[simp] theorem berths_setPart (s : State) (p : Nat) (q : Part) : (s.setPart p q).berths = s.berths := rfl
@[simp] theorem hostHold_setPart (s : State) (p : Nat) (q : Part) : (s.setPart p q).hostHold = s.hostHold := rfl
@[simp] theorem hostUp_setPart (s : State) (p : Nat) (q : Part) : (s.setPart p q).hostUp = s.hostUp := rfl
@[simp] theorem msix_setPart (s : State) (p : Nat) (q : Part) : (s.setPart p q).msix = s.msix := rfl
@[simp] theorem mroute_setPart (s : State) (p : Nat) (q : Part) : (s.setPart p q).mroute = s.mroute := rfl
@[simp] theorem modid_setPart (s : State) (p : Nat) (q : Part) : (s.setPart p q).modid = s.modid := rfl
@[simp] theorem riser_setPart (s : State) (p : Nat) (q : Part) : (s.setPart p q).riser = s.riser := rfl
@[simp] theorem sealper_setPart (s : State) (p : Nat) (q : Part) : (s.setPart p q).sealper = s.sealper := rfl
@[simp] theorem inj_setPart (s : State) (p : Nat) (q : Part) : (s.setPart p q).inj = s.inj := rfl
@[simp] theorem injCount_setPart (s : State) (p : Nat) (q : Part) : (s.setPart p q).injCount = s.injCount := rfl
@[simp] theorem injSeen_setPart (s : State) (p : Nat) (q : Part) : (s.setPart p q).injSeen = s.injSeen := rfl
@[simp] theorem injHeld_setPart (s : State) (p : Nat) (q : Part) : (s.setPart p q).injHeld = s.injHeld := rfl
@[simp] theorem mgmt_setPart (s : State) (p : Nat) (q : Part) : (s.setPart p q).mgmt = s.mgmt := rfl
@[simp] theorem mtime_setPart (s : State) (p : Nat) (q : Part) : (s.setPart p q).mtime = s.mtime := rfl
@[simp] theorem thirds_setPart (s : State) (p : Nat) (q : Part) : (s.setPart p q).thirds = s.thirds := rfl
@[simp] theorem cycle_setPart (s : State) (p : Nat) (q : Part) : (s.setPart p q).cycle = s.cycle := rfl
@[simp] theorem turn_setPart (s : State) (p : Nat) (q : Part) : (s.setPart p q).turn = s.turn := rfl
@[simp] theorem cur_setPart (s : State) (p : Nat) (q : Part) : (s.setPart p q).cur = s.cur := rfl
@[simp] theorem latch_setPart (s : State) (p : Nat) (q : Part) : (s.setPart p q).latch = s.latch := rfl
@[simp] theorem blen_setPart (s : State) (p : Nat) (q : Part) : (s.setPart p q).blen = s.blen := rfl
@[simp] theorem nextId_setPart (s : State) (p : Nat) (q : Part) : (s.setPart p q).nextId = s.nextId := rfl
@[simp] theorem agenda_setPart (s : State) (p : Nat) (q : Part) : (s.setPart p q).agenda = s.agenda := rfl
@[simp] theorem free_setPart (s : State) (p : Nat) (q : Part) : (s.setPart p q).free = s.free := rfl

/-! ### onPart -/

@[simp] theorem cores_onPart (s : State) (p : Nat) (f : Part → Part) : (s.onPart p f).cores = s.cores := rfl
@[simp] theorem hbmStacks_onPart (s : State) (p : Nat) (f : Part → Part) : (s.onPart p f).hbmStacks = s.hbmStacks := rfl
@[simp] theorem dies_onPart (s : State) (p : Nat) (f : Part → Part) : (s.onPart p f).dies = s.dies := rfl
@[simp] theorem mem_onPart (s : State) (p : Nat) (f : Part → Part) : (s.onPart p f).mem = s.mem := rfl
@[simp] theorem lmeta_onPart (s : State) (p : Nat) (f : Part → Part) : (s.onPart p f).lmeta = s.lmeta := rfl
@[simp] theorem risers_onPart (s : State) (p : Nat) (f : Part → Part) : (s.onPart p f).risers = s.risers := rfl
@[simp] theorem copies_onPart (s : State) (p : Nat) (f : Part → Part) : (s.onPart p f).copies = s.copies := rfl
@[simp] theorem engFree_onPart (s : State) (p : Nat) (f : Part → Part) : (s.onPart p f).engFree = s.engFree := rfl
@[simp] theorem fabric_onPart (s : State) (p : Nat) (f : Part → Part) : (s.onPart p f).fabric = s.fabric := rfl
@[simp] theorem reqs_onPart (s : State) (p : Nat) (f : Part → Part) : (s.onPart p f).reqs = s.reqs := rfl
@[simp] theorem puts_onPart (s : State) (p : Nat) (f : Part → Part) : (s.onPart p f).puts = s.puts := rfl
@[simp] theorem filters_onPart (s : State) (p : Nat) (f : Part → Part) : (s.onPart p f).filters = s.filters := rfl
@[simp] theorem walks_onPart (s : State) (p : Nat) (f : Part → Part) : (s.onPart p f).walks = s.walks := rfl
@[simp] theorem grants_onPart (s : State) (p : Nat) (f : Part → Part) : (s.onPart p f).grants = s.grants := rfl
@[simp] theorem invals_onPart (s : State) (p : Nat) (f : Part → Part) : (s.onPart p f).invals = s.invals := rfl
@[simp] theorem berths_onPart (s : State) (p : Nat) (f : Part → Part) : (s.onPart p f).berths = s.berths := rfl
@[simp] theorem hostHold_onPart (s : State) (p : Nat) (f : Part → Part) : (s.onPart p f).hostHold = s.hostHold := rfl
@[simp] theorem hostUp_onPart (s : State) (p : Nat) (f : Part → Part) : (s.onPart p f).hostUp = s.hostUp := rfl
@[simp] theorem msix_onPart (s : State) (p : Nat) (f : Part → Part) : (s.onPart p f).msix = s.msix := rfl
@[simp] theorem mroute_onPart (s : State) (p : Nat) (f : Part → Part) : (s.onPart p f).mroute = s.mroute := rfl
@[simp] theorem modid_onPart (s : State) (p : Nat) (f : Part → Part) : (s.onPart p f).modid = s.modid := rfl
@[simp] theorem riser_onPart (s : State) (p : Nat) (f : Part → Part) : (s.onPart p f).riser = s.riser := rfl
@[simp] theorem sealper_onPart (s : State) (p : Nat) (f : Part → Part) : (s.onPart p f).sealper = s.sealper := rfl
@[simp] theorem inj_onPart (s : State) (p : Nat) (f : Part → Part) : (s.onPart p f).inj = s.inj := rfl
@[simp] theorem injCount_onPart (s : State) (p : Nat) (f : Part → Part) : (s.onPart p f).injCount = s.injCount := rfl
@[simp] theorem injSeen_onPart (s : State) (p : Nat) (f : Part → Part) : (s.onPart p f).injSeen = s.injSeen := rfl
@[simp] theorem injHeld_onPart (s : State) (p : Nat) (f : Part → Part) : (s.onPart p f).injHeld = s.injHeld := rfl
@[simp] theorem mgmt_onPart (s : State) (p : Nat) (f : Part → Part) : (s.onPart p f).mgmt = s.mgmt := rfl
@[simp] theorem mtime_onPart (s : State) (p : Nat) (f : Part → Part) : (s.onPart p f).mtime = s.mtime := rfl
@[simp] theorem thirds_onPart (s : State) (p : Nat) (f : Part → Part) : (s.onPart p f).thirds = s.thirds := rfl
@[simp] theorem cycle_onPart (s : State) (p : Nat) (f : Part → Part) : (s.onPart p f).cycle = s.cycle := rfl
@[simp] theorem turn_onPart (s : State) (p : Nat) (f : Part → Part) : (s.onPart p f).turn = s.turn := rfl
@[simp] theorem cur_onPart (s : State) (p : Nat) (f : Part → Part) : (s.onPart p f).cur = s.cur := rfl
@[simp] theorem latch_onPart (s : State) (p : Nat) (f : Part → Part) : (s.onPart p f).latch = s.latch := rfl
@[simp] theorem blen_onPart (s : State) (p : Nat) (f : Part → Part) : (s.onPart p f).blen = s.blen := rfl
@[simp] theorem nextId_onPart (s : State) (p : Nat) (f : Part → Part) : (s.onPart p f).nextId = s.nextId := rfl
@[simp] theorem agenda_onPart (s : State) (p : Nat) (f : Part → Part) : (s.onPart p f).agenda = s.agenda := rfl
@[simp] theorem free_onPart (s : State) (p : Nat) (f : Part → Part) : (s.onPart p f).free = s.free := rfl

/-! ### onTeam -/

@[simp] theorem cores_onTeam (s : State) (p t : Nat) (f : Team → Team) : (s.onTeam p t f).cores = s.cores := rfl
@[simp] theorem hbmStacks_onTeam (s : State) (p t : Nat) (f : Team → Team) : (s.onTeam p t f).hbmStacks = s.hbmStacks := rfl
@[simp] theorem dies_onTeam (s : State) (p t : Nat) (f : Team → Team) : (s.onTeam p t f).dies = s.dies := rfl
@[simp] theorem mem_onTeam (s : State) (p t : Nat) (f : Team → Team) : (s.onTeam p t f).mem = s.mem := rfl
@[simp] theorem lmeta_onTeam (s : State) (p t : Nat) (f : Team → Team) : (s.onTeam p t f).lmeta = s.lmeta := rfl
@[simp] theorem risers_onTeam (s : State) (p t : Nat) (f : Team → Team) : (s.onTeam p t f).risers = s.risers := rfl
@[simp] theorem copies_onTeam (s : State) (p t : Nat) (f : Team → Team) : (s.onTeam p t f).copies = s.copies := rfl
@[simp] theorem engFree_onTeam (s : State) (p t : Nat) (f : Team → Team) : (s.onTeam p t f).engFree = s.engFree := rfl
@[simp] theorem fabric_onTeam (s : State) (p t : Nat) (f : Team → Team) : (s.onTeam p t f).fabric = s.fabric := rfl
@[simp] theorem reqs_onTeam (s : State) (p t : Nat) (f : Team → Team) : (s.onTeam p t f).reqs = s.reqs := rfl
@[simp] theorem puts_onTeam (s : State) (p t : Nat) (f : Team → Team) : (s.onTeam p t f).puts = s.puts := rfl
@[simp] theorem filters_onTeam (s : State) (p t : Nat) (f : Team → Team) : (s.onTeam p t f).filters = s.filters := rfl
@[simp] theorem walks_onTeam (s : State) (p t : Nat) (f : Team → Team) : (s.onTeam p t f).walks = s.walks := rfl
@[simp] theorem grants_onTeam (s : State) (p t : Nat) (f : Team → Team) : (s.onTeam p t f).grants = s.grants := rfl
@[simp] theorem invals_onTeam (s : State) (p t : Nat) (f : Team → Team) : (s.onTeam p t f).invals = s.invals := rfl
@[simp] theorem berths_onTeam (s : State) (p t : Nat) (f : Team → Team) : (s.onTeam p t f).berths = s.berths := rfl
@[simp] theorem hostHold_onTeam (s : State) (p t : Nat) (f : Team → Team) : (s.onTeam p t f).hostHold = s.hostHold := rfl
@[simp] theorem hostUp_onTeam (s : State) (p t : Nat) (f : Team → Team) : (s.onTeam p t f).hostUp = s.hostUp := rfl
@[simp] theorem msix_onTeam (s : State) (p t : Nat) (f : Team → Team) : (s.onTeam p t f).msix = s.msix := rfl
@[simp] theorem mroute_onTeam (s : State) (p t : Nat) (f : Team → Team) : (s.onTeam p t f).mroute = s.mroute := rfl
@[simp] theorem modid_onTeam (s : State) (p t : Nat) (f : Team → Team) : (s.onTeam p t f).modid = s.modid := rfl
@[simp] theorem riser_onTeam (s : State) (p t : Nat) (f : Team → Team) : (s.onTeam p t f).riser = s.riser := rfl
@[simp] theorem sealper_onTeam (s : State) (p t : Nat) (f : Team → Team) : (s.onTeam p t f).sealper = s.sealper := rfl
@[simp] theorem inj_onTeam (s : State) (p t : Nat) (f : Team → Team) : (s.onTeam p t f).inj = s.inj := rfl
@[simp] theorem injCount_onTeam (s : State) (p t : Nat) (f : Team → Team) : (s.onTeam p t f).injCount = s.injCount := rfl
@[simp] theorem injSeen_onTeam (s : State) (p t : Nat) (f : Team → Team) : (s.onTeam p t f).injSeen = s.injSeen := rfl
@[simp] theorem injHeld_onTeam (s : State) (p t : Nat) (f : Team → Team) : (s.onTeam p t f).injHeld = s.injHeld := rfl
@[simp] theorem mgmt_onTeam (s : State) (p t : Nat) (f : Team → Team) : (s.onTeam p t f).mgmt = s.mgmt := rfl
@[simp] theorem mtime_onTeam (s : State) (p t : Nat) (f : Team → Team) : (s.onTeam p t f).mtime = s.mtime := rfl
@[simp] theorem thirds_onTeam (s : State) (p t : Nat) (f : Team → Team) : (s.onTeam p t f).thirds = s.thirds := rfl
@[simp] theorem cycle_onTeam (s : State) (p t : Nat) (f : Team → Team) : (s.onTeam p t f).cycle = s.cycle := rfl
@[simp] theorem turn_onTeam (s : State) (p t : Nat) (f : Team → Team) : (s.onTeam p t f).turn = s.turn := rfl
@[simp] theorem cur_onTeam (s : State) (p t : Nat) (f : Team → Team) : (s.onTeam p t f).cur = s.cur := rfl
@[simp] theorem latch_onTeam (s : State) (p t : Nat) (f : Team → Team) : (s.onTeam p t f).latch = s.latch := rfl
@[simp] theorem blen_onTeam (s : State) (p t : Nat) (f : Team → Team) : (s.onTeam p t f).blen = s.blen := rfl
@[simp] theorem nextId_onTeam (s : State) (p t : Nat) (f : Team → Team) : (s.onTeam p t f).nextId = s.nextId := rfl
@[simp] theorem agenda_onTeam (s : State) (p t : Nat) (f : Team → Team) : (s.onTeam p t f).agenda = s.agenda := rfl
@[simp] theorem free_onTeam (s : State) (p t : Nat) (f : Team → Team) : (s.onTeam p t f).free = s.free := rfl

/-! ### onStack -/

@[simp] theorem cores_onStack (s : State) (k : Nat) (f : Stack → Stack) : (s.onStack k f).cores = s.cores := rfl
@[simp] theorem parts_onStack (s : State) (k : Nat) (f : Stack → Stack) : (s.onStack k f).parts = s.parts := rfl
@[simp] theorem dies_onStack (s : State) (k : Nat) (f : Stack → Stack) : (s.onStack k f).dies = s.dies := rfl
@[simp] theorem mem_onStack (s : State) (k : Nat) (f : Stack → Stack) : (s.onStack k f).mem = s.mem := rfl
@[simp] theorem lmeta_onStack (s : State) (k : Nat) (f : Stack → Stack) : (s.onStack k f).lmeta = s.lmeta := rfl
@[simp] theorem risers_onStack (s : State) (k : Nat) (f : Stack → Stack) : (s.onStack k f).risers = s.risers := rfl
@[simp] theorem copies_onStack (s : State) (k : Nat) (f : Stack → Stack) : (s.onStack k f).copies = s.copies := rfl
@[simp] theorem engFree_onStack (s : State) (k : Nat) (f : Stack → Stack) : (s.onStack k f).engFree = s.engFree := rfl
@[simp] theorem fabric_onStack (s : State) (k : Nat) (f : Stack → Stack) : (s.onStack k f).fabric = s.fabric := rfl
@[simp] theorem reqs_onStack (s : State) (k : Nat) (f : Stack → Stack) : (s.onStack k f).reqs = s.reqs := rfl
@[simp] theorem puts_onStack (s : State) (k : Nat) (f : Stack → Stack) : (s.onStack k f).puts = s.puts := rfl
@[simp] theorem filters_onStack (s : State) (k : Nat) (f : Stack → Stack) : (s.onStack k f).filters = s.filters := rfl
@[simp] theorem walks_onStack (s : State) (k : Nat) (f : Stack → Stack) : (s.onStack k f).walks = s.walks := rfl
@[simp] theorem grants_onStack (s : State) (k : Nat) (f : Stack → Stack) : (s.onStack k f).grants = s.grants := rfl
@[simp] theorem invals_onStack (s : State) (k : Nat) (f : Stack → Stack) : (s.onStack k f).invals = s.invals := rfl
@[simp] theorem berths_onStack (s : State) (k : Nat) (f : Stack → Stack) : (s.onStack k f).berths = s.berths := rfl
@[simp] theorem hostHold_onStack (s : State) (k : Nat) (f : Stack → Stack) : (s.onStack k f).hostHold = s.hostHold := rfl
@[simp] theorem hostUp_onStack (s : State) (k : Nat) (f : Stack → Stack) : (s.onStack k f).hostUp = s.hostUp := rfl
@[simp] theorem msix_onStack (s : State) (k : Nat) (f : Stack → Stack) : (s.onStack k f).msix = s.msix := rfl
@[simp] theorem mroute_onStack (s : State) (k : Nat) (f : Stack → Stack) : (s.onStack k f).mroute = s.mroute := rfl
@[simp] theorem modid_onStack (s : State) (k : Nat) (f : Stack → Stack) : (s.onStack k f).modid = s.modid := rfl
@[simp] theorem riser_onStack (s : State) (k : Nat) (f : Stack → Stack) : (s.onStack k f).riser = s.riser := rfl
@[simp] theorem sealper_onStack (s : State) (k : Nat) (f : Stack → Stack) : (s.onStack k f).sealper = s.sealper := rfl
@[simp] theorem inj_onStack (s : State) (k : Nat) (f : Stack → Stack) : (s.onStack k f).inj = s.inj := rfl
@[simp] theorem injCount_onStack (s : State) (k : Nat) (f : Stack → Stack) : (s.onStack k f).injCount = s.injCount := rfl
@[simp] theorem injSeen_onStack (s : State) (k : Nat) (f : Stack → Stack) : (s.onStack k f).injSeen = s.injSeen := rfl
@[simp] theorem injHeld_onStack (s : State) (k : Nat) (f : Stack → Stack) : (s.onStack k f).injHeld = s.injHeld := rfl
@[simp] theorem mgmt_onStack (s : State) (k : Nat) (f : Stack → Stack) : (s.onStack k f).mgmt = s.mgmt := rfl
@[simp] theorem mtime_onStack (s : State) (k : Nat) (f : Stack → Stack) : (s.onStack k f).mtime = s.mtime := rfl
@[simp] theorem thirds_onStack (s : State) (k : Nat) (f : Stack → Stack) : (s.onStack k f).thirds = s.thirds := rfl
@[simp] theorem cycle_onStack (s : State) (k : Nat) (f : Stack → Stack) : (s.onStack k f).cycle = s.cycle := rfl
@[simp] theorem turn_onStack (s : State) (k : Nat) (f : Stack → Stack) : (s.onStack k f).turn = s.turn := rfl
@[simp] theorem cur_onStack (s : State) (k : Nat) (f : Stack → Stack) : (s.onStack k f).cur = s.cur := rfl
@[simp] theorem latch_onStack (s : State) (k : Nat) (f : Stack → Stack) : (s.onStack k f).latch = s.latch := rfl
@[simp] theorem blen_onStack (s : State) (k : Nat) (f : Stack → Stack) : (s.onStack k f).blen = s.blen := rfl
@[simp] theorem nextId_onStack (s : State) (k : Nat) (f : Stack → Stack) : (s.onStack k f).nextId = s.nextId := rfl
@[simp] theorem agenda_onStack (s : State) (k : Nat) (f : Stack → Stack) : (s.onStack k f).agenda = s.agenda := rfl
@[simp] theorem free_onStack (s : State) (k : Nat) (f : Stack → Stack) : (s.onStack k f).free = s.free := rfl

/-! ### onBerth -/

@[simp] theorem cores_onBerth (s : State) (b : Nat) (f : Berth → Berth) : (s.onBerth b f).cores = s.cores := rfl
@[simp] theorem parts_onBerth (s : State) (b : Nat) (f : Berth → Berth) : (s.onBerth b f).parts = s.parts := rfl
@[simp] theorem hbmStacks_onBerth (s : State) (b : Nat) (f : Berth → Berth) : (s.onBerth b f).hbmStacks = s.hbmStacks := rfl
@[simp] theorem dies_onBerth (s : State) (b : Nat) (f : Berth → Berth) : (s.onBerth b f).dies = s.dies := rfl
@[simp] theorem mem_onBerth (s : State) (b : Nat) (f : Berth → Berth) : (s.onBerth b f).mem = s.mem := rfl
@[simp] theorem lmeta_onBerth (s : State) (b : Nat) (f : Berth → Berth) : (s.onBerth b f).lmeta = s.lmeta := rfl
@[simp] theorem risers_onBerth (s : State) (b : Nat) (f : Berth → Berth) : (s.onBerth b f).risers = s.risers := rfl
@[simp] theorem copies_onBerth (s : State) (b : Nat) (f : Berth → Berth) : (s.onBerth b f).copies = s.copies := rfl
@[simp] theorem engFree_onBerth (s : State) (b : Nat) (f : Berth → Berth) : (s.onBerth b f).engFree = s.engFree := rfl
@[simp] theorem fabric_onBerth (s : State) (b : Nat) (f : Berth → Berth) : (s.onBerth b f).fabric = s.fabric := rfl
@[simp] theorem reqs_onBerth (s : State) (b : Nat) (f : Berth → Berth) : (s.onBerth b f).reqs = s.reqs := rfl
@[simp] theorem puts_onBerth (s : State) (b : Nat) (f : Berth → Berth) : (s.onBerth b f).puts = s.puts := rfl
@[simp] theorem filters_onBerth (s : State) (b : Nat) (f : Berth → Berth) : (s.onBerth b f).filters = s.filters := rfl
@[simp] theorem walks_onBerth (s : State) (b : Nat) (f : Berth → Berth) : (s.onBerth b f).walks = s.walks := rfl
@[simp] theorem grants_onBerth (s : State) (b : Nat) (f : Berth → Berth) : (s.onBerth b f).grants = s.grants := rfl
@[simp] theorem invals_onBerth (s : State) (b : Nat) (f : Berth → Berth) : (s.onBerth b f).invals = s.invals := rfl
@[simp] theorem hostHold_onBerth (s : State) (b : Nat) (f : Berth → Berth) : (s.onBerth b f).hostHold = s.hostHold := rfl
@[simp] theorem hostUp_onBerth (s : State) (b : Nat) (f : Berth → Berth) : (s.onBerth b f).hostUp = s.hostUp := rfl
@[simp] theorem msix_onBerth (s : State) (b : Nat) (f : Berth → Berth) : (s.onBerth b f).msix = s.msix := rfl
@[simp] theorem mroute_onBerth (s : State) (b : Nat) (f : Berth → Berth) : (s.onBerth b f).mroute = s.mroute := rfl
@[simp] theorem modid_onBerth (s : State) (b : Nat) (f : Berth → Berth) : (s.onBerth b f).modid = s.modid := rfl
@[simp] theorem riser_onBerth (s : State) (b : Nat) (f : Berth → Berth) : (s.onBerth b f).riser = s.riser := rfl
@[simp] theorem sealper_onBerth (s : State) (b : Nat) (f : Berth → Berth) : (s.onBerth b f).sealper = s.sealper := rfl
@[simp] theorem inj_onBerth (s : State) (b : Nat) (f : Berth → Berth) : (s.onBerth b f).inj = s.inj := rfl
@[simp] theorem injCount_onBerth (s : State) (b : Nat) (f : Berth → Berth) : (s.onBerth b f).injCount = s.injCount := rfl
@[simp] theorem injSeen_onBerth (s : State) (b : Nat) (f : Berth → Berth) : (s.onBerth b f).injSeen = s.injSeen := rfl
@[simp] theorem injHeld_onBerth (s : State) (b : Nat) (f : Berth → Berth) : (s.onBerth b f).injHeld = s.injHeld := rfl
@[simp] theorem mgmt_onBerth (s : State) (b : Nat) (f : Berth → Berth) : (s.onBerth b f).mgmt = s.mgmt := rfl
@[simp] theorem mtime_onBerth (s : State) (b : Nat) (f : Berth → Berth) : (s.onBerth b f).mtime = s.mtime := rfl
@[simp] theorem thirds_onBerth (s : State) (b : Nat) (f : Berth → Berth) : (s.onBerth b f).thirds = s.thirds := rfl
@[simp] theorem cycle_onBerth (s : State) (b : Nat) (f : Berth → Berth) : (s.onBerth b f).cycle = s.cycle := rfl
@[simp] theorem turn_onBerth (s : State) (b : Nat) (f : Berth → Berth) : (s.onBerth b f).turn = s.turn := rfl
@[simp] theorem cur_onBerth (s : State) (b : Nat) (f : Berth → Berth) : (s.onBerth b f).cur = s.cur := rfl
@[simp] theorem latch_onBerth (s : State) (b : Nat) (f : Berth → Berth) : (s.onBerth b f).latch = s.latch := rfl
@[simp] theorem blen_onBerth (s : State) (b : Nat) (f : Berth → Berth) : (s.onBerth b f).blen = s.blen := rfl
@[simp] theorem nextId_onBerth (s : State) (b : Nat) (f : Berth → Berth) : (s.onBerth b f).nextId = s.nextId := rfl
@[simp] theorem agenda_onBerth (s : State) (b : Nat) (f : Berth → Berth) : (s.onBerth b f).agenda = s.agenda := rfl
@[simp] theorem free_onBerth (s : State) (b : Nat) (f : Berth → Berth) : (s.onBerth b f).free = s.free := rfl

/-! ### onCtx -/

/-- A change of a context is a change of the cores alone. -/
theorem onCtx_eq (s : State) (c : Nat) (f : Ctx → Ctx) : ∃ m, s.onCtx c f = { s with cores := m } := by
  unfold onCtx
  split
  · exact ⟨_, rfl⟩
  · exact ⟨s.cores, rfl⟩

@[simp] theorem parts_onCtx (s : State) (c : Nat) (f : Ctx → Ctx) : (s.onCtx c f).parts = s.parts := by
  obtain ⟨m, h⟩ := onCtx_eq s c f; rw [h]
@[simp] theorem hbmStacks_onCtx (s : State) (c : Nat) (f : Ctx → Ctx) : (s.onCtx c f).hbmStacks = s.hbmStacks := by
  obtain ⟨m, h⟩ := onCtx_eq s c f; rw [h]
@[simp] theorem dies_onCtx (s : State) (c : Nat) (f : Ctx → Ctx) : (s.onCtx c f).dies = s.dies := by
  obtain ⟨m, h⟩ := onCtx_eq s c f; rw [h]
@[simp] theorem mem_onCtx (s : State) (c : Nat) (f : Ctx → Ctx) : (s.onCtx c f).mem = s.mem := by
  obtain ⟨m, h⟩ := onCtx_eq s c f; rw [h]
@[simp] theorem lmeta_onCtx (s : State) (c : Nat) (f : Ctx → Ctx) : (s.onCtx c f).lmeta = s.lmeta := by
  obtain ⟨m, h⟩ := onCtx_eq s c f; rw [h]
@[simp] theorem risers_onCtx (s : State) (c : Nat) (f : Ctx → Ctx) : (s.onCtx c f).risers = s.risers := by
  obtain ⟨m, h⟩ := onCtx_eq s c f; rw [h]
@[simp] theorem copies_onCtx (s : State) (c : Nat) (f : Ctx → Ctx) : (s.onCtx c f).copies = s.copies := by
  obtain ⟨m, h⟩ := onCtx_eq s c f; rw [h]
@[simp] theorem engFree_onCtx (s : State) (c : Nat) (f : Ctx → Ctx) : (s.onCtx c f).engFree = s.engFree := by
  obtain ⟨m, h⟩ := onCtx_eq s c f; rw [h]
@[simp] theorem fabric_onCtx (s : State) (c : Nat) (f : Ctx → Ctx) : (s.onCtx c f).fabric = s.fabric := by
  obtain ⟨m, h⟩ := onCtx_eq s c f; rw [h]
@[simp] theorem reqs_onCtx (s : State) (c : Nat) (f : Ctx → Ctx) : (s.onCtx c f).reqs = s.reqs := by
  obtain ⟨m, h⟩ := onCtx_eq s c f; rw [h]
@[simp] theorem puts_onCtx (s : State) (c : Nat) (f : Ctx → Ctx) : (s.onCtx c f).puts = s.puts := by
  obtain ⟨m, h⟩ := onCtx_eq s c f; rw [h]
@[simp] theorem filters_onCtx (s : State) (c : Nat) (f : Ctx → Ctx) : (s.onCtx c f).filters = s.filters := by
  obtain ⟨m, h⟩ := onCtx_eq s c f; rw [h]
@[simp] theorem walks_onCtx (s : State) (c : Nat) (f : Ctx → Ctx) : (s.onCtx c f).walks = s.walks := by
  obtain ⟨m, h⟩ := onCtx_eq s c f; rw [h]
@[simp] theorem grants_onCtx (s : State) (c : Nat) (f : Ctx → Ctx) : (s.onCtx c f).grants = s.grants := by
  obtain ⟨m, h⟩ := onCtx_eq s c f; rw [h]
@[simp] theorem invals_onCtx (s : State) (c : Nat) (f : Ctx → Ctx) : (s.onCtx c f).invals = s.invals := by
  obtain ⟨m, h⟩ := onCtx_eq s c f; rw [h]
@[simp] theorem berths_onCtx (s : State) (c : Nat) (f : Ctx → Ctx) : (s.onCtx c f).berths = s.berths := by
  obtain ⟨m, h⟩ := onCtx_eq s c f; rw [h]
@[simp] theorem hostHold_onCtx (s : State) (c : Nat) (f : Ctx → Ctx) : (s.onCtx c f).hostHold = s.hostHold := by
  obtain ⟨m, h⟩ := onCtx_eq s c f; rw [h]
@[simp] theorem hostUp_onCtx (s : State) (c : Nat) (f : Ctx → Ctx) : (s.onCtx c f).hostUp = s.hostUp := by
  obtain ⟨m, h⟩ := onCtx_eq s c f; rw [h]
@[simp] theorem msix_onCtx (s : State) (c : Nat) (f : Ctx → Ctx) : (s.onCtx c f).msix = s.msix := by
  obtain ⟨m, h⟩ := onCtx_eq s c f; rw [h]
@[simp] theorem mroute_onCtx (s : State) (c : Nat) (f : Ctx → Ctx) : (s.onCtx c f).mroute = s.mroute := by
  obtain ⟨m, h⟩ := onCtx_eq s c f; rw [h]
@[simp] theorem modid_onCtx (s : State) (c : Nat) (f : Ctx → Ctx) : (s.onCtx c f).modid = s.modid := by
  obtain ⟨m, h⟩ := onCtx_eq s c f; rw [h]
@[simp] theorem riser_onCtx (s : State) (c : Nat) (f : Ctx → Ctx) : (s.onCtx c f).riser = s.riser := by
  obtain ⟨m, h⟩ := onCtx_eq s c f; rw [h]
@[simp] theorem sealper_onCtx (s : State) (c : Nat) (f : Ctx → Ctx) : (s.onCtx c f).sealper = s.sealper := by
  obtain ⟨m, h⟩ := onCtx_eq s c f; rw [h]
@[simp] theorem inj_onCtx (s : State) (c : Nat) (f : Ctx → Ctx) : (s.onCtx c f).inj = s.inj := by
  obtain ⟨m, h⟩ := onCtx_eq s c f; rw [h]
@[simp] theorem injCount_onCtx (s : State) (c : Nat) (f : Ctx → Ctx) : (s.onCtx c f).injCount = s.injCount := by
  obtain ⟨m, h⟩ := onCtx_eq s c f; rw [h]
@[simp] theorem injSeen_onCtx (s : State) (c : Nat) (f : Ctx → Ctx) : (s.onCtx c f).injSeen = s.injSeen := by
  obtain ⟨m, h⟩ := onCtx_eq s c f; rw [h]
@[simp] theorem injHeld_onCtx (s : State) (c : Nat) (f : Ctx → Ctx) : (s.onCtx c f).injHeld = s.injHeld := by
  obtain ⟨m, h⟩ := onCtx_eq s c f; rw [h]
@[simp] theorem mgmt_onCtx (s : State) (c : Nat) (f : Ctx → Ctx) : (s.onCtx c f).mgmt = s.mgmt := by
  obtain ⟨m, h⟩ := onCtx_eq s c f; rw [h]
@[simp] theorem mtime_onCtx (s : State) (c : Nat) (f : Ctx → Ctx) : (s.onCtx c f).mtime = s.mtime := by
  obtain ⟨m, h⟩ := onCtx_eq s c f; rw [h]
@[simp] theorem thirds_onCtx (s : State) (c : Nat) (f : Ctx → Ctx) : (s.onCtx c f).thirds = s.thirds := by
  obtain ⟨m, h⟩ := onCtx_eq s c f; rw [h]
@[simp] theorem cycle_onCtx (s : State) (c : Nat) (f : Ctx → Ctx) : (s.onCtx c f).cycle = s.cycle := by
  obtain ⟨m, h⟩ := onCtx_eq s c f; rw [h]
@[simp] theorem turn_onCtx (s : State) (c : Nat) (f : Ctx → Ctx) : (s.onCtx c f).turn = s.turn := by
  obtain ⟨m, h⟩ := onCtx_eq s c f; rw [h]
@[simp] theorem cur_onCtx (s : State) (c : Nat) (f : Ctx → Ctx) : (s.onCtx c f).cur = s.cur := by
  obtain ⟨m, h⟩ := onCtx_eq s c f; rw [h]
@[simp] theorem latch_onCtx (s : State) (c : Nat) (f : Ctx → Ctx) : (s.onCtx c f).latch = s.latch := by
  obtain ⟨m, h⟩ := onCtx_eq s c f; rw [h]
@[simp] theorem blen_onCtx (s : State) (c : Nat) (f : Ctx → Ctx) : (s.onCtx c f).blen = s.blen := by
  obtain ⟨m, h⟩ := onCtx_eq s c f; rw [h]
@[simp] theorem nextId_onCtx (s : State) (c : Nat) (f : Ctx → Ctx) : (s.onCtx c f).nextId = s.nextId := by
  obtain ⟨m, h⟩ := onCtx_eq s c f; rw [h]
@[simp] theorem agenda_onCtx (s : State) (c : Nat) (f : Ctx → Ctx) : (s.onCtx c f).agenda = s.agenda := by
  obtain ⟨m, h⟩ := onCtx_eq s c f; rw [h]
@[simp] theorem free_onCtx (s : State) (c : Nat) (f : Ctx → Ctx) : (s.onCtx c f).free = s.free := by
  obtain ⟨m, h⟩ := onCtx_eq s c f; rw [h]

/-! ### Contexts -/

/-- A core with a context is not a core after reset. -/
theorem core_ne_reset {k : Core} {x : Ctx} (h : k.ctx = some x) : k ≠ Core.reset := by
  intro e; rw [e] at h; cases h

@[simp] theorem core_setCtx (s : State) (c : Nat) (x : Ctx) : (s.setCtx c x).core c = { s.core c with ctx := some x } :=
  SMap.get_put_new (core_ne_reset rfl) s.cores c

@[simp] theorem ctx_setCtx (s : State) (c : Nat) (x : Ctx) : (s.setCtx c x).ctx c = some x := by
  rw [State.ctx, core_setCtx]

theorem core_setCtx_ne (s : State) {c d : Nat} (h : d ≠ c) (x : Ctx) : (s.setCtx c x).core d = s.core d :=
  SMap.get_put_new_ne (core_ne_reset rfl) s.cores h

theorem ctx_setCtx_ne (s : State) {c d : Nat} (h : d ≠ c) (x : Ctx) : (s.setCtx c x).ctx d = s.ctx d := by
  rw [State.ctx, State.ctx, core_setCtx_ne s h]

@[simp] theorem core_setPart (s : State) (p : Nat) (q : Part) (c : Nat) : (s.setPart p q).core c = s.core c := rfl
@[simp] theorem ctx_setPart (s : State) (p : Nat) (q : Part) (c : Nat) : (s.setPart p q).ctx c = s.ctx c := rfl
@[simp] theorem core_onPart (s : State) (p : Nat) (f : Part → Part) (c : Nat) : (s.onPart p f).core c = s.core c := rfl
@[simp] theorem ctx_onPart (s : State) (p : Nat) (f : Part → Part) (c : Nat) : (s.onPart p f).ctx c = s.ctx c := rfl
@[simp] theorem core_onTeam (s : State) (p t : Nat) (f : Team → Team) (c : Nat) : (s.onTeam p t f).core c = s.core c := rfl
@[simp] theorem ctx_onTeam (s : State) (p t : Nat) (f : Team → Team) (c : Nat) : (s.onTeam p t f).ctx c = s.ctx c := rfl
@[simp] theorem part_setCtx (s : State) (c : Nat) (x : Ctx) (p : Nat) : (s.setCtx c x).part p = s.part p := rfl
@[simp] theorem part_setCore (s : State) (c : Nat) (k : Core) (p : Nat) : (s.setCore c k).part p = s.part p := rfl

theorem onCtx_of_ctx {s : State} {c : Nat} {x : Ctx} (h : s.ctx c = some x) (f : Ctx → Ctx) : s.onCtx c f = s.setCtx c (f x) := by
  unfold onCtx; rw [h]

/-- A change of an existing partition reads back. -/
theorem part_onPart {s : State} {p : Nat} (h : p < s.parts.length) (f : Part → Part) : (s.onPart p f).part p = f (s.part p) := by
  simp [State.onPart, State.setPart, State.part, List.getD, h]

/-- A change of a partition leaves the others alone. -/
theorem part_onPart_ne {s : State} {p r : Nat} (h : r ≠ p) (f : Part → Part) : (s.onPart p f).part r = s.part r := by
  simp [State.onPart, State.setPart, State.part, List.getD, Ne.symm h]

theorem stack_onStack {s : State} {k : Nat} (h : k < s.hbmStacks.length) (f : Stack → Stack) : (s.onStack k f).stack k = f (s.stack k) := by
  simp [State.onStack, State.stack, List.getD, h]

theorem berth_onBerth {s : State} {b : Nat} (h : b < s.berths.length) (f : Berth → Berth) : (s.onBerth b f).berth b = f (s.berth b) := by
  simp [State.onBerth, State.berth, List.getD, h]

end Sys2Proof.Machine.State
end

