-- ==== Sys2Proof/Laws/Memory.lean ====
section
/-!
SUPPORT. The invariant of memory under the shared operations: every one of them keeps memory, the list of cores and every scratchpad in their canonical form, and the machine after reset has it.
-/

namespace Sys2Proof.Machine

theorem State.Inv.reset : State.reset.Inv := ⟨rfl, rfl, fun _ => rfl⟩

/-- An operation that leaves memory and the cores alone keeps the invariant. -/
theorem State.Inv.of_eq {s t : State} (i : s.Inv) (m : t.mem = s.mem) (c : t.cores = s.cores) : t.Inv := by
  obtain ⟨a, b, d⟩ := i
  refine ⟨m ▸ a, c ▸ b, fun k => ?_⟩
  have : t.core k = s.core k := by simp [State.core, c]
  rw [this]; exact d k

theorem State.Inv.setCore {s : State} {c : Nat} {k : Core} (i : s.Inv) (w : Memory.wf k.mem = true) : (s.setCore c k).Inv := by
  obtain ⟨a, b, d⟩ := i
  refine ⟨a, SMap.put_wf b, fun e => ?_⟩
  by_cases h : e = c
  · subst h; simp [State.core, State.setCore, SMap.get_put_same b, w]
  · simpa [State.core, State.setCore, SMap.get_put_ne h b] using d e

theorem State.Inv.setCtx {s : State} {c : Nat} {x : Ctx} (i : s.Inv) : (s.setCtx c x).Inv := i.setCore (i.2.2 c)

theorem State.Inv.onCtx {s : State} {c : Nat} {f : Ctx → Ctx} (i : s.Inv) : (s.onCtx c f).Inv := by
  unfold State.onCtx
  split
  · exact i.setCtx
  · exact i

theorem State.Inv.bump {s : State} {c n : Nat} (i : s.Inv) : (s.bump c n).Inv := i.onCtx
theorem State.Inv.released {s : State} {c sc : Nat} (i : s.Inv) : (s.released c sc).Inv := i.onCtx
theorem State.Inv.hold {s : State} (i : s.Inv) : s.hold.Inv := i.onCtx
theorem State.Inv.dropLines {s : State} {c : Nat} {f : Nat → Nat → Nat → Bool} (i : s.Inv) : (s.dropLines c f).Inv := by
  unfold State.dropLines
  refine State.Inv.of_eq (s := s.setCore c { s.core c with window := _ }) (i.setCore ?_) rfl rfl
  exact i.2.2 c
theorem State.Inv.acquire {s : State} {c sc : Nat} (i : s.Inv) : (s.acquire c sc).Inv := i.dropLines.onCtx
theorem State.Inv.acquireCross {s : State} {c sc : Nat} (i : s.Inv) : (s.acquireCross c sc).Inv := i.acquire.setCore (i.acquire.2.2 c)
theorem State.Inv.onPart {s : State} {p : Nat} {f : Part → Part} (i : s.Inv) : (s.onPart p f).Inv := i.of_eq rfl rfl
theorem State.Inv.onTeam {s : State} {p t : Nat} {f : Team → Team} (i : s.Inv) : (s.onTeam p t f).Inv := i.onPart
theorem State.Inv.onStack {s : State} {k : Nat} {f : Stack → Stack} (i : s.Inv) : (s.onStack k f).Inv := i.of_eq rfl rfl
theorem State.Inv.onBerth {s : State} {b : Nat} {f : Berth → Berth} (i : s.Inv) : (s.onBerth b f).Inv := i.of_eq rfl rfl
theorem State.Inv.blackBox {s : State} {p k c d : Nat} (i : s.Inv) : (s.blackBox p k c d).Inv := i.onPart

theorem State.Inv.msi {s : State} {v : Nat} (i : s.Inv) : (s.msi v).Inv := by
  unfold State.msi
  split
  · exact i
  · exact i.of_eq rfl rfl

theorem State.Inv.raise {s : State} {p : Nat} {f : FaultInfo} (i : s.Inv) : (s.raise p f).Inv := by
  unfold State.raise
  dsimp only
  split <;> exact i.onPart

theorem State.Inv.issueFault {s : State} {n c d : Nat} (i : s.Inv) : (s.issueFault n c d).Inv := by
  unfold State.issueFault
  split
  · exact i
  · exact i.setCtx.raise

theorem State.Inv.onTrace {s : State} {c : Nat} {f : Trace → Trace} (i : s.Inv) : (s.onTrace c f).Inv := i.setCore (i.2.2 c)

/-- Writes by physical address keep the canonical form. -/
theorem State.Inv.writePhys {s : State} {a : Nat} {bs : List Byte} (i : s.Inv) : (s.writePhys a bs).Inv := by
  obtain ⟨w, b, d⟩ := i
  refine ⟨?_, b, d⟩
  simp only [State.writePhys]
  generalize bs.zipIdx = l
  have (m : SMap Byte) (w : Memory.wf m = true) :
      Memory.wf (l.foldl (fun m e => SMap.put 0 m ((s.dram (a + e.2)).getD (a + e.2)) e.1) m) = true := by
    induction l generalizing m with
    | nil => exact w
    | cons e l ih => exact ih _ (SMap.put_wf w)
  exact this _ w

/-- An engine's write keeps a scratchpad's canonical form. -/
theorem engineWrite_wf {k : Core} {a : Nat} {bs : List Byte} (w : Memory.wf k.mem = true) : Memory.wf (k.engineWrite a bs).mem = true :=
  Memory.write_wf w

theorem State.Inv.engineWrite {s : State} {c a : Nat} {bs : List Byte} (i : s.Inv) : (s.setCore c ((s.core c).engineWrite a bs)).Inv :=
  i.setCore (engineWrite_wf (i.2.2 c))

theorem State.Inv.padWrite {s : State} {c : Nat} {bs : List MByte} (i : s.Inv) : (padWrite s c bs).Inv := by
  unfold Machine.padWrite
  induction bs generalizing s with
  | nil => exact i
  | cons e l ih => exact ih i.engineWrite

/-- Pending stores that are due keep a scratchpad's canonical form. -/
theorem commitStores_wf {m : SMap Byte} {x : Ctx} (w : Memory.wf m = true) : Memory.wf (commitStores m x).1 = true := by
  unfold commitStores
  generalize duePending x = l
  induction l generalizing m x with
  | nil => exact w
  | cons p l ih => exact ih (Memory.writeBytes_wf w)

theorem State.Inv.wroteIn {s : State} {p : Nat} (i : s.Inv) : (s.wroteIn p).Inv := by
  unfold State.wroteIn State.requestSeal
  dsimp only
  split
  · exact i
  · split
    · exact i.onPart.onPart
    · exact i.onPart

theorem State.Inv.inject {s : State} {p n u a : Nat} (i : s.Inv) : (s.inject p n u a).Inv := by
  unfold State.inject
  split <;> exact i.of_eq rfl rfl

theorem State.Inv.foldl {α : Type} {f : State → α → State} (h : ∀ s a, s.Inv → (f s a).Inv) (l : List α) {s : State} (i : s.Inv) : (l.foldl f s).Inv := by
  induction l generalizing s with
  | nil => exact i
  | cons a l ih => exact ih (h s a i)

theorem State.Inv.pressure {s : State} {h : Nat} (i : s.Inv) : (s.pressure h).Inv := by
  unfold State.pressure
  split
  · exact State.Inv.foldl (fun s _ i => State.Inv.onPart i) _ i
  · exact i

theorem State.Inv.append {s t : State} {h : Nat} {e : RiserEntry} (i : s.Inv) (a : s.append h e = some t) : t.Inv := by
  unfold State.append at a
  generalize (if e.cell then 144 else 80) = n at a
  split at a
  · cases a; refine State.Inv.pressure ?_; exact i.of_eq rfl rfl
  · cases a

theorem State.Inv.logLine {s t : State} {p l : Nat} (i : s.Inv) (a : s.logLine p l = some t) : t.Inv := by
  unfold State.logLine at a
  dsimp only at a
  split at a
  · cases a; exact i
  · rw [Option.map_eq_some_iff] at a
    obtain ⟨u, b, rfl⟩ := a
    exact (i.append b).of_eq rfl rfl

/-- A logged write keeps the canonical form (R427). -/
theorem State.Inv.homeWrite {s t : State} {p u n : Nat} {bs : List MByte} (i : s.Inv) (a : s.homeWrite p u n bs = some t) : t.Inv := by
  unfold State.homeWrite at a
  split at a
  · cases a; exact i
  · rw [Option.map_eq_some_iff] at a
    obtain ⟨v, b, rfl⟩ := a
    refine State.Inv.inject (State.Inv.wroteIn ?_)
    have j := i.logLine b
    exact ⟨Memory.mergeBytes_wf j.1, j.2⟩

theorem State.Inv.homeStore {s t : State} {p u a : Nat} {bs : List Byte} (i : s.Inv) (h : s.homeStore p u a bs = some t) : t.Inv := i.homeWrite h

/-- An undone write keeps the canonical form (R438). -/
theorem State.Inv.undo {s : State} {h : Nat} {e : RiserEntry} (i : s.Inv) : (undo s h e).Inv := by
  unfold Machine.undo
  split
  · exact i.onStack
  · exact ⟨Memory.write_wf i.1, i.2⟩

end Sys2Proof.Machine
end

