-- ==== Sys2Proof/Laws/Ops.lean ====
section
/-!
SUPPORT. One lemma per shared operation: what the frames of slot syllables and engine steps answer.
-/

namespace Sys2Proof.Machine

variable {h : Hdr} {s : State} {x y : Ctx}

/-- A syllable whose guard is false changes nothing (R19). -/
theorem sylS_off {go : Core → Ctx → Act State} (hx : s.ctx s.cur = some x) (hg : x.guard h = false) : sylS h s go = .next s := by
  simp [sylS, hx, hg]

theorem sylS_ok {go : Core → Ctx → Act State} {t : State} (a : Acts s h x) (e : go (s.core s.cur) x = .ok t) : sylS h s go = .next t := by
  simp [sylS, a.1, a.2, e]

theorem sylS_fault {go : Core → Ctx → Act State} {c d : Nat} (a : Acts s h x) (e : go (s.core s.cur) x = .fault c d) :
    sylS h s go = .next (s.issueFault (slotNo h.slot) c d) := by
  simp [sylS, a.1, a.2, e]

theorem sylS_wait {go : Core → Ctx → Act State} (a : Acts s h x) (e : go (s.core s.cur) x = .wait) : sylS h s go = .next s.hold := by
  simp [sylS, a.1, a.2, e]

theorem syl_off {go : Core → Ctx → Act Ctx} (hx : s.ctx s.cur = some x) (hg : x.guard h = false) : syl h s go = .next s := sylS_off hx hg

/-- A syllable on its own context that acts replaces that context. -/
theorem syl_ok {go : Core → Ctx → Act Ctx} (a : Acts s h x) (e : go (s.core s.cur) x = .ok y) : syl h s go = .next (s.put y) :=
  sylS_ok a (by simp [e, Act.bind, State.put])

theorem syl_fault {go : Core → Ctx → Act Ctx} {c d : Nat} (a : Acts s h x) (e : go (s.core s.cur) x = .fault c d) :
    syl h s go = .next (s.issueFault (slotNo h.slot) c d) :=
  sylS_fault a (by simp [e, Act.bind])

theorem syl_wait {go : Core → Ctx → Act Ctx} (a : Acts s h x) (e : go (s.core s.cur) x = .wait) : syl h s go = .next s.hold :=
  sylS_wait a (by simp [e, Act.bind])

/-- A step of `syl` leaves everything but the current context, or raises the halt line, or holds. -/
theorem sylS_next {go : Core → Ctx → Act State} {t : State} (hx : s.ctx s.cur = some x) (e : sylS h s go = .next t) :
    t = s ∨ (x.guard h = true ∧ ((∃ c d, go (s.core s.cur) x = .fault c d ∧ t = s.issueFault (slotNo h.slot) c d) ∨
      (go (s.core s.cur) x = .wait ∧ t = s.hold) ∨ go (s.core s.cur) x = .ok t)) := by
  simp only [sylS, hx] at e
  by_cases g : x.guard h = true
  · simp only [g, if_true] at e
    cases r : go (s.core s.cur) x with
    | fault c d => simp only [r] at e; cases e; exact .inr ⟨g, .inl ⟨c, d, rfl, rfl⟩⟩
    | wait => simp only [r] at e; cases e; exact .inr ⟨g, .inr (.inl ⟨rfl, rfl⟩)⟩
    | ok u => simp only [r] at e; cases e; exact .inr ⟨g, .inr (.inr rfl)⟩
  · simp only [g] at e; cases e; exact .inl rfl

theorem engine_some {f : State → Option State} {t : State} (e : f s = some t) : engine f s = .next t := by simp [engine, e]

theorem engine_none {f : State → Option State} (e : f s = none) : engine f s = .next s := by simp [engine, e]

/-- Reading a port changes nothing but the pops of the bundle. -/
theorem readPort_eq {n : BitVec 7} (e : x.readPort n = .ok y) : y = { x with pops := y.pops } := by
  unfold Ctx.readPort at e
  split at e
  · cases e; rfl
  · repeat' (split at e)
    all_goals first | (cases e; rfl) | cases e

theorem readPorts_eq {ns : List (BitVec 7)} (e : x.readPorts ns = .ok y) : y = { x with pops := y.pops } := by
  induction ns generalizing x with
  | nil => cases e; rfl
  | cons n ns ih =>
    simp only [Ctx.readPorts] at e
    cases r : x.readPort n with
    | fault c d => simp [r] at e
    | wait => simp only [r] at e; split at e <;> cases e
    | ok z => simp only [r] at e; rw [ih e, readPort_eq r]

/-- Whether a port can be read does not depend on the pops of the bundle. -/
theorem readPort_pops {n : BitVec 7} (e : x.readPort n = .ok y) (p : List Nat) : ∃ z, { x with pops := p }.readPort n = .ok z := by
  have hp : { x with pops := p }.port n = x.port n := rfl
  unfold Ctx.readPort at e ⊢
  rw [hp]
  split at e
  · exact ⟨_, rfl⟩
  · repeat' (split at e)
    all_goals first | (cases e; done) | exact ⟨_, by rw [if_neg (by assumption), if_neg (by assumption), if_neg (by assumption)]⟩

/-- Where the vectors `reads` can be read, so can some of them. -/
theorem readPorts_sub {reads deps : List (BitVec 7)} (e : x.readPorts reads = .ok y) (hd : ∀ n ∈ deps, n ∈ reads) : ∃ z, x.readPorts deps = .ok z := by
  have each : ∀ n ∈ reads, ∀ p, ∃ z, { x with pops := p }.readPort n = .ok z := by
    clear hd
    intro n hn p
    induction reads generalizing x with
    | nil => cases hn
    | cons m ms ih =>
      simp only [Ctx.readPorts] at e
      cases r : x.readPort m with
      | fault c d => simp [r] at e
      | wait => simp only [r] at e; split at e <;> cases e
      | ok z =>
        rcases List.mem_cons.1 hn with rfl | hn
        · exact readPort_pops r p
        · simp only [r] at e
          rw [readPort_eq r] at e
          exact ih (x := { x with pops := z.pops }) e hn
  clear e
  have all : ∀ p, ∃ z, { x with pops := p }.readPorts deps = .ok z := by
    induction deps with
    | nil => exact fun p => ⟨_, rfl⟩
    | cons n ns ih =>
      intro p
      obtain ⟨z, hz⟩ := each n (hd n (by simp)) p
      simp only [Ctx.readPorts, hz]
      rw [readPort_eq hz]
      exact ih (fun m hm => hd m (by simp [hm])) z.pops
  exact all x.pops

/-- The vector frame where its operands are at hand and its own checks pass. -/
theorem vframe_ok {reads writes : List (BitVec 7)} {t : Bool} {ls : List Loc} {α : Type} {go : Ctx → Act α} {fin : Ctx → List Loc → α → Ctx} {v : α}
    {pre : Act Unit} {deps : List (BitVec 7)} (o : Operands x reads writes t y ls) (e : ∀ p, go { x with pops := p } = .ok v)
    (hp : pre = .ok () := by rfl) (hd : ∀ n ∈ deps, n ∈ reads := by simp) : vframe x reads writes t go fin pre deps = .ok (fin y ls v) := by
  obtain ⟨a, b, ha, hb, rfl⟩ := o
  subst hp
  obtain ⟨z, hz⟩ := readPorts_sub ha hd
  have h1 := e a.pops
  have h2 := e z.pops
  rw [← readPorts_eq ha] at h1
  rw [← readPorts_eq hz] at h2
  simp [vframe, ha, hb, hz, h1, h2, Act.bind]

/-- The vector frame where its operands are at hand and its own checks fault. -/
theorem vframe_fault {reads writes : List (BitVec 7)} {t : Bool} {ls : List Loc} {α : Type} {go : Ctx → Act α} {fin : Ctx → List Loc → α → Ctx} {c d : Nat}
    {pre : Act Unit} {deps : List (BitVec 7)} (o : Operands x reads writes t y ls) (e : ∀ p, go { x with pops := p } = .fault c d)
    (hp : pre = .ok () := by rfl) (hd : ∀ n ∈ deps, n ∈ reads := by simp) : vframe x reads writes t go fin pre deps = .fault c d := by
  obtain ⟨a, b, ha, hb, rfl⟩ := o
  subst hp
  obtain ⟨z, hz⟩ := readPorts_sub ha hd
  have h2 := e z.pops
  rw [← readPorts_eq hz] at h2
  simp [vframe, ha, hb, hz, h2, Act.bind]

/-- The vector frame where a check that reads no vector faults: it does so without waiting for a port (R32). -/
theorem vframe_pre {reads writes deps : List (BitVec 7)} {t : Bool} {ls : List Loc} {α : Type} {go : Ctx → Act α} {fin : Ctx → List Loc → α → Ctx}
    {pre : Act Unit} {c d : Nat} (o : Operands x reads writes t y ls) (hp : pre = .fault c d) : vframe x reads writes t go fin pre deps = .fault c d := by
  obtain ⟨a, b, ha, hb, rfl⟩ := o
  simp [vframe, ha, hb, hp, Act.bind]

end Sys2Proof.Machine
end

