-- ==== Sys2Proof/Laws/PerInstr.lean ====
section
/-!
SUPPORT. The family Encoding: for every instruction, the opcode and operands that `Instr.parts` gives it stand in the opcode table's format, and building from them gives the instruction back.
-/

namespace Sys2Proof.Laws.Encoding

/-- The format of operands. -/
def kind : Legal.Form → Legal.Kind
  | .f3 _ => .f3
  | .fi _ => .fi
  | .fm _ => .fm
  | .fb _ => .fb

/-- The instruction's parts name a defined opcode in its own format, and give the instruction back. -/
def Statement (i : Instr) : Prop :=
  i.formOk = true → ∀ c o h f, i.parts = some (c, o, h, f) → Legal.kindOf c o = some (kind f) ∧ o < 128 ∧ o ≠ 0 ∧ build c o h f = some i

theorem emptyBundle : Statement (.emptyBundle) := by
  intro _ c o h f e; cases e

theorem nop (h : Hdr) : Statement (.nop h) := by
  intro _ c o h f e; cases e

theorem stallEnd (c : Nat) : Statement (.stallEnd c) := by
  intro _ c o h f e; cases e

theorem resultLanding (c : Nat) : Statement (.resultLanding c) := by
  intro _ c o h f e; cases e

theorem cellLanding (c : Nat) : Statement (.cellLanding c) := by
  intro _ c o h f e; cases e

theorem br (h : Hdr) (f : FB) : Statement (.br h f) := by
  intro _ c o h f e; cases e; exact ⟨rfl, by decide, by decide, rfl⟩

theorem bri (h : Hdr) (f : FB) : Statement (.bri h f) := by
  intro _ c o h f e; cases e; exact ⟨rfl, by decide, by decide, rfl⟩

theorem call (h : Hdr) (f : FB) : Statement (.call h f) := by
  intro _ c o h f e; cases e; exact ⟨rfl, by decide, by decide, rfl⟩

theorem ret (h : Hdr) (f : FB) : Statement (.ret h f) := by
  intro _ c o h f e; cases e; exact ⟨rfl, by decide, by decide, rfl⟩

theorem loopi (h : Hdr) (f : FB) : Statement (.loopi h f) := by
  intro ok c o h f e; cases e; simp_all [Instr.formOk, build, buildBFB, Legal.kindOf, kind]

theorem loopiImm (h : Hdr) (f : FB) : Statement (.loopiImm h f) := by
  intro ok c o h f e; cases e; simp_all [Instr.formOk, build, buildBFB, Legal.kindOf, kind]

theorem loopb (h : Hdr) (f : FB) : Statement (.loopb h f) := by
  intro _ c o h f e; cases e; exact ⟨rfl, by decide, by decide, rfl⟩

theorem loopx (h : Hdr) (f : FB) : Statement (.loopx h f) := by
  intro _ c o h f e; cases e; exact ⟨rfl, by decide, by decide, rfl⟩

theorem rep (h : Hdr) (f : FB) : Statement (.rep h f) := by
  intro ok c o h f e; cases e; simp_all [Instr.formOk, build, buildBFB, Legal.kindOf, kind]

theorem repImm (h : Hdr) (f : FB) : Statement (.repImm h f) := by
  intro ok c o h f e; cases e; simp_all [Instr.formOk, build, buildBFB, Legal.kindOf, kind]

theorem nopn (h : Hdr) (f : FB) : Statement (.nopn h f) := by
  intro _ c o h f e; cases e; exact ⟨rfl, by decide, by decide, rfl⟩

theorem pset (h : Hdr) (f : F3) : Statement (.pset h f) := by
  intro _ c o h f e; cases e; exact ⟨rfl, by decide, by decide, rfl⟩

theorem pand (h : Hdr) (f : F3) : Statement (.pand h f) := by
  intro _ c o h f e; cases e; exact ⟨rfl, by decide, by decide, rfl⟩

theorem por (h : Hdr) (f : F3) : Statement (.por h f) := by
  intro _ c o h f e; cases e; exact ⟨rfl, by decide, by decide, rfl⟩

theorem pxor (h : Hdr) (f : F3) : Statement (.pxor h f) := by
  intro _ c o h f e; cases e; exact ⟨rfl, by decide, by decide, rfl⟩

theorem pnot (h : Hdr) (f : F3) : Statement (.pnot h f) := by
  intro _ c o h f e; cases e; exact ⟨rfl, by decide, by decide, rfl⟩

theorem pmov (h : Hdr) (f : F3) : Statement (.pmov h f) := by
  intro _ c o h f e; cases e; exact ⟨rfl, by decide, by decide, rfl⟩

theorem rvi (h : Hdr) (f : FB) : Statement (.rvi h f) := by
  intro _ c o h f e; cases e; exact ⟨rfl, by decide, by decide, rfl⟩

theorem rva (h : Hdr) (f : FB) : Statement (.rva h f) := by
  intro _ c o h f e; cases e; exact ⟨rfl, by decide, by decide, rfl⟩

theorem rvw (h : Hdr) (f : FB) : Statement (.rvw h f) := by
  intro _ c o h f e; cases e; exact ⟨rfl, by decide, by decide, rfl⟩

theorem rvaw (h : Hdr) (f : FB) : Statement (.rvaw h f) := by
  intro _ c o h f e; cases e; exact ⟨rfl, by decide, by decide, rfl⟩

theorem rendezvousArrival (p : Nat) (t : Nat) (k : Nat) : Statement (.rendezvousArrival p t k) := by
  intro _ c o h f e; cases e

theorem phint (h : Hdr) (f : FB) : Statement (.phint h f) := by
  intro _ c o h f e; cases e; exact ⟨rfl, by decide, by decide, rfl⟩

theorem trap (h : Hdr) (f : FB) : Statement (.trap h f) := by
  intro _ c o h f e; cases e; exact ⟨rfl, by decide, by decide, rfl⟩

theorem tend (h : Hdr) (f : FB) : Statement (.tend h f) := by
  intro _ c o h f e; cases e; exact ⟨rfl, by decide, by decide, rfl⟩

theorem tfail (h : Hdr) (f : FB) : Statement (.tfail h f) := by
  intro _ c o h f e; cases e; exact ⟨rfl, by decide, by decide, rfl⟩

theorem crr (h : Hdr) (f : F3) : Statement (.crr h f) := by
  intro _ c o h f e; cases e; exact ⟨rfl, by decide, by decide, rfl⟩

theorem crw (h : Hdr) (f : F3) : Statement (.crw h f) := by
  intro _ c o h f e; cases e; exact ⟨rfl, by decide, by decide, rfl⟩

theorem add (h : Hdr) (f : F3) : Statement (.add h f) := by
  intro _ c o h f e; cases e; exact ⟨rfl, by decide, by decide, rfl⟩

theorem sub (h : Hdr) (f : F3) : Statement (.sub h f) := by
  intro _ c o h f e; cases e; exact ⟨rfl, by decide, by decide, rfl⟩

theorem addi (h : Hdr) (f : FI) : Statement (.addi h f) := by
  intro _ c o h f e; cases e; exact ⟨rfl, by decide, by decide, rfl⟩

theorem and (h : Hdr) (f : F3) : Statement (.and h f) := by
  intro _ c o h f e; cases e; exact ⟨rfl, by decide, by decide, rfl⟩

theorem or (h : Hdr) (f : F3) : Statement (.or h f) := by
  intro _ c o h f e; cases e; exact ⟨rfl, by decide, by decide, rfl⟩

theorem xor (h : Hdr) (f : F3) : Statement (.xor h f) := by
  intro _ c o h f e; cases e; exact ⟨rfl, by decide, by decide, rfl⟩

theorem andi (h : Hdr) (f : FI) : Statement (.andi h f) := by
  intro _ c o h f e; cases e; exact ⟨rfl, by decide, by decide, rfl⟩

theorem ori (h : Hdr) (f : FI) : Statement (.ori h f) := by
  intro _ c o h f e; cases e; exact ⟨rfl, by decide, by decide, rfl⟩

theorem xori (h : Hdr) (f : FI) : Statement (.xori h f) := by
  intro _ c o h f e; cases e; exact ⟨rfl, by decide, by decide, rfl⟩

theorem sll (h : Hdr) (f : F3) : Statement (.sll h f) := by
  intro _ c o h f e; cases e; exact ⟨rfl, by decide, by decide, rfl⟩

theorem srl (h : Hdr) (f : F3) : Statement (.srl h f) := by
  intro _ c o h f e; cases e; exact ⟨rfl, by decide, by decide, rfl⟩

theorem sra (h : Hdr) (f : F3) : Statement (.sra h f) := by
  intro _ c o h f e; cases e; exact ⟨rfl, by decide, by decide, rfl⟩

theorem slli (h : Hdr) (f : FI) : Statement (.slli h f) := by
  intro _ c o h f e; cases e; exact ⟨rfl, by decide, by decide, rfl⟩

theorem srli (h : Hdr) (f : FI) : Statement (.srli h f) := by
  intro _ c o h f e; cases e; exact ⟨rfl, by decide, by decide, rfl⟩

theorem srai (h : Hdr) (f : FI) : Statement (.srai h f) := by
  intro _ c o h f e; cases e; exact ⟨rfl, by decide, by decide, rfl⟩

theorem mul (h : Hdr) (f : F3) : Statement (.mul h f) := by
  intro _ c o h f e; cases e; exact ⟨rfl, by decide, by decide, rfl⟩

theorem mulh (h : Hdr) (f : F3) : Statement (.mulh h f) := by
  intro _ c o h f e; cases e; exact ⟨rfl, by decide, by decide, rfl⟩

theorem mulhu (h : Hdr) (f : F3) : Statement (.mulhu h f) := by
  intro _ c o h f e; cases e; exact ⟨rfl, by decide, by decide, rfl⟩

theorem div (h : Hdr) (f : F3) : Statement (.div h f) := by
  intro _ c o h f e; cases e; exact ⟨rfl, by decide, by decide, rfl⟩

theorem divu (h : Hdr) (f : F3) : Statement (.divu h f) := by
  intro _ c o h f e; cases e; exact ⟨rfl, by decide, by decide, rfl⟩

theorem rem (h : Hdr) (f : F3) : Statement (.rem h f) := by
  intro ok c o h f e; cases e; simp_all [Instr.formOk, build, buildSF3, Legal.kindOf, kind]

theorem remu (h : Hdr) (f : F3) : Statement (.remu h f) := by
  intro ok c o h f e; cases e; simp_all [Instr.formOk, build, buildSF3, Legal.kindOf, kind]

theorem min (h : Hdr) (f : F3) : Statement (.min h f) := by
  intro _ c o h f e; cases e; exact ⟨rfl, by decide, by decide, rfl⟩

theorem max (h : Hdr) (f : F3) : Statement (.max h f) := by
  intro _ c o h f e; cases e; exact ⟨rfl, by decide, by decide, rfl⟩

theorem minu (h : Hdr) (f : F3) : Statement (.minu h f) := by
  intro _ c o h f e; cases e; exact ⟨rfl, by decide, by decide, rfl⟩

theorem maxu (h : Hdr) (f : F3) : Statement (.maxu h f) := by
  intro _ c o h f e; cases e; exact ⟨rfl, by decide, by decide, rfl⟩

theorem clz (h : Hdr) (f : F3) : Statement (.clz h f) := by
  intro _ c o h f e; cases e; exact ⟨rfl, by decide, by decide, rfl⟩

theorem popc (h : Hdr) (f : F3) : Statement (.popc h f) := by
  intro _ c o h f e; cases e; exact ⟨rfl, by decide, by decide, rfl⟩

theorem li (h : Hdr) (f : FI) : Statement (.li h f) := by
  intro _ c o h f e; cases e; exact ⟨rfl, by decide, by decide, rfl⟩

theorem lih (h : Hdr) (f : FI) : Statement (.lih h f) := by
  intro _ c o h f e; cases e; exact ⟨rfl, by decide, by decide, rfl⟩

theorem addsc (h : Hdr) (f : F3) : Statement (.addsc h f) := by
  intro _ c o h f e; cases e; exact ⟨rfl, by decide, by decide, rfl⟩

theorem cmp (h : Hdr) (f : F3) : Statement (.cmp h f) := by
  intro _ c o h f e; cases e; exact ⟨rfl, by decide, by decide, rfl⟩

theorem cmpi (h : Hdr) (f : FI) : Statement (.cmpi h f) := by
  intro _ c o h f e; cases e; exact ⟨rfl, by decide, by decide, rfl⟩

theorem sel (h : Hdr) (f : F3) : Statement (.sel h f) := by
  intro _ c o h f e; cases e; exact ⟨rfl, by decide, by decide, rfl⟩

theorem xmv (h : Hdr) (f : F3) : Statement (.xmv h f) := by
  intro _ c o h f e; cases e; exact ⟨rfl, by decide, by decide, rfl⟩

theorem ld (h : Hdr) (f : FM) : Statement (.ld h f) := by
  intro _ c o h f e; cases e; exact ⟨rfl, by decide, by decide, rfl⟩

theorem st (h : Hdr) (f : FM) : Statement (.st h f) := by
  intro _ c o h f e; cases e; exact ⟨rfl, by decide, by decide, rfl⟩

theorem fadd (h : Hdr) (f : F3) : Statement (.fadd h f) := by
  intro _ c o h f e; cases e; exact ⟨rfl, by decide, by decide, rfl⟩

theorem fsub (h : Hdr) (f : F3) : Statement (.fsub h f) := by
  intro _ c o h f e; cases e; exact ⟨rfl, by decide, by decide, rfl⟩

theorem fmul (h : Hdr) (f : F3) : Statement (.fmul h f) := by
  intro _ c o h f e; cases e; exact ⟨rfl, by decide, by decide, rfl⟩

theorem ffma (h : Hdr) (f : F3) : Statement (.ffma h f) := by
  intro _ c o h f e; cases e; exact ⟨rfl, by decide, by decide, rfl⟩

theorem fdiv (h : Hdr) (f : F3) : Statement (.fdiv h f) := by
  intro _ c o h f e; cases e; exact ⟨rfl, by decide, by decide, rfl⟩

theorem fsqrt (h : Hdr) (f : F3) : Statement (.fsqrt h f) := by
  intro _ c o h f e; cases e; exact ⟨rfl, by decide, by decide, rfl⟩

theorem fmin (h : Hdr) (f : F3) : Statement (.fmin h f) := by
  intro _ c o h f e; cases e; exact ⟨rfl, by decide, by decide, rfl⟩

theorem fmax (h : Hdr) (f : F3) : Statement (.fmax h f) := by
  intro _ c o h f e; cases e; exact ⟨rfl, by decide, by decide, rfl⟩

theorem fcmp (h : Hdr) (f : F3) : Statement (.fcmp h f) := by
  intro _ c o h f e; cases e; exact ⟨rfl, by decide, by decide, rfl⟩

theorem fcvt (h : Hdr) (f : F3) : Statement (.fcvt h f) := by
  intro _ c o h f e; cases e; exact ⟨rfl, by decide, by decide, rfl⟩

theorem shw (h : Hdr) (f : F3) : Statement (.shw h f) := by
  intro _ c o h f e; cases e; exact ⟨rfl, by decide, by decide, rfl⟩

theorem shrd (h : Hdr) (f : F3) : Statement (.shrd h f) := by
  intro _ c o h f e; cases e; exact ⟨rfl, by decide, by decide, rfl⟩

theorem vadd (h : Hdr) (f : F3) : Statement (.vadd h f) := by
  intro _ c o h f e; cases e; exact ⟨rfl, by decide, by decide, rfl⟩

theorem vsub (h : Hdr) (f : F3) : Statement (.vsub h f) := by
  intro _ c o h f e; cases e; exact ⟨rfl, by decide, by decide, rfl⟩

theorem vmul (h : Hdr) (f : F3) : Statement (.vmul h f) := by
  intro _ c o h f e; cases e; exact ⟨rfl, by decide, by decide, rfl⟩

theorem vmulh (h : Hdr) (f : F3) : Statement (.vmulh h f) := by
  intro _ c o h f e; cases e; exact ⟨rfl, by decide, by decide, rfl⟩

theorem vand (h : Hdr) (f : F3) : Statement (.vand h f) := by
  intro _ c o h f e; cases e; exact ⟨rfl, by decide, by decide, rfl⟩

theorem vor (h : Hdr) (f : F3) : Statement (.vor h f) := by
  intro _ c o h f e; cases e; exact ⟨rfl, by decide, by decide, rfl⟩

theorem vxor (h : Hdr) (f : F3) : Statement (.vxor h f) := by
  intro _ c o h f e; cases e; exact ⟨rfl, by decide, by decide, rfl⟩

theorem vsll (h : Hdr) (f : F3) : Statement (.vsll h f) := by
  intro _ c o h f e; cases e; exact ⟨rfl, by decide, by decide, rfl⟩

theorem vsrl (h : Hdr) (f : F3) : Statement (.vsrl h f) := by
  intro _ c o h f e; cases e; exact ⟨rfl, by decide, by decide, rfl⟩

theorem vsra (h : Hdr) (f : F3) : Statement (.vsra h f) := by
  intro _ c o h f e; cases e; exact ⟨rfl, by decide, by decide, rfl⟩

theorem vmin (h : Hdr) (f : F3) : Statement (.vmin h f) := by
  intro _ c o h f e; cases e; exact ⟨rfl, by decide, by decide, rfl⟩

theorem vmax (h : Hdr) (f : F3) : Statement (.vmax h f) := by
  intro _ c o h f e; cases e; exact ⟨rfl, by decide, by decide, rfl⟩

theorem vabs (h : Hdr) (f : F3) : Statement (.vabs h f) := by
  intro _ c o h f e; cases e; exact ⟨rfl, by decide, by decide, rfl⟩

theorem vadds (h : Hdr) (f : F3) : Statement (.vadds h f) := by
  intro _ c o h f e; cases e; exact ⟨rfl, by decide, by decide, rfl⟩

theorem vsubs (h : Hdr) (f : F3) : Statement (.vsubs h f) := by
  intro _ c o h f e; cases e; exact ⟨rfl, by decide, by decide, rfl⟩

theorem vcmp (h : Hdr) (f : F3) : Statement (.vcmp h f) := by
  intro _ c o h f e; cases e; exact ⟨rfl, by decide, by decide, rfl⟩

theorem vfadd (h : Hdr) (f : F3) : Statement (.vfadd h f) := by
  intro _ c o h f e; cases e; exact ⟨rfl, by decide, by decide, rfl⟩

theorem vfsub (h : Hdr) (f : F3) : Statement (.vfsub h f) := by
  intro _ c o h f e; cases e; exact ⟨rfl, by decide, by decide, rfl⟩

theorem vfmul (h : Hdr) (f : F3) : Statement (.vfmul h f) := by
  intro _ c o h f e; cases e; exact ⟨rfl, by decide, by decide, rfl⟩

theorem vffma (h : Hdr) (f : F3) : Statement (.vffma h f) := by
  intro _ c o h f e; cases e; exact ⟨rfl, by decide, by decide, rfl⟩

theorem vfdiv (h : Hdr) (f : F3) : Statement (.vfdiv h f) := by
  intro _ c o h f e; cases e; exact ⟨rfl, by decide, by decide, rfl⟩

theorem vfsqrt (h : Hdr) (f : F3) : Statement (.vfsqrt h f) := by
  intro _ c o h f e; cases e; exact ⟨rfl, by decide, by decide, rfl⟩

theorem vfmin (h : Hdr) (f : F3) : Statement (.vfmin h f) := by
  intro _ c o h f e; cases e; exact ⟨rfl, by decide, by decide, rfl⟩

theorem vfmax (h : Hdr) (f : F3) : Statement (.vfmax h f) := by
  intro _ c o h f e; cases e; exact ⟨rfl, by decide, by decide, rfl⟩

theorem vfabs (h : Hdr) (f : F3) : Statement (.vfabs h f) := by
  intro _ c o h f e; cases e; exact ⟨rfl, by decide, by decide, rfl⟩

theorem vfneg (h : Hdr) (f : F3) : Statement (.vfneg h f) := by
  intro _ c o h f e; cases e; exact ⟨rfl, by decide, by decide, rfl⟩

theorem vfcmp (h : Hdr) (f : F3) : Statement (.vfcmp h f) := by
  intro _ c o h f e; cases e; exact ⟨rfl, by decide, by decide, rfl⟩

theorem vtadd (h : Hdr) (f : F3) : Statement (.vtadd h f) := by
  intro _ c o h f e; cases e; exact ⟨rfl, by decide, by decide, rfl⟩

theorem vtsub (h : Hdr) (f : F3) : Statement (.vtsub h f) := by
  intro _ c o h f e; cases e; exact ⟨rfl, by decide, by decide, rfl⟩

theorem vtmul (h : Hdr) (f : F3) : Statement (.vtmul h f) := by
  intro _ c o h f e; cases e; exact ⟨rfl, by decide, by decide, rfl⟩

theorem vtfma (h : Hdr) (f : F3) : Statement (.vtfma h f) := by
  intro _ c o h f e; cases e; exact ⟨rfl, by decide, by decide, rfl⟩

theorem vred (h : Hdr) (f : F3) : Statement (.vred h f) := by
  intro _ c o h f e; cases e; exact ⟨rfl, by decide, by decide, rfl⟩

theorem vsel (h : Hdr) (f : F3) : Statement (.vsel h f) := by
  intro _ c o h f e; cases e; exact ⟨rfl, by decide, by decide, rfl⟩

theorem kand (h : Hdr) (f : F3) : Statement (.kand h f) := by
  intro _ c o h f e; cases e; exact ⟨rfl, by decide, by decide, rfl⟩

theorem kor (h : Hdr) (f : F3) : Statement (.kor h f) := by
  intro _ c o h f e; cases e; exact ⟨rfl, by decide, by decide, rfl⟩

theorem kxor (h : Hdr) (f : F3) : Statement (.kxor h f) := by
  intro _ c o h f e; cases e; exact ⟨rfl, by decide, by decide, rfl⟩

theorem knot (h : Hdr) (f : F3) : Statement (.knot h f) := by
  intro _ c o h f e; cases e; exact ⟨rfl, by decide, by decide, rfl⟩

theorem kpop (h : Hdr) (f : F3) : Statement (.kpop h f) := by
  intro _ c o h f e; cases e; exact ⟨rfl, by decide, by decide, rfl⟩

theorem vbcast (h : Hdr) (f : F3) : Statement (.vbcast h f) := by
  intro _ c o h f e; cases e; exact ⟨rfl, by decide, by decide, rfl⟩

theorem vmov (h : Hdr) (f : F3) : Statement (.vmov h f) := by
  intro _ c o h f e; cases e; exact ⟨rfl, by decide, by decide, rfl⟩

theorem vext (h : Hdr) (f : F3) : Statement (.vext h f) := by
  intro _ c o h f e; cases e; exact ⟨rfl, by decide, by decide, rfl⟩

theorem vins (h : Hdr) (f : F3) : Statement (.vins h f) := by
  intro _ c o h f e; cases e; exact ⟨rfl, by decide, by decide, rfl⟩

theorem viota (h : Hdr) (f : F3) : Statement (.viota h f) := by
  intro _ c o h f e; cases e; exact ⟨rfl, by decide, by decide, rfl⟩

theorem vld (h : Hdr) (f : FM) : Statement (.vld h f) := by
  intro _ c o h f e; cases e; exact ⟨rfl, by decide, by decide, rfl⟩

theorem vst (h : Hdr) (f : FM) : Statement (.vst h f) := by
  intro _ c o h f e; cases e; exact ⟨rfl, by decide, by decide, rfl⟩

theorem vlds (h : Hdr) (f : F3) : Statement (.vlds h f) := by
  intro _ c o h f e; cases e; exact ⟨rfl, by decide, by decide, rfl⟩

theorem vsts (h : Hdr) (f : F3) : Statement (.vsts h f) := by
  intro _ c o h f e; cases e; exact ⟨rfl, by decide, by decide, rfl⟩

theorem vgath (h : Hdr) (f : F3) : Statement (.vgath h f) := by
  intro _ c o h f e; cases e; exact ⟨rfl, by decide, by decide, rfl⟩

theorem vscat (h : Hdr) (f : F3) : Statement (.vscat h f) := by
  intro _ c o h f e; cases e; exact ⟨rfl, by decide, by decide, rfl⟩

theorem vamul (h : Hdr) (f : F3) : Statement (.vamul h f) := by
  intro _ c o h f e; cases e; exact ⟨rfl, by decide, by decide, rfl⟩

theorem vconj (h : Hdr) (f : F3) : Statement (.vconj h f) := by
  intro _ c o h f e; cases e; exact ⟨rfl, by decide, by decide, rfl⟩

theorem vnorm (h : Hdr) (f : F3) : Statement (.vnorm h f) := by
  intro _ c o h f e; cases e; exact ⟨rfl, by decide, by decide, rfl⟩

theorem aload (h : Hdr) (f : F3) : Statement (.aload h f) := by
  intro ok c o h f e; cases e; simp_all [Instr.formOk, build, buildVF3, Legal.kindOf, kind]

theorem aloadPreset (h : Hdr) (f : F3) : Statement (.aloadPreset h f) := by
  intro ok c o h f e; cases e; simp_all [Instr.formOk, build, buildVF3, Legal.kindOf, kind]

theorem vxmv (h : Hdr) (f : F3) : Statement (.vxmv h f) := by
  intro _ c o h f e; cases e; exact ⟨rfl, by decide, by decide, rfl⟩

theorem qclr (h : Hdr) (f : F3) : Statement (.qclr h f) := by
  intro _ c o h f e; cases e; exact ⟨rfl, by decide, by decide, rfl⟩

theorem qmac (h : Hdr) (f : F3) : Statement (.qmac h f) := by
  intro _ c o h f e; cases e; exact ⟨rfl, by decide, by decide, rfl⟩

theorem qmacn (h : Hdr) (f : F3) : Statement (.qmacn h f) := by
  intro _ c o h f e; cases e; exact ⟨rfl, by decide, by decide, rfl⟩

theorem qadd (h : Hdr) (f : F3) : Statement (.qadd h f) := by
  intro _ c o h f e; cases e; exact ⟨rfl, by decide, by decide, rfl⟩

theorem qsub (h : Hdr) (f : F3) : Statement (.qsub h f) := by
  intro _ c o h f e; cases e; exact ⟨rfl, by decide, by decide, rfl⟩

theorem qneg (h : Hdr) (f : F3) : Statement (.qneg h f) := by
  intro _ c o h f e; cases e; exact ⟨rfl, by decide, by decide, rfl⟩

theorem qred (h : Hdr) (f : F3) : Statement (.qred h f) := by
  intro _ c o h f e; cases e; exact ⟨rfl, by decide, by decide, rfl⟩

theorem qround (h : Hdr) (f : F3) : Statement (.qround h f) := by
  intro _ c o h f e; cases e; exact ⟨rfl, by decide, by decide, rfl⟩

theorem qrounds (h : Hdr) (f : F3) : Statement (.qrounds h f) := by
  intro _ c o h f e; cases e; exact ⟨rfl, by decide, by decide, rfl⟩

theorem qld (h : Hdr) (f : FM) : Statement (.qld h f) := by
  intro _ c o h f e; cases e; exact ⟨rfl, by decide, by decide, rfl⟩

theorem qst (h : Hdr) (f : FM) : Statement (.qst h f) := by
  intro _ c o h f e; cases e; exact ⟨rfl, by decide, by decide, rfl⟩

theorem qmov (h : Hdr) (f : F3) : Statement (.qmov h f) := by
  intro _ c o h f e; cases e; exact ⟨rfl, by decide, by decide, rfl⟩

theorem qtst (h : Hdr) (f : F3) : Statement (.qtst h f) := by
  intro _ c o h f e; cases e; exact ⟨rfl, by decide, by decide, rfl⟩

theorem qmode (h : Hdr) (f : F3) : Statement (.qmode h f) := by
  intro _ c o h f e; cases e; exact ⟨rfl, by decide, by decide, rfl⟩

theorem xcvt (h : Hdr) (f : F3) : Statement (.xcvt h f) := by
  intro _ c o h f e; cases e; exact ⟨rfl, by decide, by decide, rfl⟩

theorem xpack (h : Hdr) (f : F3) : Statement (.xpack h f) := by
  intro _ c o h f e; cases e; exact ⟨rfl, by decide, by decide, rfl⟩

theorem xunp (h : Hdr) (f : F3) : Statement (.xunp h f) := by
  intro _ c o h f e; cases e; exact ⟨rfl, by decide, by decide, rfl⟩

theorem xscl (h : Hdr) (f : F3) : Statement (.xscl h f) := by
  intro _ c o h f e; cases e; exact ⟨rfl, by decide, by decide, rfl⟩

theorem xshuf (h : Hdr) (f : F3) : Statement (.xshuf h f) := by
  intro ok c o h f e; cases e; simp_all [Instr.formOk, build, buildXF3, Legal.kindOf, kind]

theorem xshufShape (h : Hdr) (f : F3) : Statement (.xshufShape h f) := by
  intro ok c o h f e; cases e; simp_all [Instr.formOk, build, buildXF3, Legal.kindOf, kind]

theorem xrev (h : Hdr) (f : F3) : Statement (.xrev h f) := by
  intro _ c o h f e; cases e; exact ⟨rfl, by decide, by decide, rfl⟩

theorem xrot (h : Hdr) (f : F3) : Statement (.xrot h f) := by
  intro _ c o h f e; cases e; exact ⟨rfl, by decide, by decide, rfl⟩

theorem xzip (h : Hdr) (f : F3) : Statement (.xzip h f) := by
  intro _ c o h f e; cases e; exact ⟨rfl, by decide, by decide, rfl⟩

theorem xunz (h : Hdr) (f : F3) : Statement (.xunz h f) := by
  intro _ c o h f e; cases e; exact ⟨rfl, by decide, by decide, rfl⟩

theorem xbc (h : Hdr) (f : F3) : Statement (.xbc h f) := by
  intro _ c o h f e; cases e; exact ⟨rfl, by decide, by decide, rfl⟩

theorem xcpr (h : Hdr) (f : F3) : Statement (.xcpr h f) := by
  intro _ c o h f e; cases e; exact ⟨rfl, by decide, by decide, rfl⟩

theorem xexp (h : Hdr) (f : F3) : Statement (.xexp h f) := by
  intro _ c o h f e; cases e; exact ⟨rfl, by decide, by decide, rfl⟩

theorem xswz (h : Hdr) (f : F3) : Statement (.xswz h f) := by
  intro _ c o h f e; cases e; exact ⟨rfl, by decide, by decide, rfl⟩

theorem xmrg (h : Hdr) (f : F3) : Statement (.xmrg h f) := by
  intro _ c o h f e; cases e; exact ⟨rfl, by decide, by decide, rfl⟩

theorem xsps (h : Hdr) (f : F3) : Statement (.xsps h f) := by
  intro _ c o h f e; cases e; exact ⟨rfl, by decide, by decide, rfl⟩

theorem xdth (h : Hdr) (f : F3) : Statement (.xdth h f) := by
  intro _ c o h f e; cases e; exact ⟨rfl, by decide, by decide, rfl⟩

theorem trcfg (h : Hdr) (f : F3) : Statement (.trcfg h f) := by
  intro _ c o h f e; cases e; exact ⟨rfl, by decide, by decide, rfl⟩

theorem trw (h : Hdr) (f : F3) : Statement (.trw h f) := by
  intro _ c o h f e; cases e; exact ⟨rfl, by decide, by decide, rfl⟩

theorem trc (h : Hdr) (f : F3) : Statement (.trc h f) := by
  intro _ c o h f e; cases e; exact ⟨rfl, by decide, by decide, rfl⟩

theorem trclr (h : Hdr) (f : F3) : Statement (.trclr h f) := by
  intro _ c o h f e; cases e; exact ⟨rfl, by decide, by decide, rfl⟩

theorem trst (h : Hdr) (f : F3) : Statement (.trst h f) := by
  intro _ c o h f e; cases e; exact ⟨rfl, by decide, by decide, rfl⟩

theorem transposerChangeLands (c : Nat) : Statement (.transposerChangeLands c) := by
  intro _ c o h f e; cases e

theorem mgo (h : Hdr) (f : F3) : Statement (.mgo h f) := by
  intro _ c o h f e; cases e; exact ⟨rfl, by decide, by decide, rfl⟩

theorem mstep (h : Hdr) (f : F3) : Statement (.mstep h f) := by
  intro _ c o h f e; cases e; exact ⟨rfl, by decide, by decide, rfl⟩

theorem mwait (h : Hdr) (f : F3) : Statement (.mwait h f) := by
  intro _ c o h f e; cases e; exact ⟨rfl, by decide, by decide, rfl⟩

theorem mstat (h : Hdr) (f : F3) : Statement (.mstat h f) := by
  intro _ c o h f e; cases e; exact ⟨rfl, by decide, by decide, rfl⟩

theorem mabort (h : Hdr) (f : F3) : Statement (.mabort h f) := by
  intro _ c o h f e; cases e; exact ⟨rfl, by decide, by decide, rfl⟩

theorem mzero (h : Hdr) (f : F3) : Statement (.mzero h f) := by
  intro _ c o h f e; cases e; exact ⟨rfl, by decide, by decide, rfl⟩

theorem mldt (h : Hdr) (f : F3) : Statement (.mldt h f) := by
  intro _ c o h f e; cases e; exact ⟨rfl, by decide, by decide, rfl⟩

theorem mstt (h : Hdr) (f : F3) : Statement (.mstt h f) := by
  intro _ c o h f e; cases e; exact ⟨rfl, by decide, by decide, rfl⟩

theorem mgoNestStart (c : Nat) : Statement (.mgoNestStart c) := by
  intro _ c o h f e; cases e

theorem kstepStart (c : Nat) : Statement (.kstepStart c) := by
  intro _ c o h f e; cases e

theorem kstepRetire (c : Nat) : Statement (.kstepRetire c) := by
  intro _ c o h f e; cases e

theorem sbind (h : Hdr) (f : F3) : Statement (.sbind h f) := by
  intro _ c o h f e; cases e; exact ⟨rfl, by decide, by decide, rfl⟩

theorem sunb (h : Hdr) (f : F3) : Statement (.sunb h f) := by
  intro _ c o h f e; cases e; exact ⟨rfl, by decide, by decide, rfl⟩

theorem ssync (h : Hdr) (f : F3) : Statement (.ssync h f) := by
  intro _ c o h f e; cases e; exact ⟨rfl, by decide, by decide, rfl⟩

theorem ginit (h : Hdr) (f : F3) : Statement (.ginit h f) := by
  intro _ c o h f e; cases e; exact ⟨rfl, by decide, by decide, rfl⟩

theorem gwf (h : Hdr) (f : F3) : Statement (.gwf h f) := by
  intro _ c o h f e; cases e; exact ⟨rfl, by decide, by decide, rfl⟩

theorem gwe (h : Hdr) (f : F3) : Statement (.gwe h f) := by
  intro _ c o h f e; cases e; exact ⟨rfl, by decide, by decide, rfl⟩

theorem gadvh (h : Hdr) (f : F3) : Statement (.gadvh h f) := by
  intro _ c o h f e; cases e; exact ⟨rfl, by decide, by decide, rfl⟩

theorem gadvt (h : Hdr) (f : F3) : Statement (.gadvt h f) := by
  intro _ c o h f e; cases e; exact ⟨rfl, by decide, by decide, rfl⟩

theorem gstat (h : Hdr) (f : F3) : Statement (.gstat h f) := by
  intro _ c o h f e; cases e; exact ⟨rfl, by decide, by decide, rfl⟩

theorem spushc (h : Hdr) (f : F3) : Statement (.spushc h f) := by
  intro _ c o h f e; cases e; exact ⟨rfl, by decide, by decide, rfl⟩

theorem spopc (h : Hdr) (f : F3) : Statement (.spopc h f) := by
  intro _ c o h f e; cases e; exact ⟨rfl, by decide, by decide, rfl⟩

theorem sbal (h : Hdr) (f : F3) : Statement (.sbal h f) := by
  intro _ c o h f e; cases e; exact ⟨rfl, by decide, by decide, rfl⟩

theorem sbalRun (p : Nat) (t : Nat) : Statement (.sbalRun p t) := by
  intro _ c o h f e; cases e

theorem sbalComplete (p : Nat) (t : Nat) : Statement (.sbalComplete p t) := by
  intro _ c o h f e; cases e

theorem portEntryArrival (c : Nat) (j : Nat) : Statement (.portEntryArrival c j) := by
  intro _ c o h f e; cases e

theorem streamWritePerformed (c : Nat) (j : Nat) : Statement (.streamWritePerformed c j) := by
  intro _ c o h f e; cases e

theorem ringSlotCommit (c : Nat) (j : Nat) : Statement (.ringSlotCommit c j) := by
  intro _ c o h f e; cases e

theorem ringSlotFree (c : Nat) (j : Nat) : Statement (.ringSlotFree c j) := by
  intro _ c o h f e; cases e

theorem cpy (h : Hdr) (f : F3) : Statement (.cpy h f) := by
  intro _ c o h f e; cases e; exact ⟨rfl, by decide, by decide, rfl⟩

theorem cpyw (h : Hdr) (f : F3) : Statement (.cpyw h f) := by
  intro _ c o h f e; cases e; exact ⟨rfl, by decide, by decide, rfl⟩

theorem cpyq (h : Hdr) (f : F3) : Statement (.cpyq h f) := by
  intro _ c o h f e; cases e; exact ⟨rfl, by decide, by decide, rfl⟩

theorem copyBurstDone (k : Nat) : Statement (.copyBurstDone k) := by
  intro _ c o h f e; cases e

theorem copyRtIncrementRetry (k : Nat) : Statement (.copyRtIncrementRetry k) := by
  intro _ c o h f e; cases e

theorem gatherPacket (k : Nat) (s : Nat) : Statement (.gatherPacket k s) := by
  intro _ c o h f e; cases e

theorem lput (h : Hdr) (f : F3) : Statement (.lput h f) := by
  intro _ c o h f e; cases e; exact ⟨rfl, by decide, by decide, rfl⟩

theorem lputf (h : Hdr) (f : F3) : Statement (.lputf h f) := by
  intro _ c o h f e; cases e; exact ⟨rfl, by decide, by decide, rfl⟩

theorem lwait (h : Hdr) (f : F3) : Statement (.lwait h f) := by
  intro ok c o h f e; cases e; simp_all [Instr.formOk, build, buildDF3, Legal.kindOf, kind]

theorem lwaitScalar (h : Hdr) (f : F3) : Statement (.lwaitScalar h f) := by
  intro ok c o h f e; cases e; simp_all [Instr.formOk, build, buildDF3, Legal.kindOf, kind]

theorem lset (h : Hdr) (f : F3) : Statement (.lset h f) := by
  intro ok c o h f e; cases e; simp_all [Instr.formOk, build, buildDF3, Legal.kindOf, kind]

theorem lsetSub (h : Hdr) (f : F3) : Statement (.lsetSub h f) := by
  intro ok c o h f e; cases e; simp_all [Instr.formOk, build, buildDF3, Legal.kindOf, kind]

theorem lsig (h : Hdr) (f : F3) : Statement (.lsig h f) := by
  intro _ c o h f e; cases e; exact ⟨rfl, by decide, by decide, rfl⟩

theorem aop (h : Hdr) (f : F3) : Statement (.aop h f) := by
  intro _ c o h f e; cases e; exact ⟨rfl, by decide, by decide, rfl⟩

theorem aopn (h : Hdr) (f : F3) : Statement (.aopn h f) := by
  intro _ c o h f e; cases e; exact ⟨rfl, by decide, by decide, rfl⟩

theorem acas (h : Hdr) (f : F3) : Statement (.acas h f) := by
  intro _ c o h f e; cases e; exact ⟨rfl, by decide, by decide, rfl⟩

theorem acasw (h : Hdr) (f : F3) : Statement (.acasw h f) := by
  intro _ c o h f e; cases e; exact ⟨rfl, by decide, by decide, rfl⟩

theorem aenq (h : Hdr) (f : F3) : Statement (.aenq h f) := by
  intro _ c o h f e; cases e; exact ⟨rfl, by decide, by decide, rfl⟩

theorem achase (h : Hdr) (f : F3) : Statement (.achase h f) := by
  intro _ c o h f e; cases e; exact ⟨rfl, by decide, by decide, rfl⟩

theorem ared (h : Hdr) (f : F3) : Statement (.ared h f) := by
  intro ok c o h f e; cases e; simp_all [Instr.formOk, build, buildDF3, Legal.kindOf, kind]

theorem aredFin (h : Hdr) (f : F3) : Statement (.aredFin h f) := by
  intro ok c o h f e; cases e; simp_all [Instr.formOk, build, buildDF3, Legal.kindOf, kind]

theorem crossRel (h : Hdr) (f : F3) : Statement (.crossRel h f) := by
  intro ok c o h f e; cases e; simp_all [Instr.formOk, build, buildDF3, Legal.kindOf, kind]

theorem crossAcq (h : Hdr) (f : F3) : Statement (.crossAcq h f) := by
  intro ok c o h f e; cases e; simp_all [Instr.formOk, build, buildDF3, Legal.kindOf, kind]

theorem crossAr (h : Hdr) (f : F3) : Statement (.crossAr h f) := by
  intro ok c o h f e; cases e; simp_all [Instr.formOk, build, buildDF3, Legal.kindOf, kind]

theorem aliasf (h : Hdr) (f : F3) : Statement (.aliasf h f) := by
  intro _ c o h f e; cases e; exact ⟨rfl, by decide, by decide, rfl⟩

theorem fence (h : Hdr) (f : F3) : Statement (.fence h f) := by
  intro _ c o h f e; cases e; exact ⟨rfl, by decide, by decide, rfl⟩

theorem nlaunch (h : Hdr) (f : F3) : Statement (.nlaunch h f) := by
  intro _ c o h f e; cases e; exact ⟨rfl, by decide, by decide, rfl⟩

theorem nlaunchAppend (k : Nat) : Statement (.nlaunchAppend k) := by
  intro _ c o h f e; cases e

theorem jraise (h : Hdr) (f : F3) : Statement (.jraise h f) := by
  intro _ c o h f e; cases e; exact ⟨rfl, by decide, by decide, rfl⟩

theorem jpost (h : Hdr) (f : F3) : Statement (.jpost h f) := by
  intro _ c o h f e; cases e; exact ⟨rfl, by decide, by decide, rfl⟩

theorem sealreq (h : Hdr) (f : F3) : Statement (.sealreq h f) := by
  intro _ c o h f e; cases e; exact ⟨rfl, by decide, by decide, rfl⟩

theorem vainv (h : Hdr) (f : F3) : Statement (.vainv h f) := by
  intro ok c o h f e; cases e; simp_all [Instr.formOk, build, buildDF3, Legal.kindOf, kind]

theorem vainvAll (h : Hdr) (f : F3) : Statement (.vainvAll h f) := by
  intro ok c o h f e; cases e; simp_all [Instr.formOk, build, buildDF3, Legal.kindOf, kind]

theorem tsr (h : Hdr) (f : F3) : Statement (.tsr h f) := by
  intro _ c o h f e; cases e; exact ⟨rfl, by decide, by decide, rfl⟩

theorem trig (h : Hdr) (f : F3) : Statement (.trig h f) := by
  intro _ c o h f e; cases e; exact ⟨rfl, by decide, by decide, rfl⟩

theorem tracePcMatch (c : Nat) : Statement (.tracePcMatch c) := by
  intro _ c o h f e; cases e

theorem traceFreeze (c : Nat) : Statement (.traceFreeze c) := by
  intro _ c o h f e; cases e

theorem putPacketArrival (k : Nat) : Statement (.putPacketArrival k) := by
  intro _ c o h f e; cases e

theorem lsigArrival (k : Nat) : Statement (.lsigArrival k) := by
  intro _ c o h f e; cases e

theorem putAck (k : Nat) : Statement (.putAck k) := by
  intro _ c o h f e; cases e

theorem atomicApply (k : Nat) : Statement (.atomicApply k) := by
  intro _ c o h f e; cases e

theorem atomicReply (k : Nat) : Statement (.atomicReply k) := by
  intro _ c o h f e; cases e

theorem operationPacket (k : Nat) : Statement (.operationPacket k) := by
  intro _ c o h f e; cases e

theorem achaseHop (k : Nat) : Statement (.achaseHop k) := by
  intro _ c o h f e; cases e

theorem crucibleAdd (k : Nat) : Statement (.crucibleAdd k) := by
  intro _ c o h f e; cases e

theorem crucibleFinalise (k : Nat) : Statement (.crucibleFinalise k) := by
  intro _ c o h f e; cases e

theorem jcbRaiseApply (k : Nat) : Statement (.jcbRaiseApply k) := by
  intro _ c o h f e; cases e

theorem jcbPostApply (k : Nat) : Statement (.jcbPostApply k) := by
  intro _ c o h f e; cases e

theorem endToEndRetry (k : Nat) : Statement (.endToEndRetry k) := by
  intro _ c o h f e; cases e

theorem refusalRetry (k : Nat) : Statement (.refusalRetry k) := by
  intro _ c o h f e; cases e

theorem fabricTimeout (k : Nat) : Statement (.fabricTimeout k) := by
  intro _ c o h f e; cases e

theorem sourceRelease (k : Nat) : Statement (.sourceRelease k) := by
  intro _ c o h f e; cases e

theorem translationWalkComplete (k : Nat) : Statement (.translationWalkComplete k) := by
  intro _ c o h f e; cases e

theorem dieInvalidate (k : Nat) (d : Nat) : Statement (.dieInvalidate k d) := by
  intro _ c o h f e; cases e

theorem invalidateAck (k : Nat) (d : Nat) : Statement (.invalidateAck k d) := by
  intro _ c o h f e; cases e

theorem vainvComplete (k : Nat) : Statement (.vainvComplete k) := by
  intro _ c o h f e; cases e

theorem tinvGo (p : Nat) : Statement (.tinvGo p) := by
  intro _ c o h f e; cases e

theorem qtailWrite (p : Nat) (q : Nat) (v : BitVec 64) : Statement (.qtailWrite p q v) := by
  intro _ c o h f e; cases e

theorem qcfgWrite (p : Nat) (q : Nat) (v : BitVec 64) : Statement (.qcfgWrite p q v) := by
  intro _ c o h f e; cases e

theorem partitionEnable (p : Nat) (v : BitVec 64) : Statement (.partitionEnable p v) := by
  intro _ c o h f e; cases e

theorem partitionDisable (p : Nat) (v : BitVec 64) : Statement (.partitionDisable p v) := by
  intro _ c o h f e; cases e

theorem queuePriorityAging (p : Nat) (q : Nat) : Statement (.queuePriorityAging p q) := by
  intro _ c o h f e; cases e

theorem nestRecordStart (p : Nat) (q : Nat) : Statement (.nestRecordStart p q) := by
  intro _ c o h f e; cases e

theorem graphLaunch (p : Nat) (q : Nat) : Statement (.graphLaunch p q) := by
  intro _ c o h f e; cases e

theorem copyRecordStart (p : Nat) (q : Nat) : Statement (.copyRecordStart p q) := by
  intro _ c o h f e; cases e

theorem queueFence (p : Nat) (q : Nat) : Statement (.queueFence p q) := by
  intro _ c o h f e; cases e

theorem levelSwitch (p : Nat) (q : Nat) : Statement (.levelSwitch p q) := by
  intro _ c o h f e; cases e

theorem levelSwitchComplete (p : Nat) : Statement (.levelSwitchComplete p) := by
  intro _ c o h f e; cases e

theorem sealRequestPacket (p : Nat) (q : Nat) : Statement (.sealRequestPacket p q) := by
  intro _ c o h f e; cases e

theorem teamLaunch (p : Nat) (n : Nat) : Statement (.teamLaunch p n) := by
  intro _ c o h f e; cases e

theorem teamRetire (p : Nat) (t : Nat) : Statement (.teamRetire p t) := by
  intro _ c o h f e; cases e

theorem retireLogWrite (p : Nat) (q : Nat) : Statement (.retireLogWrite p q) := by
  intro _ c o h f e; cases e

theorem signalWriteAccepted (p : Nat) (g : Nat) (n : Nat) : Statement (.signalWriteAccepted p g n) := by
  intro _ c o h f e; cases e

theorem iterationPriorityAging (p : Nat) (n : Nat) : Statement (.iterationPriorityAging p n) := by
  intro _ c o h f e; cases e

theorem sliceExpiry (p : Nat) (t : Nat) : Statement (.sliceExpiry p t) := by
  intro _ c o h f e; cases e

theorem quiesceMarkerReturn (c : Nat) : Statement (.quiesceMarkerReturn c) := by
  intro _ c o h f e; cases e

theorem preemptSave (p : Nat) (t : Nat) : Statement (.preemptSave p t) := by
  intro _ c o h f e; cases e

theorem preemptSaveComplete (p : Nat) (t : Nat) : Statement (.preemptSaveComplete p t) := by
  intro _ c o h f e; cases e

theorem preemptRestore (p : Nat) (t : Nat) : Statement (.preemptRestore p t) := by
  intro _ c o h f e; cases e

theorem pwaitExpiry (p : Nat) (t : Nat) : Statement (.pwaitExpiry p t) := by
  intro _ c o h f e; cases e

theorem uncorrectable (e : ErrorSite) : Statement (.uncorrectable e) := by
  intro _ c o h f e; cases e

theorem engineStop (p : Nat) (k : Nat) : Statement (.engineStop p k) := by
  intro _ c o h f e; cases e

theorem haltComplete (p : Nat) : Statement (.haltComplete p) := by
  intro _ c o h f e; cases e

theorem haltResume (p : Nat) : Statement (.haltResume p) := by
  intro _ c o h f e; cases e

theorem haltDump (p : Nat) : Statement (.haltDump p) := by
  intro _ c o h f e; cases e

theorem haltDumpComplete (p : Nat) : Statement (.haltDumpComplete p) := by
  intro _ c o h f e; cases e

theorem homeLineRead (k : Nat) : Statement (.homeLineRead k) := by
  intro _ c o h f e; cases e

theorem homeLineWrite (w : HomeWrite) : Statement (.homeLineWrite w) := by
  intro _ c o h f e; cases e

theorem riserWaitExpiry (k : Nat) : Statement (.riserWaitExpiry k) := by
  intro _ c o h f e; cases e

theorem holdBufferEntry (k : Nat) : Statement (.holdBufferEntry k) := by
  intro _ c o h f e; cases e

theorem holdWaitExpiry (k : Nat) : Statement (.holdWaitExpiry k) := by
  intro _ c o h f e; cases e

theorem metaSweep (line : Nat) : Statement (.metaSweep line) := by
  intro _ c o h f e; cases e

theorem sealTimerExpiry (p : Nat) : Statement (.sealTimerExpiry p) := by
  intro _ c o h f e; cases e

theorem sealDrainComplete (p : Nat) : Statement (.sealDrainComplete p) := by
  intro _ c o h f e; cases e

theorem prepare (p : Nat) : Statement (.prepare p) := by
  intro _ c o h f e; cases e

theorem prepareReply (p : Nat) (r : SealReply) : Statement (.prepareReply p r) := by
  intro _ c o h f e; cases e

theorem commit (p : Nat) : Statement (.commit p) := by
  intro _ c o h f e; cases e

theorem committed (p : Nat) : Statement (.committed p) := by
  intro _ c o h f e; cases e

theorem free (p : Nat) : Statement (.free p) := by
  intro _ c o h f e; cases e

theorem rctlRollback (v : BitVec 64) : Statement (.rctlRollback v) := by
  intro _ c o h f e; cases e

theorem persWrite (b : Nat) (v : BitVec 64) : Statement (.persWrite b v) := by
  intro _ c o h f e; cases e

theorem berthDrainComplete (b : Nat) : Statement (.berthDrainComplete b) := by
  intro _ c o h f e; cases e

theorem drainTimeout (b : Nat) : Statement (.drainTimeout b) := by
  intro _ c o h f e; cases e

theorem berthTrainingComplete (b : Nat) (lanes : Nat) (klimit : BitVec 64) : Statement (.berthTrainingComplete b lanes klimit) := by
  intro _ c o h f e; cases e

theorem kgo (b : Nat) : Statement (.kgo b) := by
  intro _ c o h f e; cases e

theorem keyLow (b : Nat) : Statement (.keyLow b) := by
  intro _ c o h f e; cases e

theorem keyExhausted (b : Nat) : Statement (.keyExhausted b) := by
  intro _ c o h f e; cases e

theorem remoteRequestAdmission (r : RemoteRequest) : Statement (.remoteRequestAdmission r) := by
  intro _ c o h f e; cases e

theorem hostLinkLoss : Statement (.hostLinkLoss) := by
  intro _ c o h f e; cases e

theorem hostLinkReturn : Statement (.hostLinkReturn) := by
  intro _ c o h f e; cases e

theorem cvctlGo (s : Nat) (v : BitVec 64) : Statement (.cvctlGo s v) := by
  intro _ c o h f e; cases e

theorem conversionComplete (s : Nat) : Statement (.conversionComplete s) := by
  intro _ c o h f e; cases e

theorem crallocWrite (s : Nat) (n : Nat) (v : BitVec 64) : Statement (.crallocWrite s n v) := by
  intro _ c o h f e; cases e

theorem traceArm (c : Nat) : Statement (.traceArm c) := by
  intro _ c o h f e; cases e

theorem traceClr (c : Nat) : Statement (.traceClr c) := by
  intro _ c o h f e; cases e

theorem traceDump (c : Nat) : Statement (.traceDump c) := by
  intro _ c o h f e; cases e

theorem traceDumpComplete (c : Nat) : Statement (.traceDumpComplete c) := by
  intro _ c o h f e; cases e

theorem mtset (v : BitVec 64) : Statement (.mtset v) := by
  intro _ c o h f e; cases e

theorem bbclr (v : BitVec 64) : Statement (.bbclr v) := by
  intro _ c o h f e; cases e

theorem moduleReset : Statement (.moduleReset) := by
  intro _ c o h f e; cases e

theorem bootPhaseComplete (err : Nat) : Statement (.bootPhaseComplete err) := by
  intro _ c o h f e; cases e

theorem attest : Statement (.attest) := by
  intro _ c o h f e; cases e

theorem enterFullService : Statement (.enterFullService) := by
  intro _ c o h f e; cases e

theorem writeRoute : Statement (.writeRoute) := by
  intro _ c o h f e; cases e

theorem writeJoinKey : Statement (.writeJoinKey) := by
  intro _ c o h f e; cases e

theorem partitionReset (p : Nat) : Statement (.partitionReset p) := by
  intro _ c o h f e; cases e

theorem dieReset (d : Nat) : Statement (.dieReset d) := by
  intro _ c o h f e; cases e

theorem registerWrite (a : Nat) (v : BitVec 64) : Statement (.registerWrite a v) := by
  intro _ c o h f e; cases e

theorem crossPerformed (c : Nat) : Statement (.crossPerformed c) := by
  intro _ c o h f e; cases e

theorem berthLoss (b : Nat) : Statement (.berthLoss b) := by
  intro _ c o h f e; cases e

theorem pgateUpdate (draw : Nat) : Statement (.pgateUpdate draw) := by
  intro _ c o h f e; cases e

theorem heldWritePerformed (k : Nat) : Statement (.heldWritePerformed k) := by
  intro _ c o h f e; cases e

theorem rollbackComplete (p : Nat) : Statement (.rollbackComplete p) := by
  intro _ c o h f e; cases e

end Sys2Proof.Laws.Encoding
end

