-- ==== Sys2Proof/Tests/Slice0.lean ====
section
/-!
SUPPORT. The model's own tests: words of the specification decoded, ill-formed instructions refused, single steps, and for every statement with hypotheses a state and operands that meet them.
Expected results come from the specification's text and tables, or are worked out by hand from them.
-/

open Sys2Proof Sys2Proof.Machine

namespace Sys2Proof.Tests

set_option Elab.async false

/-! ### Terms that the tests share -/

/-- Operands with every modifier zero. -/
def ops (a b c d : BitVec 7) (sub : BitVec 6) : F3 := ⟨a, b, c, d, 0, 0, false, false, false, false, 0, sub⟩

/-- A syllable that always executes. -/
def at_ (slot : Slot) : Hdr := ⟨slot, 0, false, false⟩

/-! ### Decoding: words that the specification works out, bit by bit -/

/-- Chapter 1: ADD s3, s1, s2, and a whole bundle of it; Chapter 6: CMP, LI and its LIH, FFMA. -/
theorem test_words_scalar :
    decodeSyllable .s0 0x0200060410000000 = .ok (.add (at_ .s0) (ops 3 1 2 0 0)) ∧
    decodeSyllable .s0 0x3E00421028000002 = .ok (.cmp (at_ .s0) (ops 33 4 5 0 2)) ∧
    decodeSyllable .s0 0x380018017F4A7C15 = .ok (.li (at_ .s0) ⟨12, 0, 0x17F4A7C15⟩) ∧
    decodeSyllable .s0 0x3A001830278DDE6E = .ok (.lih (at_ .s0) ⟨12, 12, 0x278DDE6E⟩) ∧
    decodeSyllable .s0 0x5000142C60D01200 = .ok (.ffma (at_ .s0) { ops 10 11 12 13 0 with rnd := 1, fo := true }) := by decide

/-- Chapter 5: the predicate AND, the loop end at three words back, and the loop start with an immediate count. -/
theorem test_words_sequencer :
    decodeSyllable .b 0x16A0428918000001 = .ok (.pand ⟨.b, 40, false, false⟩ (ops 33 34 35 0 1)) ∧
    decodeSyllable .b 0x0C000003FFFFFFFE = .ok (.loopb (at_ .b) ⟨0, 0x3FFFFFFFE⟩) ∧
    decodeSyllable .b 0x0A00800400000003 = .ok (.loopiImm (at_ .b) ⟨0x2001, 3⟩) := by decide

/-- Chapters 1, 6 and 7: a negated guard with cluster 1's registers, a vector store, a guarded root, and a move across clusters. -/
theorem test_words_vector :
    decodeSyllable .v1 0x22868D1E40001000 = .ok (.vfadd ⟨.v1, 33, true, false⟩ { ops 70 71 72 0 0 with rnd := 1 }) ∧
    decodeSyllable .v0 0x5A0016603FFFFE00 = .ok (.vst (at_ .v0) ⟨11, 24, 0, 0x3FFFFE00⟩) ∧
    decodeSyllable .v0 0x2C88142400000000 = .ok (.vfsqrt ⟨.v0, 34, false, false⟩ (ops 10 9 0 0 0)) ∧
    decodeSyllable .v0 0x6C00902C00000000 = .ok (.vxmv (at_ .v0) (ops 72 11 0 0 0)) := by decide

/-- Chapters 8 and 9. -/
theorem test_words_quire_reshape_transposer :
    decodeSyllable .q 0x04000020480B0000 = .ok (.qmac (at_ .q) { ops 0 8 9 0 0 with fmt := 22 }) ∧
    decodeSyllable .q 0x0E00020000000000 = .ok (.qred (at_ .q) (ops 1 0 0 0 0)) ∧
    decodeSyllable .q 0x12001404000B0000 = .ok (.qrounds (at_ .q) { ops 10 1 0 0 0 with fmt := 22 }) ∧
    decodeSyllable .q 0x1600002000000000 = .ok (.qst (at_ .q) ⟨0, 8, 0, 0⟩) ∧
    decodeSyllable .x 0x0400282001500001 = .ok (.xpack (at_ .x) (ops 20 8 0 21 1)) ∧
    decodeSyllable .x 0x2000000000000005 = .ok (.xdth (at_ .x) (ops 0 0 0 0 5)) ∧
    decodeSyllable .t 0x0400002000400000 = .ok (.trw (at_ .t) (ops 0 8 0 4 0)) := by decide

/-- Chapters 10 and 11. -/
theorem test_words_streams_matrix :
    decodeSyllable .d 0x02000208A0000040 = .ok (.sbind (at_ .d) { ops 1 2 20 0 0 with ord := 1 }) ∧
    decodeSyllable .d 0x0200000C00000004 = .ok (.sbind (at_ .d) (ops 0 3 0 0 4)) ∧
    decodeSyllable .d 0x0A00060000200001 = .ok (.gwf (at_ .d) (ops 3 0 0 2 1)) ∧
    decodeSyllable .m 0x0400002048018000 = .ok (.mstep (at_ .m) { ops 0 8 9 0 0 with fmt := 3 }) ∧
    decodeSyllable .m 0x0200020000000134 = .ok (.mgo (at_ .m) { ops 1 0 0 0 0x34 with w := true }) ∧
    decodeSyllable .m 0x0E00005000000020 = .ok (.mldt (at_ .m) (ops 0 20 0 0 0x20)) ∧
    decodeSyllable .m 0x1000005000000000 = .ok (.mstt (at_ .m) (ops 0 20 0 0 0)) := by decide

/-- Chapters 12 and 13. -/
theorem test_words_copies_landings :
    decodeSyllable .d 0x1A000650AC403085 = .ok (.cpy (at_ .d) { ops 3 20 21 0x44 5 with rnd := 3, ord := 2 }) ∧
    decodeSyllable .d 0x1E00067800000000 = .ok (.cpyq (at_ .d) (ops 3 30 0 0 0)) ∧
    decodeSyllable .d 0x20000A78FC601080 = .ok (.lput (at_ .d) { ops 5 30 31 70 0 with rnd := 1, ord := 2 }) ∧
    decodeSyllable .d 0x2408040000200001 = .ok (.lwait ⟨.d, 2, false, false⟩ (ops 2 0 0 2 1)) ∧
    decodeSyllable .d 0x2C000250C800000C = .ok (.aopn (at_ .d) (ops 1 20 25 0 0xC)) ∧
    decodeSyllable .d 0x3800000000003080 = .ok (.crossRel (at_ .d) { ops 0 0 0 0 0 with rnd := 3, ord := 2 }) := by decide

/-- Chapters 4, 15, 17 and 19. -/
theorem test_words_module :
    decodeSyllable .d 0x42000858B8004080 = .ok (.jpost (at_ .d) { ops 4 22 23 0 0 with rnd := 4, ord := 2 }) ∧
    decodeSyllable .d 0x4400060000000000 = .ok (.sealreq (at_ .d) (ops 3 0 0 0 0)) ∧
    decodeSyllable .d 0x46000650A8000000 = .ok (.vainv (at_ .d) (ops 3 20 21 0 0)) ∧
    decodeSyllable .d 0x4600060000000001 = .ok (.vainvAll (at_ .d) (ops 3 0 0 0 1)) ∧
    decodeSyllable .d 0x4800280000000000 = .ok (.tsr (at_ .d) (ops 20 0 0 0 0)) ∧
    decodeSyllable .d 0x4A00005400500001 = .ok (.trig (at_ .d) (ops 0 21 0 5 1)) := by decide

/-- The encoder writes those words, and a whole bundle as its bits. -/
theorem test_encode : encode (.add (at_ .s0) (ops 3 1 2 0 0)) = [0x8010000000000000, 0x0200060410000000] ∧
    encode (.vfadd ⟨.v1, 33, true, false⟩ { ops 70 71 72 0 0 with rnd := 1 }) = [0x1010000000000000, 0x22868D1E40001000] ∧
    decodeTableWord 128 0x02000604100000008010000000000000 = some (.add (at_ .s0) (ops 3 1 2 0 0)) := by decide

/-! ### Ill-formed instructions, one for each kind of check (Table 1.7), and the word of each refused by its cause -/

/-- The form that the constructor names: the immediate form of a loop has control bit 13 set. -/
theorem test_wf_form : (Instr.loopi (at_ .b) ⟨0x2000, 1⟩).wf = false ∧ (Instr.nop ⟨.s0, 1, false, false⟩).wf = false := by decide

/-- A slot of another opcode space; an opcode that a slot does not have has cause 4. -/
theorem test_wf_slot : (Instr.add (at_ .v0) (ops 3 1 2 0 0)).wf = false ∧ decodeSyllable .t 0x0C00000000000000 = .refused 4 := by decide

/-- An operand or a modifier that the instruction does not use (cause 5). -/
theorem test_wf_unused : (Instr.add (at_ .s0) (ops 3 1 2 4 0)).wf = false ∧ decodeSyllable .s0 0x0200060410400000 = .refused 5 := by decide

/-- A format outside the instruction's set (cause 6): VADD of FP32. -/
theorem test_wf_format : (Instr.vadd (at_ .v0) (ops 3 1 2 0 0)).wf = false ∧ decodeSyllable .v0 0x0200060410000000 = .refused 6 := by decide

/-- A reserved rounding code (cause 7). -/
theorem test_wf_code : (Instr.fadd (at_ .s0) { ops 3 1 2 0 0 with rnd := 6 }).wf = false ∧ decodeSyllable .s0 0x4A00060410006000 = .refused 7 := by decide

/-- A register number past its class (cause 8): the predicate p96, and a guard past p95. -/
theorem test_wf_number : (Instr.cmp (at_ .s0) (ops 96 1 2 0 0)).wf = false ∧ (Instr.add ⟨.s0, 96, false, false⟩ (ops 3 1 2 0 0)).wf = false ∧
    decodeSyllable .s0 0x3E00C00410000000 = .refused 8 := by decide

/-- A register of the other cluster (cause 9): s64 in slot S0. -/
theorem test_wf_cluster : (Instr.add (at_ .s0) (ops 64 1 2 0 0)).wf = false ∧ decodeSyllable .s0 0x0200800410000000 = .refused 9 := by decide

/-- A transient mark on a syllable that writes no register (cause 10): a store. -/
theorem test_wf_transient : (Instr.st ⟨.s0, 0, false, true⟩ ⟨1, 2, 6, 0⟩).wf = false ∧ decodeSyllable .s0 0x4801020980000000 = .refused 10 := by decide

/-- A NOP with another bit set (cause 11), and headers with a reserved bit, another format code, and L3 in a context that is not translated. -/
theorem test_headers : decodeSyllable .s0 1 = .refused 11 ∧ headerCause 0x0010000000000001 false = some 2 ∧ headerCause 0x0014000000000000 false = some 1 ∧
    headerCause 0x0012000000000000 false = some 3 ∧ headerCause 0x0012000000000000 true = none ∧ bundleLength 0xFFD0000000000000 = 88 := by decide

/-! ### The machine that the witnesses share -/

/-- A task of partition 0 on core 0, as a launch leaves it. -/
def base : Ctx := startCtx State.reset 0 loadedNest 0 0 0

/-- Its team of one. -/
def baseTeam : Team := newTeam State.reset loadedNest 0 0

/-- A module in full service whose core 0 holds the context `x`, in a team of partition 0. -/
def world (x : Ctx) : State :=
  { (loadedPart State.reset).onPart 0 fun q => { q with nests := [loadedNest], teams := [baseTeam] } with
    cores := [(0, { Core.reset with ctx := some x })], nextId := 1, blen := 16 }

/-- A syllable acts in that module when its guard lets it. -/
theorem acts {h : Hdr} {x : Ctx} (g : x.guard h = true) : Acts (world x) h x := ⟨rfl, g⟩

/-- A packet of partition 0 with sequence number 0. -/
def pkt (o : Origin) (d : Dest) (src : Nat) (b : Body) (since : Option Nat) : Packet :=
  { origin := o, part := 0, dest := d, src, seq := 0, floor := 0, job := 0, body := b, since }

/-- `base` with scalar registers set. -/
def withS (l : List (Nat × Word)) : Ctx := { base with s := l }

/-- A guard that is false: p1 is 0 at task start. -/
def off (slot : Slot) : Hdr := ⟨slot, 1, false, false⟩

/-! ### The hypotheses of every statement are met, clause by clause -/

theorem test_meets_encoding :
    (Instr.add (at_ .s0) (ops 3 1 2 0 0)).wf = true ∧ encode (.add (at_ .s0) (ops 3 1 2 0 0)) ≠ [] ∧
    decodeSyllable .s0 0x0200060410000000 = .ok (.add (at_ .s0) (ops 3 1 2 0 0)) ∧
    Legal.kindOf (Legal.clsOf .t) 6 = none ∧ 0x0C00000000000000 >>> 57 % 128 = 6 ∧ 1 >>> 57 % 128 = 0 ∧ 1 % 2 ^ 57 ≠ 0 ∧
    Legal.kindOf (Legal.clsOf .s0) 1 = some .f3 ∧
    8 ∈ Legal.syllable (Legal.clsOf .s0) 0x1F (unpackHdr .s0 0x3E00C00410000000) (unpack .f3 0x3E00C00410000000) ∧ Legal.kindOf (Legal.clsOf .s0) 0x1F = some .f3 := by decide

theorem test_meets_HeaderRules :
    0x0014000000000000 >>> 50 % 16 ≠ 4 ∧ (0x0010000000000001 >>> 50 % 16 = 4 ∧ 0x0010000000000001 % 2 ^ 49 ≠ 0) ∧
    (0x0012000000000000 >>> 50 % 16 = 4 ∧ 0x0012000000000000 % 2 ^ 49 = 0 ∧ Nat.testBit 0x0012000000000000 49 = true) ∧
    (0xFFD0000000000000 >>> 50 % 16 = 4 ∧ 0xFFD0000000000000 % 2 ^ 50 = 0) := by decide

/-- A machine about to issue ADD s3, s1, s2, and the same as its turn begins. -/
def adding : State := State.reset.withFetchWord 128 0x02000604100000008010000000000000
def turning : State := coreEngines 0 { adding with turn := 1 }
def addWords : List (Slot × Nat × Instr) := [(.s0, 0x0200060410000000, .add (at_ .s0) (ops 3 1 2 0 0))]

theorem test_meets_StepRunsDecoded :
    adding.TurnOf 0 ∧ mayIssue turning 0 = true ∧ turning.ctx 0 = some base ∧ base.state = .run ∧ base.ctl.nopr = 0 ∧
    fetchWord (landDue turning 0).1 0 base.pc = 0x8010000000000000 ∧ headerCause 0x8010000000000000 base.translated = none ∧
    presentSlots 0x8010000000000000 = [.s0] ∧ base.pc + 16 ≤ 0x800000 ∧
    fetchWord (landDue turning 0).1 0 (base.pc + 8) = 0x0200060410000000 ∧
    decodeAt (some (base.pc, 16)) .s0 0x0200060410000000 = .ok (.add (at_ .s0) (ops 3 1 2 0 0)) ∧
    ∃ t y, exec (.add (at_ .s0) (ops 3 1 2 0 0)) (readied (landDue turning 0).1 0 0x8010000000000000 16 base addWords) = .next t ∧
      t.ctx 0 = some y ∧ y.state ≠ .stopped ∧ y.state ≠ .held := by
  refine ⟨⟨rfl, rfl, rfl, rfl, rfl⟩, rfl, rfl, rfl, rfl, rfl, rfl, rfl, by decide, rfl, rfl, _, _, rfl, rfl, ?_, ?_⟩ <;> decide
/-- A machine about to issue a bundle whose header has a format code that is not 4. -/
def illegal : State := State.reset.withFetchWord 64 0x0014000000000000

theorem test_meets_StepIllegal :
    illegal.TurnOf 0 ∧ mayIssue (coreEngines 0 { illegal with turn := 1 }) 0 = true ∧ (coreEngines 0 { illegal with turn := 1 }).ctx 0 = some base ∧
    ∃ word slot, fetch (landDue (coreEngines 0 { illegal with turn := 1 }) 0).1 0 base = .fault 1 1 word slot :=
  ⟨⟨rfl, rfl, rfl, rfl, rfl⟩, rfl, rfl, _, _, rfl⟩

/-- The seven forms that complete by themselves: an empty queue, an address of 0, and a range that ends at 2^56. -/
theorem test_meets_FormsComplete : Acts (world base) (at_ .d) base ∧ base.lq = [] ∧ (ops 0 1 2 0 0).sub.getLsbD 0 = false ∧ (ops 0 1 2 0 0).sub.getLsbD 1 = false ∧ (base.rs 1).toNat % 64 = 0 ∧
    base.vainv < 4 ∧ ((withS [(1, 2 ^ 56 - 1), (2, 1)]).rs 1).toNat < 2 ^ 56 ∧ ((withS [(1, 2 ^ 56 - 1), (2, 1)]).rs 1).toNat + ((withS [(1, 2 ^ 56 - 1), (2, 1)]).rs 2).toNat ≤ 2 ^ 56 := ⟨acts rfl, by decide⟩

/-- No core has a turn in a module on which no task is resident. -/
theorem test_meets_CycleEnds :
    (loadedPart State.reset).agenda = [] ∧ (promptEvents (loadedPart State.reset)).filterMap id = [] ∧ pickEvent (loadedPart State.reset) = .quiet ∧
    nextCore (loadedPart State.reset) (loadedPart State.reset).turn = none := ⟨rfl, rfl, rfl, rfl⟩

theorem test_meets_ModuleTime : 4 ≤ (world base).mgmt.phase ∧ State.reset.mgmt.phase < 4 ∧ State.reset.mtime + (State.reset.thirds + 4) / 3 < 2 ^ 64 := by decide

/-- A guard that is false, and an operand at each end of a branch's range: 0 and 2^23 − 8 are targets, 2^23 is none, and 4 is misaligned. -/
theorem test_meets_GuardedOff : (Instr.add (off .s0) (ops 3 1 2 0 0)).parts = some (.s, 1, off .s0, .f3 (ops 3 1 2 0 0)) ∧ (world base).ctx (world base).cur = some base ∧
    base.guard (off .s0) = false := by decide

theorem test_meets_Transfers : Acts (world base) (at_ .b) base ∧ ((withS [(1, 4)]).rs 1).toNat % 8 ≠ 0 ∧ 2 ^ 23 ≤ ((withS [(1, 0x800000)]).rs 1).toNat ∧
    ((withS [(1, 0x7FFFF8)]).rs 1).toNat < 2 ^ 23 ∧ 16 ≤ { base.ctl with rsp := 16 }.rsp ∧ base.ctl.rsp = 0 ∧ base.ctl.lc = 0 := ⟨acts rfl, by decide⟩

/-- A loop count of 0 and of 1; the last trip, the last drain pass, and none left. -/
theorem test_meets_PipelinedLoops : Acts (world base) (at_ .b) base ∧ (base.rs (s12Of ⟨0, 3⟩)).toNat = 0 ∧ 0 < ((withS [(1, 1)]).rs (s12Of ⟨64, 3⟩)).toNat ∧
    Acts (world (withS [(1, 1)])) (at_ .b) (withS [(1, 1)]) ∧
    (⟨0x2000, 0⟩ : FB).off.toNat = 0 ∧ 0 < (⟨0x2000, 1⟩ : FB).off.toNat ∧ Acts (world { base with ctl := { base.ctl with lc := 1 } }) (at_ .b) { base with ctl := { base.ctl with lc := 1 } } ∧
    0 < { base.ctl with lc := 1 }.lc ∧ Acts (world { base with ctl := { base.ctl with ec := 1 } }) (at_ .b) { base with ctl := { base.ctl with ec := 1 } } ∧ 0 < { base.ctl with ec := 1 }.ec ∧
    base.ctl.lc = 0 ∧ base.ctl.ec = 0 :=
  ⟨acts rfl, by decide, by decide, acts rfl, by decide, by decide, acts rfl, by decide, acts rfl, by decide, by decide, by decide⟩

/-- A repeat that runs, and none with a body that ends 16 bytes on. -/
theorem test_meets_RepAndNopn : Acts (world { base with ctl := { base.ctl with repc := 1 } }) (at_ .b) { base with ctl := { base.ctl with repc := 1 } } ∧ { base.ctl with repc := 1 }.repc ≠ 0 ∧
    Acts (world base) (at_ .b) base ∧ base.ctl.repc = 0 ∧ (base.pc : Int) + 8 * (⟨0x2001, 2⟩ : FB).off.toInt = (16 : Nat) :=
  ⟨acts rfl, by decide, acts rfl, by decide, by decide⟩

/-- The bundle before a body's end, the one at its end with 2, 1 and 0 passes left, and a transfer. -/
theorem test_meets_RepeatBoundary : 16 < 2 ^ 23 ∧ base.pops = [] ∧ base.ctl.nopr = 0 ∧ ({ base with jump := some 0x7FFFF8 }).jump = some 0x7FFFF8 ∧ base.jump = none ∧
    1 < { base.ctl with repc := 2, repEnd := 16 }.repc ∧ { base.ctl with repc := 2, repEnd := 16 }.repEnd ≤ 16 ∧ { base.ctl with repc := 1, repEnd := 16 }.repc ≤ 1 ∧
    8 < { base.ctl with repc := 1, repEnd := 16 }.repEnd := by decide

theorem test_meets_Predicates : Acts (world base) (at_ .b) base ∧ (ops 33 34 0 0 0).sub = 0 ∧ (world base).ctx (world base).cur = some base := ⟨acts rfl, rfl, rfl⟩

/-- Points 0 and 23 of a team of one: counts 0, 1 and 2; OUT clear, set, and the held mark of an RVAW. -/
theorem test_meets_Rendezvous : Acts (world base) (at_ .b) base ∧ base.part < (world base).parts.length ∧ (world base).team base.part base.team = some baseTeam ∧
    rvPointOf ⟨0, 0⟩ < baseTeam.points.length ∧ rvPointOf ⟨0x2E04, 0⟩ = 23 ∧ 23 < baseTeam.points.length ∧
    ((withS []).rs (s8Of ⟨4, 0⟩)).toNat = 0 ∧ ((withS [(1, 1)]).rs (s8Of ⟨4, 0⟩)).toNat = base.size ∧ base.size < ((withS [(1, 2)]).rs (s8Of ⟨4, 0⟩)).toNat ∧
    (base.rvTask 0).out = false ∧ (base.rvTask 0).mark = false ∧ ((base.setRv 0 ⟨true, 0, false⟩).rvTask 0).out = true ∧ (base.setRv 0 ⟨false, 0, true⟩).rvTask 0 = ⟨false, 0, true⟩ ∧
    Acts (world (base.setRv 0 ⟨true, 0, false⟩)) (at_ .b) (base.setRv 0 ⟨true, 0, false⟩) ∧ Acts (world (base.setRv 0 ⟨false, 0, true⟩)) (at_ .b) (base.setRv 0 ⟨false, 0, true⟩) :=
  ⟨acts rfl, by decide, rfl, by decide, by decide, by decide, by decide, by decide, by decide, by decide, by decide, by decide, by decide, acts rfl, acts rfl⟩

/-- An arrival at a point that expects one, and at a point that expects two. -/
theorem test_meets_ArrivalCounted :
    ((world base).onTeam 0 0 fun m => { m with arrivals := [⟨0, 0, 0⟩] }).team 0 0 = some { baseTeam with arrivals := [⟨0, 0, 0⟩] } ∧ 0 < (world base).parts.length ∧ 0 < baseTeam.points.length ∧
    (baseTeam.point 0).arr + 1 = (baseTeam.point 0).exp ∧ ((baseTeam.onPoint 0 fun q => { q with exp := 2 }).point 0).arr + 1 ≠ ((baseTeam.onPoint 0 fun q => { q with exp := 2 }).point 0).exp ∧
    baseTeam.phase = .running ∧ (world base).ctx 0 = some base ∧ base.team = 0 ∧ base.drained (world base) 0 = true :=
  ⟨rfl, by decide, by decide, by decide, by decide, by decide, rfl, rfl, by decide⟩

/-- PHINT at a record that is misaligned, at 0x800000, in bounds at its last place, and with every condition of R158. -/
def asked : State := ({ world base with cycle := 65536 }).onTeam 0 0 fun m => { m with request := true }

theorem test_meets_HintsAndEnds : Acts asked (at_ .b) base ∧ base.part < asked.parts.length ∧ asked.team base.part base.team = some { baseTeam with request := true } ∧
    ((base.pc : Int) + 8 * (⟨0, 1⟩ : FB).off.toInt) % 64 ≠ 0 ∧ (base.pc : Int) + 8 * (⟨0, 0x100000⟩ : FB).off.toInt = (0x800000 : Nat) ∧ 0x800000 % 64 = 0 ∧
    (base.pc : Int) + 8 * (⟨0, 0xFFFF8⟩ : FB).off.toInt = (0x7FFFC0 : Nat) ∧ 0x7FFFC0 % 64 = 0 ∧ 0x7FFFC0 + 64 ≤ 0x800000 ∧ (base.pc : Int) + 8 * (⟨0, 8⟩ : FB).off.toInt = (64 : Nat) ∧ baseTeam.request = false ∧
    asked.blen = 16 ∧ (asked.part 0).qmin ≤ asked.cycle - baseTeam.start ∧ base.settled = true ∧
    quiet asked asked.cur base (liveBytes (asked.core asked.cur) { base with live := 64 }) = true ∧
    liveOk (liveBytes (asked.core asked.cur) { base with live := 64 }) = true ∧
    (liveRanges (asked.core asked.cur) { base with live := 64 } (64 + 64) 8).isSome = true ∧ loadedNest ∈ ((world base).part 0).nests ∧ loadedNest.id = base.nest := by
  refine ⟨⟨rfl, rfl⟩, by decide, rfl, ?_⟩; decide

/-- Values at the ends of the ranges: EC takes 63 and not 64. -/
theorem test_meets_ControlRegisters : Acts (world (withS [(1, 63)])) (at_ .b) (withS [(1, 63)]) ∧ ccrOk 1 ((withS [(1, 63)]).rs 1).toNat = true ∧ ccrOk 1 ((withS [(1, 64)]).rs 1).toNat = false ∧
    SMap.wf 0 base.ctl.retstk = true ∧ ccrOk 0x10 0x7FFFF8 = true ∧ 0x10 < 0x20 := ⟨acts rfl, by decide⟩

theorem test_meets_scalar : Acts (world base) (at_ .s0) base ∧ (63 : BitVec 30).toNat < 64 ∧ (0x3FFFFFFF : BitVec 34).toNat < 2 ^ 30 ∧ 63 < 64 := ⟨acts rfl, by decide⟩

/-- Addresses of an 8-byte access: misaligned, the last in bounds, and the first past it. -/
theorem test_meets_ScalarMemory : Acts (world base) (at_ .s0) base ∧ 4 % 8 ≠ 0 ∧ ((withS [(2, 0x7FFFF8)]).rs 2 + (0 : BitVec 30).signExtend 64).toNat % 8 = 0 ∧
    ((withS [(2, 0x7FFFF8)]).rs 2 + (0 : BitVec 30).signExtend 64).toNat + 8 ≤ 0x800000 ∧ 0x800000 < ((withS [(2, 0x7FFFF8)]).rs 2 + (8 : BitVec 30).signExtend 64).toNat + 8 ∧
    2 ^ ((6 : BitVec 3).toNat / 2) = 8 := ⟨acts rfl, by decide⟩

theorem test_meets_ScalarFloat : Acts (world base) (at_ .s0) base ∧ (FpOp.add, 4, Instr.fadd (at_ .s0) (ops 3 1 2 0 0)) ∈ [(FpOp.add, 4, Instr.fadd (at_ .s0) (ops 3 1 2 0 0))] ∧
    convert 0 1 0 false false false 0 ((base.rs 1).toNat % 2 ^ fmtWidth 0) = convert 0 1 0 false false false 0 ((base.rs 1).toNat % 2 ^ fmtWidth 0) := ⟨acts rfl, by simp, rfl⟩

/-- A CTL value with no reserved bit set, and one with bit 63. -/
theorem test_meets_ShapeRegisters : Acts (world base) (at_ .s0) base ∧ shapeValueOk 1 (base.rs 2).toNat = true ∧ shapeValueOk 1 ((withS [(2, 0x8000000000000000)]).rs 2).toNat = false ∧
    (0 : BitVec 6).getLsbD 5 = false ∧ (32 : BitVec 6).getLsbD 5 = true := ⟨acts rfl, by decide⟩
/-- The operands of a syllable that names registers and no port are at hand in `base`. -/
theorem hand (reads : List (BitVec 7)) (w : BitVec 7) (r : base.readPorts reads = .ok base) (l : Loc) (e : writePorts base false [w] = .ok (base, [l])) :
    Operands base reads [w] false base [l] := ⟨base, base, r, e, rfl⟩

/-- `base` with a running nest that maps tile 0 of the store: windows 0 and 1 are busy and window 2 is not. -/
def busyNest : Nest :=
  { n := 5, state := .running, cause := 0, q := false, o := true, sp := false, z := false, fi := false, table := 0, a := ⟨true, 0, 0, 0, []⟩, b := ⟨true, 1, 0, 0, []⟩
    base := 0, tstr := [], rank := 1, ext := [1], issued := 0, pc := 0, started := 0, done := 0, ha := 0, hb := 0, freedA := 0, freedB := 0, nextAt := 0, cur := none }
def withNest (n : Nest) : Ctx := { base with nests := [n] }

/-- VADD of INT32 on v1 and v2 into v3; the clamp of the last bound; one member of each list. -/
theorem test_meets_LaneArithmetic : Acts (world base) (at_ .v0) base ∧ Operands base [1, 2] [3] false base [.v 3] ∧ 0 < fmtWidth 8 ∧
    (-2 ^ (fmtWidth 8 - 1) : Int) = -2147483648 ∧ (-2147483648 + 2 ^ fmtWidth 8 - 1 : Int) = 2147483647 := ⟨acts rfl, hand _ _ rfl _ rfl, by decide⟩

theorem test_meets_lanes : Acts (world base) (at_ .v0) base ∧ Operands base [1, 2] [3] false base [.v 3] ∧ Operands base [1] [3] false base [.v 3] ∧ Operands base [1, 2, 4] [3] false base [.v 3] ∧
    Operands base [] [3] false base [.v 3] ∧ Operands base [1, 2] [] false base [] ∧ Operands base [1] [] false base [] ∧ fmtWidth 0 = 32 :=
  ⟨acts rfl, hand _ _ rfl _ rfl, hand _ _ rfl _ rfl, hand _ _ rfl _ rfl, hand _ _ rfl _ rfl, ⟨base, base, rfl, rfl, rfl⟩, ⟨base, base, rfl, rfl, rfl⟩, rfl⟩

/-- An address that is misaligned, the last in bounds, and the first past it. -/
theorem test_meets_VectorMemory : Acts (world base) (at_ .v0) base ∧ Operands base [] [3] false base [.v 3] ∧ Operands base [3] [] false base [] ∧ 2 % 4 ≠ 0 ∧
    ((withS [(2, 0x7FFE00)]).rs 2 + (0 : BitVec 30).signExtend 64).toNat % 4 = 0 ∧ ((withS [(2, 0x7FFE00)]).rs 2 + (0 : BitVec 30).signExtend 64).toNat + 512 ≤ 0x800000 ∧
    0x800000 < ((withS [(2, 0x7FFE00)]).rs 2 + (4 : BitVec 30).signExtend 64).toNat + 512 :=
  ⟨acts rfl, hand _ _ rfl _ rfl, ⟨base, base, rfl, rfl, rfl⟩, by decide⟩

/-- shv0 describes one FP32 element at the last word of the scratchpad. -/
def shaped : Ctx := { base with shapeAct := [(256, 0x7FFFFC), (257, 0x200), (260, 1), (266, 1)] }

theorem shaped_ok (b : Bool) : checkPlaces (shaped.view 16 0) b [(0, 0x7FFFFC)] (.ok ()) = .ok () := by
  have e : (!(shaped.view 16 0).global && (shaped.view 16 0).fmt != 5 && decide (1 ≤ (shaped.view 16 0).rank ∧ (shaped.view 16 0).rank ≤ 6) && (shaped.view 16 0).d == 1 &&
    (shaped.view 16 0).aligned && inSpad 0x7FFFFC ((shaped.view 16 0).w / 8) && banksOk [(0x7FFFFC, (shaped.view 16 0).w / 8)]) = true := by decide +kernel
  simp only [Bool.and_eq_true, beq_iff_eq] at e
  simp [checkPlaces, checkShape, Act.need, Act.check, e]

theorem test_meets_VectorShapes : Acts (world shaped) (at_ .v0) shaped ∧ Operands shaped [] [3] false shaped [.v 3] ∧ Operands shaped [2] [3] false shaped [.v 3] ∧
    Operands shaped [3] [] false shaped [] ∧ Operands shaped [3, 2] [] false shaped [] ∧
    stridedPlaces (shaped.view 16 0) (kmOf shaped (ops 0 3 2 0 0)) = [(0, 0x7FFFFC)] ∧ checkPlaces (shaped.view 16 0) false [(0, 0x7FFFFC)] (.ok ()) = .ok () ∧
    checkPlaces (shaped.view 16 0) true [(0, 0x7FFFFC)] (.ok ()) = .ok () ∧ (shaped.view 16 0).global = false ∧ (shaped.view 16 0).fmt ≠ 5 ∧ 1 ≤ (shaped.view 16 0).rank ∧
    (shaped.view 16 0).rank ≤ 6 ∧ (shaped.view 16 0).d = 1 ∧ (shaped.view 16 0).aligned = true ∧ 0x7FFFFC + (shaped.view 16 0).w / 8 ≤ 0x800000 ∧
    banksOk ([(0, 0x7FFFFC)].map fun p => (p.2, (shaped.view 16 0).w / 8)) = true := by
  refine ⟨acts rfl, ⟨shaped, shaped, rfl, rfl, rfl⟩, ⟨shaped, shaped, rfl, rfl, rfl⟩, ⟨shaped, shaped, rfl, rfl, rfl⟩, ⟨shaped, shaped, rfl, rfl, rfl⟩, ?_, shaped_ok _, shaped_ok _, ?_⟩ <;> decide +kernel

/-- A table of zeros is the preset of the reals' dimension 1 with no product, which is legal; one with byte 2 set is not. 0x7FFFB8 is the last place of 72 bytes. -/
theorem test_meets_AlgebraElements : Acts (world base) (at_ .v0) base ∧ 4 % 8 ≠ 0 ∧ 0x7FFFB8 % 8 = 0 ∧ 0x7FFFB8 + 72 ≤ 0x800000 ∧ 0x800000 < 0x7FFFC0 + 72 ∧
    tableOk (ofBytes (base.load (preset 5 |> fun t => SMap.write [] 0x7FFFB8 (bytesOf t 72)) 0x7FFFB8 72)) = true ∧
    tableOk (ofBytes (base.load (SMap.write [] 0x7FFFB8 (bytesOf (2 ^ 16) 72)) 0x7FFFB8 72)) = false ∧ 5 < 6 := by
  refine ⟨acts rfl, ?_⟩; decide +kernel

theorem test_meets_quire : Acts (world base) (at_ .q) base ∧ Acts (world (withNest busyNest)) (at_ .q) (withNest busyNest) ∧ [0].any (withNest busyNest).windowBusy = true ∧
    [2].any (withNest busyNest).windowBusy = false ∧ [0].any base.windowBusy = false ∧ (withNest busyNest).windowBusy 1 = true ∧
    Operands base [8, 9] [] false base [] ∧ Operands base [] [3] false base [.v 3] ∧ Operands base [8] [] false base [] :=
  ⟨acts rfl, acts rfl, by decide, by decide, by decide, by decide, ⟨base, base, rfl, rfl, rfl⟩, hand _ _ rfl _ rfl, ⟨base, base, rfl, rfl, rfl⟩⟩

/-- `base` with v8 set: lane 0 holds an address. -/
def withV (a : VReg) : Ctx := { base with v := [(8, a)] }

/-- Images of 128 bytes: misaligned, the last 16 KiB of the scratchpad, and the first place past it. -/
theorem test_meets_QuireMemory : ((BitVec.ofNat 64 (((withV 64).rvec 8).toNat % 2 ^ 32) + (0 : BitVec 30).signExtend 64).toNat % 128 ≠ 0) ∧
    (BitVec.ofNat 64 (((withV 0x7FC000).rvec 8).toNat % 2 ^ 32) + (0 : BitVec 30).signExtend 64).toNat % 128 = 0 ∧
    (BitVec.ofNat 64 (((withV 0x7FC000).rvec 8).toNat % 2 ^ 32) + (0 : BitVec 30).signExtend 64).toNat + 128 * 128 ≤ 0x800000 ∧
    0x800000 < (BitVec.ofNat 64 (((withV 0x7FC000).rvec 8).toNat % 2 ^ 32) + (128 : BitVec 30).signExtend 64).toNat + 128 * 128 := by decide +kernel

theorem test_meets_reshape : Acts (world base) (at_ .x) base ∧ Operands base [1] [3] false base [.v 3] ∧ Operands base [1, 2] [3] false base [.v 3] ∧
    Operands base [1] [3, 4] false base [.v 3, .v 4] ∧ (base.view 8 0).rank = 0 ∧ (({ base with shapeAct := [(129, 0xC00)] } : Ctx).view 8 0).rank = 6 :=
  ⟨acts rfl, hand _ _ rfl _ rfl, hand _ _ rfl _ rfl, ⟨base, base, rfl, rfl, rfl⟩, rfl, rfl⟩

/-- sht0 describes 32 rows of 32, one with no rows, and a change that is due. -/
theorem test_meets_Transposer : Acts (world base) (at_ .t) base ∧ (0 : BitVec 7).toNat < 4 ∧ 4 ≤ (4 : BitVec 7).toNat ∧ (base.view 12 0).ext.getD 0 0 = 0 ∧
    ((({ base with shapeAct := [(193, 0x400), (196, 32), (197, 32)] } : Ctx).view 12 0).ext.getD 0 0 = 32) ∧
    ((({ base with shapeAct := [(193, 0x400), (196, 32), (197, 32)] } : Ctx).view 12 0).ext.getD 1 0 = 32) ∧
    ((({ base with shapeAct := [(193, 0x400), (196, 32), (197, 32)] } : Ctx).view 12 0).fmt ≠ 5) ∧ (1 : BitVec 7).toNat % 2 = 1 ∧
    Operands base [8] [] false base [] ∧ Operands base [] [3] false base [.v 3] ∧
    ({ base with bn := 8, tchg := [⟨8, 0, 0, true, 8, []⟩] } : Ctx).tchg.find? (fun t => decide (t.due ≤ 8)) = some ⟨8, 0, 0, true, 8, []⟩ :=
  ⟨acts rfl, by decide, by decide, by decide, by decide, by decide, by decide, by decide, ⟨base, base, rfl, rfl, rfl⟩, hand _ _ rfl _ rfl, rfl⟩
/-- A table of dimension 2 in at0: the tiles t and t + 1. -/
def complex : Ctx := { base with tables := [(0, preset 1)] }

/-- Addresses of 256 FP32 elements: misaligned, the last place and the first past it; an array in use until bundle 5; tiles 15 and 14 with dimension 2. -/
theorem test_meets_TileInstructions : Acts (world base) (at_ .m) base ∧ Acts (world (withNest busyNest)) (at_ .m) (withNest busyNest) ∧ (withNest busyNest).tileBusy [0] = true ∧ base.tileBusy [0] = false ∧
    Operands base [8] [] false base [] ∧ Operands base [8, 9] [] false base [] ∧ Operands base [8, 9, 10, 11] [] false base [] ∧
    ((withV (32 * 2 ^ 32)).rvec 8).toNat / 2 ^ (32 * (1 : BitVec 7).toNat) % 2 ^ 32 % 64 ≠ 0 ∧ 0x7FFC00 % 64 = 0 ∧ 0x7FFC00 + 32 * 32 ≤ 0x800000 ∧ 0x800000 < 0x7FFC40 + 32 * 32 ∧
    (withNest busyNest).nests.any Nest.incomplete = true ∧ base.nests.any Nest.incomplete = false ∧ base.bn < ({ base with arrayFree := 5 } : Ctx).arrayFree ∧ base.arrayFree ≤ base.bn ∧
    16 < 15 + tDim (complex.rtab 0) ∧ 14 + tDim (complex.rtab 0) ≤ 16 ∧ tDim (complex.rtab 0) ≠ 1 ∧ tDim (base.rtab 0) = 1 :=
  ⟨acts rfl, acts rfl, by decide, by decide, ⟨base, base, rfl, rfl, rfl⟩, ⟨base, base, rfl, rfl, rfl⟩, ⟨base, base, rfl, rfl, rfl⟩, by decide +kernel⟩

/-- Four incomplete nests, one of tag 5, one that has completed; a record at a misaligned place, the last one, and past it. -/
theorem test_meets_NestInstructions : Acts (world base) (at_ .m) base ∧ 4 ≤ ((List.replicate 4 busyNest).filter Nest.incomplete).length ∧ ((withNest busyNest).nests.filter Nest.incomplete).length < 4 ∧
    (∃ n ∈ (withNest busyNest).nests, n.n = (5 : BitVec 7).toNat ∧ n.incomplete = true) ∧ (∀ n ∈ (withNest { busyNest with state := .done }).nests, n.n = (5 : BitVec 7).toNat → n.incomplete = false) ∧
    (∃ n ∈ (withNest busyNest).nests, ((1 : BitVec 6).getLsbD 0 = true ∨ n.n = 4) ∧ n.incomplete = true) ∧ Operands base [8] [] false base [] ∧ 8 % 16 ≠ 0 ∧
    ((withV 0x7FFFF0).rvec 8).toNat / 2 ^ (32 * (0 : BitVec 7).toNat) % 2 ^ 32 = 0x7FFFF0 ∧ 0x7FFFF0 % 16 = 0 ∧ 0x7FFFF0 + 16 ≤ 0x800000 ∧ 0x800000 < 0x800000 + 16 := by
  refine ⟨acts rfl, ?_, ?_, ?_, ?_, ?_, ⟨base, base, rfl, rfl, rfl⟩, ?_⟩ <;> decide +kernel

/-- Rings 0 and 1 hold one slot of FP32 operands for the matrix engine; a nest of one K-step over them, as it waits, as it runs, and in the array. -/
def opRing : Ring := ⟨true, 0, 4, 0x4000, 1, 4, false, 0, 1, 0, false, []⟩
def oneStep : Nest := { busyNest with state := .queued, sp := false, rank := 1, ext := [1], a := ⟨true, 0, 0, 0, [1]⟩, b := ⟨true, 1, 0, 0, [1]⟩, tstr := [0] }
def fed (n : Nest) : Ctx := { withNest n with rings := [(0, opRing), (1, opRing)] }

theorem test_meets_NestSteps : (world (fed oneStep)).ctx 0 = some (fed oneStep) ∧ (world (fed oneStep)).works 0 (unitMatrix 0) = true ∧ (fed oneStep).nextNest = some oneStep ∧
    (fed oneStep).nestReady oneStep = true ∧ oneStep.check (fed oneStep).rings = none ∧ oneStep.check [] = some (1, .mgoField) ∧
    (fed { oneStep with state := .running }).nests.find? (fun n => n.state == .running) = some { oneStep with state := .running } ∧ oneStep.cur = none ∧ oneStep.started < oneStep.total ∧
    oneStep.nextAt ≤ 0 ∧ filled (SMap.get Ring.zero (fed oneStep).rings 0) oneStep.ha (oneStep.uA 0).toNat = true ∧ filled (SMap.get Ring.zero (fed oneStep).rings 1) oneStep.hb (oneStep.uB 0).toNat = true ∧
    (∃ m, m = { oneStep with state := .running, started := 1, cur := some ⟨0, false, true, false, false, 0, 0, 0, 0, 0⟩ } ∧ (fed m).nests.find? (fun n => n.cur.isSome) = some m) ∧
    (fed oneStep).ctl.qctl % 2 = 0 ∧ SMap.wf Ring.zero (fed oneStep).rings = true := by
  refine ⟨rfl, ?_, ?_, ?_, ?_, ?_, ?_, ?_, ?_, ?_, ?_, ?_, ⟨_, rfl, ?_⟩, ?_, ?_⟩ <;> decide +kernel

/-- shd0 describes one FP32 element of scratchpad; shd1 is the same from ring 0. -/
def strided : Ctx := { base with shapeAct := [(64, 0x7FFFFC), (65, 0x200), (68, 1), (74, 1), (81, 0x20200), (84, 1), (90, 1)] }

/-- A stream of one element in scratchpad that acquires, in the given mode. -/
def oneElement (m : SMode) : Stream := ⟨m, strided.view 4 0, 0, true, false, 0, 0, 0, [], 0, true, 0, none, [], []⟩
def streaming (st : Stream) : Ctx := { base with streams := [some st, none, none, none, none, none, none, none] }

theorem test_meets_StreamInstructions : Acts (world strided) (at_ .d) strided ∧ (0 : BitVec 7).toNat < strided.streams.length ∧ ((streaming (oneElement .inp)).stream 0).isSome = true ∧
    strided.stream 0 = none ∧ (base.view 4 0).rank = 0 ∧ (strided.view 5 0).rb ≠ (sModeOf (ops 0 0 0 0 0) == .fill || sModeOf (ops 0 0 0 0 0) == .drain) ∧
    1 ≤ (strided.view 4 0).rank ∧ (strided.view 4 0).rank ≤ 6 ∧ (strided.view 4 0).b4Ok = true ∧ (strided.view 4 0).rb = false ∧ (strided.view 4 0).aligned = true ∧
    (({ strided with shapeAct := [(64, 2), (65, 0x200), (68, 1), (74, 1)] } : Ctx).view 4 0).aligned = false ∧ (4 : BitVec 6).getLsbD 2 = true ∧
    ({ oneElement .out with sent := 1 } : Stream).owes 1 true = true ∧ (oneElement .out).owes 1 true = false := by
  refine ⟨acts rfl, ?_⟩; decide +kernel

/-- Ring words: one of zero slots, one of 32 slots of 16 bytes. A base that is misaligned, the last that fits, one that does not; a ring in use. -/
theorem test_meets_RingInstructions : Acts (world base) (at_ .d) base ∧ ringCfgOk 0 = false ∧ ringCfgOk (32 + 16 * 2 ^ 20) = true ∧ 16 % 32 ≠ 0 ∧ 0x7FFE00 % 32 = 0 ∧
    0x7FFE00 + (32 + 16 * 2 ^ 20) % 2 ^ 17 * ((32 + 16 * 2 ^ 20) / 2 ^ 20 % 2 ^ 20) ≤ 0x800000 ∧ 0x800000 < 0x7FFE20 + (32 + 16 * 2 ^ 20) % 2 ^ 17 * ((32 + 16 * 2 ^ 20) / 2 ^ 20 % 2 ^ 20) ∧
    ringInUse (world (fed oneStep)) 0 (fed oneStep) 0 = true ∧ ringInUse (world base) 0 base 0 = false ∧ (base.ring 0).init = false ∧ ((fed oneStep).ring 0).init = true ∧ ((fed oneStep).ring 0).busy = false ∧
    ({ opRing with busy := true } : Ring).busy = true ∧ opRing.n < 5 ∧ 4 ≤ opRing.n ∧ 1 ≤ opRing.fill ∧ opRing.fill < 2 ∧ 3 ≤ opRing.free ∧ opRing.free < 4 ∧ opRing.cons ≠ 0 ∧ opRing.prod ≠ 0 ∧
    ({ opRing with prod := 0, cons := 0 } : Ring).cons = 0 ∧ ({ opRing with prod := 0, cons := 0 } : Ring).prod = 0 ∧ opRing.cond = false := by
  refine ⟨acts rfl, ?_⟩; decide +kernel

/-- A conditional ring of two records, one of which is filled, with k0 set in one lane and in two. -/
def condRing : Ring := ⟨true, 0, 2, 4, 0, 0, true, 0, 1, 0, false, []⟩
def joined : Ctx := { base with rings := [(0, condRing)], sbal := [⟨0, 3, false, false, 0⟩] }

theorem test_meets_ConditionalRings : Acts (world base) (at_ .d) base ∧ Operands base [8] [] false base [] ∧ (base.ring 0).init = false ∧ condRing.init = true ∧ condRing.cond = true ∧ condRing.busy = false ∧
    ({ condRing with busy := true } : Ring).busy = true ∧ (((List.range 128).filter fun l => (({ base with k := [(1, 3)] } : Ctx).rk 1).getLsbD l).length = 2) ∧ condRing.free < 2 ∧
    (((List.range 128).filter fun l => (({ base with k := [(1, 1)] } : Ctx).rk 1).getLsbD l).length = 1) ∧ 1 ≤ condRing.free ∧ base.stream 0 = none ∧
    (streaming (oneElement .cond)).stream 0 = some (oneElement .cond) ∧ (oneElement .inp).mode ≠ .cond ∧ (oneElement .cond).bound = true ∧ (oneElement .cond).queue.length < 4 ∧
    4 ≤ ({ oneElement .cond with queue := List.replicate 4 ⟨0, 0, 0, true, 0⟩ } : Stream).queue.length := by
  refine ⟨acts rfl, ⟨base, base, rfl, rfl, rfl⟩, ?_⟩; decide +kernel

theorem test_meets_BalanceRuns : 0 < (world joined).parts.length ∧ (world joined).team 0 0 = some baseTeam ∧ baseTeam.cores.filterMap (fun c => ((world joined).ctx c).map fun x => (c, x)) = [(0, joined)] ∧
    [(0, joined)].filter (fun e => (e.2.joins 0).isSome) = [(0, joined)] ∧
    (List.range 32).find? (fun r => [(0, joined)].any (fun e => (e.2.joins r).isSome) && [(0, joined)].all fun e => e.2.state == .ended || (e.2.joins r).isSome) = some 0 ∧
    joined.drained (world joined) 0 = true ∧ (world joined).works 0 (unitStream 0) = true ∧ (joined.ring 0).init = true ∧ (joined.ring 0).cond = true ∧
    ((world joined).onTeam 0 0 fun m => { m with sbals := [⟨0, false, [⟨0, 3, [1, 0, 0, 0]⟩]⟩] }).team 0 0 = some { baseTeam with sbals := [⟨0, false, [⟨0, 3, [1, 0, 0, 0]⟩]⟩] } ∧
    SMap.wf Ring.zero joined.rings = true := by
  refine ⟨by decide, rfl, rfl, rfl, ?_, ?_, rfl, rfl, rfl, rfl, ?_⟩ <;> decide +kernel

/-- A fill stream of one word into a ring with one reserved slot; an out stream with a word sent; a drain stream whose word is written. -/
def fillRing : Ring := ⟨true, 0, 2, 4, 1, 0, false, 0, 0, 1, false, []⟩
def drainRing : Ring := ⟨true, 0, 2, 4, 0, 1, false, 0, 1, 0, false, []⟩

theorem test_meets_StreamSteps : (streaming (oneElement .inp)).stream 0 = some (oneElement .inp) ∧ streamWorks (world base) 0 0 base.part = true ∧ (oneElement .inp).want 1 = [0] ∧
    allPresent (((oneElement .inp).want 1).map (streamElem (world base) 0 0 base (oneElement .inp))) = some [0] ∧
    (oneElement .fill).filling 4 = true ∧ ringRoleOk { base with rings := [(0, fillRing)] } (oneElement .fill) = true ∧ fillRing.resv ≠ 0 ∧ (oneElement .fill).bound = true ∧ (oneElement .fill).rel = false ∧
    allPresent (((oneElement .fill).want 4).map (streamElem (world base) 0 0 base (oneElement .fill))) = some [0] ∧ SMap.wf Ring.zero [(0, fillRing)] = true ∧ 0 < base.streams.length ∧
    ({ oneElement .out with sent := 1 } : Stream).pos ≠ ({ oneElement .out with sent := 1 } : Stream).sent ∧ (∀ q ∈ (world base).fabric, q.origin ≠ .stream 0 0) ∧
    ringRoleOk { base with rings := [(0, drainRing)] } (oneElement .drain) = true ∧ drainRing.fill ≠ 0 ∧ (oneElement .drain).view.count ≠ 0 ∧ (oneElement .drain).slots < (oneElement .drain).slotCount 4 ∧
    min (oneElement .drain).view.count ((((oneElement .drain).slots + 1) * 4 * 8 + (oneElement .drain).w - 1) / (oneElement .drain).w) ≤ ({ oneElement .drain with pos := 1, sent := 1 } : Stream).pos := by
  decide +kernel
/-! #### Copies, landings and homes -/

/-- `strided` with shd1 as two FP32 elements and shd2 as a ring; tag 3 busy. -/
def copying : Ctx := { base with shapeAct := [(64, 0x7FFFFC), (65, 0x200), (68, 1), (74, 1), (81, 0x200), (84, 2), (90, 1), (97, 0x20200), (100, 1), (106, 1)], copies := [(3, ⟨true, 0⟩)] }

/-- A copy that starts; shapes of rank 0; sides that differ; rings on both sides; a copy of no bytes; tags idle and busy. -/
theorem test_meets_CopyInstructions : Acts (world copying) (at_ .d) copying ∧ (copying.copyTag 3).busy = true ∧ (copying.copyTag 2).busy = false ∧ ((base.view 4 0).shapeOk && (base.view 5 0).shapeOk) = false ∧
    ((copying.view 4 0).shapeOk && (copying.view 5 0).shapeOk) = true ∧ ((copying.view 4 0).rb = false ∧ (copying.view 5 0).rb = false ∧ (copying.view 4 0).count ≠ (copying.view 5 0).count) ∧
    ((copying.view 6 0).rb && (copying.view 6 0).rb) = true ∧ (copying.view 4 0).w = (copying.view 4 0).w ∧ (copying.view 4 0).count * (copying.view 4 0).w / 8 < 2 ^ 48 ∧
    ((copying.view 4 0).global || (copying.view 4 0).rb || (copying.view 4 0).aligned) = true ∧ ((copying.view 4 0).global || (copying.view 4 0).rb || (copying.view 4 0).inBounds) = true ∧ 0 < (copying.view 4 0).count ∧
    (({ copying with shapeAct := [(64, 0x7FFFFC), (65, 0x200), (68, 0), (74, 1)] } : Ctx).view 4 0).count = 0 ∧ (∀ i ∈ [2], (copying.copyTag i).busy = false) ∧ (∃ i ∈ List.range 16, (copying.copyTag i).busy = true) := by
  refine ⟨acts rfl, ?_⟩; decide +kernel

/-- A count of 3 against operands 3 and 4, immediate and scalar. -/
theorem test_meets_LandingCounts : Acts (world base) (at_ .d) base ∧ ((0 : BitVec 7) ++ (0 : BitVec 7) ++ (3 : BitVec 7)).toNat ≤ SMap.get 0 [(2, 3)] 2 ∧
    SMap.get 0 [(2, 3)] 2 < ((0 : BitVec 7) ++ (0 : BitVec 7) ++ (4 : BitVec 7)).toNat ∧ ((withS [(1, 0x100000003)]).rs 1).toNat % 2 ^ 32 ≤ SMap.get 0 [(2, 3)] 2 ∧
    SMap.get 0 [(2, 3)] 2 < ((withS [(1, 4)]).rs 1).toNat % 2 ^ 32 ∧ SMap.get 0 [(2, 0xFFFFFFFF)] 2 < 2 ^ 32 := by
  refine ⟨acts rfl, ?_⟩; decide

/-- A command whose source ends the scratchpad, with one free place in the queue and with none, and one that is misaligned. -/
def signal : LCmd := ⟨0, 0, 0, false, .sig 3 0, none, false, false⟩

theorem test_meets_LandingCommands : Acts (world base) (at_ .d) base ∧ ((List.replicate 255 signal).filter LCmd.counts).length < 256 ∧ 256 ≤ ((List.replicate 256 signal).filter LCmd.counts).length ∧
    [(targetOk 0 && sourceOk 0x800000, 29), (true, 2)].find? (fun e => !e.1) = some (false, 29) ∧ [((4 : Nat) % 8 == 0, 2), (decide ((4 : Nat) + 8 ≤ 0x800000), 3)].find? (fun e => !e.1) = some (false, 2) ∧
    (∀ e ∈ [((0x7FFFF8 : Nat) % 8 == 0, 2), (decide ((0x7FFFF8 : Nat) + 8 ≤ 0x800000), 3)], e.1 = true) := by
  refine ⟨acts rfl, ?_⟩; decide +kernel

theorem test_meets_FencesAndInvalidations : Acts (world base) (at_ .d) base ∧ (base.lq.filter LCmd.counts).length < 256 ∧ 32 % 64 ≠ 0 ∧ 0x7FFFC0 % 64 = 0 ∧ 0x7FFFC0 + 64 ≤ 0x800000 ∧ 0x800000 < 0x800000 + 64 ∧
    (∃ q ∈ ({ base with lq := [signal] } : Ctx).lq, q.counts = true ∧ (q.away (world base) base = false)) ∧ (∀ q ∈ base.lq, q.counts = true → (0 : BitVec 3) ≠ 4 ∧ q.away (world base) base = true) ∧
    4 ≤ ({ base with vainv := 4 } : Ctx).vainv ∧ base.vainv < 4 ∧ 2 ^ 56 ≤ 2 ^ 56 ∧ 2 ^ 56 < 2 ^ 56 - 1 + 2 ∧ (2 ^ 56 - 1 < 2 ^ 56 ∧ 2 ^ 56 - 1 + 1 ≤ 2 ^ 56) := by
  refine ⟨acts rfl, ?_⟩; decide +kernel

theorem test_meets_TimeAndTriggers : Acts (world base) (at_ .d) base ∧ ((world base).core (world base).cur).trace.on = false := ⟨acts rfl, by decide⟩

/-- Results that are due: into s3, v3, k3, the predicates, s0 (which discards), and a transient one; a chained cell result. -/
def due (l : Loc) (t : Bool) : Result := ⟨0, 0, .s0, t, l, 1, .now 1 0⟩
def landing (r : Result) : Ctx := { base with results := [r] }
def cellDue : CellResult := ⟨0, 0, .q, 0, 0, true, [⟨0, false, .code 1⟩], 0, 0, none, 0⟩

theorem test_meets_LandingsLand : (world (landing (due (.s 3) false))).ctx 0 = some (landing (due (.s 3) false)) ∧ (landing (due (.s 3) false)).nextResult = some (due (.s 3) false) ∧
    (landing (due (.v 3) false)).nextResult = some (due (.v 3) false) ∧ (landing (due (.k 3) false)).nextResult = some (due (.k 3) false) ∧ (landing (due .p false)).nextResult = some (due .p false) ∧
    (landing (due (.s 3) true)).nextResult = some (due (.s 3) true) ∧ (due (.s 3) true).t = true ∧ Ctx.discards (due (.s 0) false).loc = true ∧ (due (.s 3) false).loc.early = false ∧
    (due (.s 3) false).val.eval ((base.ctl.dph + base.dphAdv) % 32) = (1, 0) ∧ SMap.wf 0 base.s = true ∧ SMap.wf 0 base.v = true ∧ SMap.wf 0 base.k = true ∧
    firstBy CellResult.before ([cellDue].filter fun r => decide (r.at_ ≤ base.bn)) = some cellDue ∧ cellDue.chained = true ∧ cellDue.ovf = none := by
  refine ⟨rfl, ?_⟩; decide +kernel

/-- A held bundle of ADD s3, s1, s2, and a crossing and an ALIASF at the head of the queue. -/
def heldTask : Ctx := { base with state := .held }
def heldAdd : State := (world heldTask).setCore 0 { (adding.core 0) with ctx := some heldTask }
def crossing (a r : Bool) : LCmd := ⟨0, 0, 0, false, .cross a r, none, false, false⟩

/-- The bundle of an RVW of point 0, held. -/
def heldRvw : State := (world heldTask).setCore 0 { (State.reset.withFetchWord 128 ((encode (.rvw (at_ .b) ⟨0, 0⟩)).foldr (fun w n => w + 2 ^ 64 * n) 0)).core 0 with ctx := some heldTask }

theorem test_meets_stalled_wait : ∃ hdr w, heldRvw.ctx 0 = some heldTask ∧ (heldRvw.part 0).halt = none ∧ fetch (landDue heldRvw 0).1 0 heldTask = .ok hdr 16 [(.b, w, .rvw (at_ .b) ⟨0, 0⟩)] ∧
    ∃ y, (readied (landDue heldRvw 0).1 0 hdr 16 heldTask [(.b, w, .rvw (at_ .b) ⟨0, 0⟩)]).ctx 0 = some y ∧ (y.rvTask (rvPointOf ⟨0, 0⟩)).out = false :=
  ⟨_, _, rfl, rfl, rfl, _, rfl, by decide +kernel⟩

theorem test_meets_StallsAndCrossings : heldAdd.ctx 0 = some heldTask ∧ heldTask.state = .held ∧ fetch (landDue heldAdd 0).1 0 heldTask = .ok 0x8010000000000000 16 addWords ∧
    (∃ t, runAll 0 (actOrder addWords) ⟨readied (landDue heldAdd 0).1 0 0x8010000000000000 16 heldTask addWords, none, none, none⟩ = .next t ∧ t.stop = none ∧ t.held = none) ∧ base.state ≠ .held ∧
    splitCross [] [crossing true true] = some ([], crossing true true, []) ∧ (crossing true true).op = .cross true true ∧ (world base).works base.part (unitLanding 0) = true ∧
    writesDone (world base) 0 base 0 [] = true ∧ splitCross [] [⟨0, 0, 0, false, .alias_ (some 15), none, false, false⟩] = some ([], ⟨0, 0, 0, false, .alias_ (some 15), none, false, false⟩, []) :=
  ⟨rfl, rfl, rfl, ⟨_, rfl, rfl, rfl⟩, by decide, rfl, rfl, by decide, by decide, rfl⟩

/-- A request of core 0 at home 0, over memory that holds the bytes `m`. -/
def asks (op : LOp) : Packet := pkt (.land 0 0) (.home 0) 0 (.op 0 0 op) none
def atHome0 (q : Packet) (m : SMap Byte) : State := { world base with fabric := [q], mem := m, hbmStacks := (world base).hbmStacks.set 0 { Stack.reset with cralloc := [(0, 2 ^ 16)] } }

theorem arrives (q : Packet) (m : SMap Byte) (n : Nat) : (atHome0 q m).Arrives 0 q n := ⟨rfl, rfl, by unfold filterMax; split <;> exact Nat.succ_pos _, rfl⟩

theorem test_meets_HomeOperations (o : LOp) (m : SMap Byte) : (atHome0 (asks o) m).Arrives 0 (asks o) 0 ∧ (asks o).body = .op 0 0 o ∧ (asks o).dest = .home 0 ∧ homeWorks (atHome0 (asks o) m) 0 0 = true ∧
    ((atHome0 (asks o) m).taken 0).converting 0 = false ∧ (∀ p l, (asks o).origin ≠ .log p l) :=
  ⟨arrives _ _ _, rfl, rfl, rfl, rfl, by intro p l h; cases h⟩

/-- Each operation applied to words that are zero: an add, a load, a compare that matches and one that does not, an enqueue into a ring of 8 with none in it, an ARED and its finalisation, a raise, and posts within and past the counter. -/
theorem test_meets_applied (s : State) (e : s = atHome0 (asks (.sig 0 0)) [(8, 8)]) : crucibleOk s 0 0 0 = true ∧ (applyAop s 0 3 0 0 8 1).isSome = true ∧ (applyAop s 0 3 0 10 4 0).isSome = true ∧ (applyCas s 0 3 0 8 0 5).isSome = true ∧
    (applyCas s 0 3 0 8 1 5).isSome = true ∧ (applyCasw s 0 3 0 1 [0, 0, 0, 0, 0, 0, 0, 0] [1, 0, 0, 0, 0, 0, 0, 0]).isSome = true ∧ (applyEnq s 0 3 0 7).isSome = true ∧
    (homeWord s 8 8 ≠ 0 ∧ homeWord s 8 8 ≤ 504 ∧ homeWord s 0 8 < homeWord s 8 8) ∧ (crucibleAdd s 0 0 0 0 0x3F800000).isSome = true ∧ (crucibleFin s 0 3 0 0 0 0 0).isSome = true ∧
    ((applyRaise s 0 3 0 1).map Prod.snd) = some none ∧ (applyPost s 0 3 0 0 1 0 0).isSome = true := by
  subst e; decide +kernel

/-- What arrives at core 0: a put of one byte, a signal, an acknowledgement and a reply of a command with its request. -/
def comes (b : Body) : Packet := pkt (.land 0 0) (.core 0) 0 b none
def request : Req := ⟨0, 0, 0, 0, 0, 0, 10000, 0, some 0, true, 1, [comes (.sig 3)]⟩
def command (op : LOp) : LCmd := ⟨0, 0, 0, false, op, some 0, false, false⟩
def waiting (op : LOp) (b : Body) : State := { world { base with lq := [command op] } with fabric := [comes b], reqs := [request] }
def chased (m : SMap Byte) : State :=
  { world base with fabric := [(pkt (.land 0 0) (.home 0) 0 (.chase ⟨0, 0, 2, 0, 0⟩ 0) none)], mem := m, dies := [(0, ⟨[], [⟨0, 1, 0, true, true, false, 0, false⟩]⟩)] }

theorem test_meets_TargetsAndReplies : (waiting (.sig 3 0) (.put 0 1 false 0x7FFFFF 0 [7] 1 3 none)).Arrives 0 (comes (.put 0 1 false 0x7FFFFF 0 [7] 1 3 none)) 10 ∧ takesPuts (world base) 0 0 0 = true ∧ (world base).puts = [] ∧
    (waiting (.sig 3 0) (.sig 3)).Arrives 0 (comes (.sig 3)) 10 ∧ (waiting (.sig 3 0) (.reply .done)).fabric[0]? = some (comes (.reply .done)) ∧
    [request].find? (fun t => t.core == 0 && t.seq == 0) = some request ∧ [command (.sig 3 0)].find? (fun e => e.sent == some 0 && e.counts) = some (command (.sig 3 0)) ∧
    (world base).works 0 (unitLanding 0) = true ∧ (LOp.sig 3 0).isPut = true ∧ (LOp.aenq 3 0 0 8).isPut = false ∧ retAt (.aenq 3 0 0 8) = some 8 ∧
    (chased []).Arrives 0 (pkt (.land 0 0) (.home 0) 0 (.chase ⟨0, 0, 2, 0, 0⟩ 0) none) 0 ∧ homeWorks (chased []) 0 0 = true ∧ (chased []).converting 0 = false ∧ (chased []).filter 0 0 = none ∧
    homeWord (chased []) 0 8 = 0 ∧ homeWord (chased [(0, 3)]) 0 8 % 8 ≠ 0 ∧ (homeWord (chased [(0, 8)]) 0 8 ≠ 0 ∧ homeWord (chased [(0, 8)]) 0 8 % 8 = 0 ∧ pointsHome (chased [(0, 8)]) 0 0 8 = true ∧
    (∃ g, reachNow (chased [(0, 8)]) 0 0 .load 8 = .ok g ∧ g.tgt = .home 0 8) ∧ 0 + 1 ≠ 2) ∧
    ((request.retries + 1) * 2 ^ 16 ≤ 2 ^ 16 - request.cycle ∧ request.refused = some 0 ∧ 256 ≤ 256 - 0 ∧ (world base).usCycles request.fto ≤ 15000000 - request.cycle ∧ request.module ≠ (world base).modid ∧ [request].filter (fun u => u.module == request.module) = [request]) ∧
    (comes .release).body = .release ∧ (∀ p ∈ (waiting (.sig 3 0) .release).fabric.take 0, p.src ≠ (comes .release).src ∨ p.dest ≠ (comes .release).dest) := by
  refine ⟨⟨rfl, rfl, by decide, rfl⟩, ?_, rfl, ⟨rfl, rfl, by decide, rfl⟩, rfl, rfl, rfl, ?_, rfl, rfl, rfl, ⟨rfl, rfl, by decide, rfl⟩, ?_, ?_, rfl, ?_, ?_, ⟨?_, ?_, ?_, ⟨_, rfl, ?_⟩, ?_⟩, ?_, rfl, ?_⟩ <;> decide +kernel
/-! #### Dispatch -/

/-- The module with partition 0 changed. -/
def with0 (f : Part → Part) : State := (world base).onPart 0 f

/-- Queue 0 of partition 0 of 16 records from address 0, with one record waiting, and memory that begins with it. -/
def waitingQ : Queue := ⟨0, 0, false, true, 0, 4, 0, 1, 0, 0⟩
def headed (w : Nat) : State := { with0 fun q => { q with queues := [(0, waitingQ)] } with mem := SMap.write [] 0 (bytesOf w 128) }
def idle (w : Nat) : State := (headed w).onPart 0 fun q => { q with nests := [], teams := [] }
def starts (s : State) (ty w : Nat) : Bool := pickQueue s 0 == some 0 && queueRec s ((s.part 0).queue 0) 0 == some (bytesOf w 128) && recordOk (bytesOf w 128) && field (bytesOf w 128) 0 1 == ty

/-- A record of one task and no loop, at code address 0 of 8 bytes. -/
def nestWord : Nat := 0x01110201 + 8 * 2 ^ 128 + (List.range 6).foldl (fun a j => a + 2 ^ (320 + 32 * j)) 0

/-- An NLAUNCH that has come to that queue. -/
def appending : State := { headed 0 with fabric := [pkt (.land 0 0) .dispatch 0 (.nlaunch 0 []) none] }

/-- Tails at the most that R102 allows and past it; a team-local queue; depths 4, 12 and 13; a head that has waited 2^20 cycles; an appended record's four answers. -/
theorem test_meets_QueueEvents : waitingQ.tl = false ∧ ((16 + 2 ^ 32 - waitingQ.head) % 2 ^ 32 ≤ 2 ^ waitingQ.log2n ∧ (16 + 2 ^ 32 - waitingQ.tail) % 2 ^ 32 ≤ (16 + 2 ^ 32 - waitingQ.head) % 2 ^ 32) ∧
    2 ^ waitingQ.log2n < (17 + 2 ^ 32 - waitingQ.head) % 2 ^ 32 ∧ ({ waitingQ with tl := true } : Queue).tl = true ∧ (0x10004 : Word).getLsbD 16 = true ∧ 4 ≤ fld 0x10004 3 0 ∧ fld 0x1000C 3 0 ≤ 12 ∧
    (fld 0x10003 3 0 < 4 ∧ 12 < fld 0x1000D 3 0) ∧ waitingQ.head ≠ waitingQ.tail ∧ ((headed 0).part 0).en = true ∧ min 7 (waitingQ.prio + waitingQ.boost) < 7 ∧ (waitingQ.boost + 1) * 2 ^ 20 ≤ 2 ^ 20 - waitingQ.since ∧
    SMap.wf Queue.reset ((headed 0).part 0).queues = true ∧ 0 < (headed 0).parts.length ∧ ((headed 0).part 0).queue 0 = waitingQ ∧
    appending.fabric[0]? = some (pkt (.land 0 0) .dispatch 0 (.nlaunch 0 []) none) ∧ appending.filter 600 0 = none ∧ (appending.filters.filter fun e => e.at_ == 600).length < filterMax 600 ∧
    firstOfSource appending 0 (pkt (.land 0 0) .dispatch 0 (.nlaunch 0 []) none) = true ∧ (appending.taken 0).dram (waitingQ.base + waitingQ.tail % 2 ^ waitingQ.log2n * 128) = some 128 ∧
    (appending.taken 0).converting 128 = false ∧ (appending.taken 0).converting (128 + 64) = false ∧ (recordWrite (appending.taken 0) 0 (homeOf 128) 128 (bytesOf 1 128)).isSome = true ∧
    ((headed 0).part 0).halt = none ∧ Queue.reset.en = false ∧ waitingQ.en = true ∧ 2 ^ waitingQ.log2n ≤ (16 + 2 ^ 32 - waitingQ.head) % 2 ^ 32 ∧ (15 + 2 ^ 32 - waitingQ.head) % 2 ^ 32 < 2 ^ waitingQ.log2n := by
  and_intros <;> decide +kernel

/-- A fence, a seal request of its own group and of another, a level switch to D1; and a switch under way, to D1 and to D2 where every block is taken. -/
def switching (l lv : Nat) : State := (({ world base with cores := [] }).onPart 0 fun q => { q with
  teams := [], nests := [], level := lv, lane := 1, switch := some l, ctrls := [⟨0, 0, 0x10, l⟩] }).onPart 1 fun q => { q with en := true, level := 2, hk := 6, hblk := 0 }

theorem test_meets_ControlPackets : starts (idle 0x11) 0x11 0x11 = true ∧ starts (headed 0x12) 0x12 0x12 = true ∧ field (bytesOf 0x12 128) 8 4 = ((headed 0x12).part 0).gid ∧
    starts (headed (0x12 + 2 ^ 64)) 0x12 (0x12 + 2 ^ 64) = true ∧ field (bytesOf (0x12 + 2 ^ 64) 128) 8 4 ≠ ((headed 0x12).part 0).gid ∧ starts (idle (0x10 + 2 ^ 64)) 0x10 (0x10 + 2 ^ 64) = true ∧
    ((switching 1 0).part 0).switch = some 1 ∧ (((switching 1 0).part 0).ctrls.find? fun c => c.kind == 0x10) = some ⟨0, 0, 0x10, 1⟩ ∧ allQuiet (switching 1 0) 0 = true ∧ ((switching 1 0).part 0).halt = none ∧
    ((switching 2 0).part 0).level ≠ 2 ∧ (headed 0x11).dram (waitingQ.recAt 0 + 120) = some 120 ∧ hbmBlock (switching 2 0) 0 = none ∧ (hbmBlock ((switching 2 0).onPart 1 fun q => { q with hk := 0 }) 0).isSome = true := by and_intros <;> decide +kernel

def translates : State := { headed (nestWord + 256) with dies := [(0, ⟨[], [⟨0, 1, 0, true, true, false, 0, false⟩]⟩)] }

/-- A record whose fields are out of range, a good one on the whole module and on a partition of one column; copies of misaligned and of aligned views; graphs of no node and of one. -/
theorem test_meets_RecordStarts : starts (headed 1) 1 1 = true ∧ (nestRec (bytesOf 1 128)).fieldsOk = false ∧ starts (headed nestWord) 1 nestWord = true ∧ (nestRec (bytesOf nestWord 128)).fieldsOk = true ∧
    candidates ((advance (headed nestWord) 0 0).part 0) 1 1 ≠ [] ∧ candidates ((with0 fun q => { q with wm1 := 0 }).part 0) 2 1 = [] ∧
    starts (headed (0x203 + 2 ^ 64)) 3 (0x203 + 2 ^ 64) = true ∧ field (bytesOf (0x203 + 2 ^ 64) 128) 8 8 % 4 ≠ 0 ∧ starts (headed 0x203) 3 0x203 = true ∧ 2 ^ bits (field (bytesOf 0x203 128) 0 8) 9 8 = 4 ∧
    field (bytesOf 0x203 128) 8 8 % 4 = 0 ∧ field (bytesOf 0x203 128) 16 8 % 4 = 0 ∧ (∀ j < 6, sfield (bytesOf 0x203 128) (40 + 8 * j) % ((4 : Nat) : Int) = 0) ∧
    ((List.range 3).map fun j => field (bytesOf 0x203 128) (24 + 4 * j) 4).foldl (· * ·) 1 * 4 < 2 ^ 48 ∧ starts (headed 2) 2 2 = true ∧ field (bytesOf 2 128) 8 8 % 64 = 0 ∧ field (bytesOf 2 128) 16 2 = 0 ∧
    readVa (headed 2) 0 0 0 = .ok [] := by and_intros <;> decide +kernel

/-- The same record with an M3 image of 8 bytes that can be read. -/
theorem test_meets_m3 : starts translates 1 (nestWord + 256) = true ∧ (nestRec (bytesOf (nestWord + 256) 128)).fieldsOk = true ∧ candidates (translates.part 0) 1 1 ≠ [] ∧
    (nestRec (bytesOf (nestWord + 256) 128)).m3 = true ∧ readVa translates 0 (nestRec (bytesOf (nestWord + 256) 128)).code (nestRec (bytesOf (nestWord + 256) 128)).clen = .ok (bytesOf (nestWord + 256) 8) := by
  and_intros <;> decide +kernel

/-- An iteration to launch; a team to retire; a wait of 2^20 cycles; a slice used up. -/
def launching : State := { (with0 fun q => { q with teams := [], nests := [{ loadedNest with recd := nestRec (bytesOf nestWord 128) }] }) with cores := [], dies := [(0, ⟨[], [⟨0, 1, 0, true, true, false, 0, false⟩]⟩)] }

theorem test_meets_TeamEvents : nextNest launching 0 = some { loadedNest with recd := nestRec (bytesOf nestWord 128) } ∧ rectNow launching 0 { loadedNest with recd := nestRec (bytesOf nestWord 128) } = some (0, 0) ∧
    (nestRec (bytesOf nestWord 128)).m3 = false ∧ readVa launching 0 0 8 = .ok [0, 0, 0, 0, 0, 0, 0, 0] ∧ readVa launching 0 0 0 = .ok [] ∧ SMap.wf Core.reset launching.cores = true ∧
    (world { base with state := .ended }).team 0 0 = some baseTeam ∧ baseTeam.arrivals = [] ∧ baseTeam.sbals = [] ∧ (world { base with state := .loading }).ctx 0 = some { base with state := .loading } ∧ baseTeam.phase = .running ∧ ((world base).part 0).halt = none ∧
    baseTeam.cores.all (fun c => taskDone (world { base with state := .ended }) c 0) = true ∧
    (((with0 fun q => { q with nests := [{ loadedNest with refused := some 0 }] }).part 0).nests.find? fun n => n.id == 0) = some { loadedNest with refused := some 0 } ∧ min 7 (loadedNest.prio + loadedNest.boost) < 7 ∧
    (loadedNest.boost + 1) * 2 ^ 20 ≤ 2 ^ 20 - 0 ∧ baseTeam.sliced = false ∧ ((world base).part 0).level ≠ 2 ∧ ((world base).part 0).slice ≤ 0x400000 - baseTeam.start := by and_intros <;> decide +kernel

/-- A log with no status record and no JCB, of D0 and of D1; a SIGNAL node that has been performed. -/
def oneLog : Log := ⟨7, ⟨0, 0, none⟩, 2, 0, 1, allOnes64, 0, 0, false⟩
def signalNode : Graph := ⟨3, ⟨0, 0, none⟩, 0, 0, 0, 0, [⟨6, 0, [], 0, 1⟩], [0], [], [0], [], 1, none⟩

theorem test_meets_LogsAndSignals : (((with0 fun q => { q with logs := [oneLog] }).part 0).logs.find? fun l => l.src.queue == 0 && !l.sent && !logBlocked (with0 fun q => { q with logs := [oneLog] }) 0 l) = some oneLog ∧
    ((with0 fun q => { q with logs := [oneLog] }).part 0).halt = none ∧ ((with0 fun q => { q with logs := [oneLog] }).part 0).en = true ∧ oneLog.status = 0 ∧ oneLog.jcb = 0 ∧
    (((with0 fun q => { q with graphs := [signalNode] }).part 0).graphs.find? fun r => r.id == 3) = some signalNode ∧ 0 ∈ signalNode.running ∧ (signalNode.node 0).kind = 6 ∧
    (∀ k ∈ (with0 fun q => { q with graphs := [signalNode] }).fabric, k.origin ≠ .node 0 3 0) := by and_intros <;> decide +kernel

/-- PCFG of a rectangle of 4 by 4 cores at D0; one that overlaps partition 0; a partition whose team runs, one that has halted, and one with no team. -/
theorem test_meets_PartitionsOnAndOff : 1 < State.reset.parts.length ∧ (State.reset.part 1).en = false ∧ fld 0x03030202 33 32 ≠ 2 ∧ enableErr (State.reset.onPart 1 fun q => q.config 0x03030202) 1 = 0 ∧
    SMap.wf Core.reset State.reset.cores = true ∧ ((world base).part 1).en = false ∧ 5 ≤ (world base).mgmt.phase ∧ enableErr ((world base).onPart 1 fun q => q.config 0x03030202) 1 ≠ 0 ∧
    ((world base).part 0).en = true ∧ ((world base).part 0).halted = false ∧ baseTeam ∈ ((world base).part 0).teams ∧ baseTeam.phase = .running ∧
    ((with0 fun q => { q with halted := true }).part 0).halted = true ∧ (∀ m ∈ ((with0 fun q => { q with teams := [] }).part 0).teams, m.phase ≠ .running) := by and_intros <;> decide +kernel

/-! #### Copies, translation, halts and pre-emption -/

/-- A copy of one FP32 element of core 0 under tag 3: as it waits for a gather packet, as its burst is done, and as it is complete. -/
def oneCopy : Copy := ⟨9, 0, 0, 0, 0, .cpy 0 0 3 (some 2) false, 0, false, false, 0, 32, 1, 1, .view (strided.view 4 0), .view (strided.view 4 0), 0, 1, [], none, 0, none, false, [], none, 10000⟩
/-- Its burst, with a gather packet of the element still to come. -/
def oneBurst : Burst := ⟨0, 0, 1, 0, true, [], [(0, [(0, 0)])], false⟩
def copies (c : Copy) : State := { world base with copies := [c] }

theorem test_meets_CopyEvents : (copies { oneCopy with bursts := [oneBurst] }).copies[0]? = some { oneCopy with bursts := [oneBurst] } ∧
    [oneBurst].find? (fun b => b.gather.any fun g => g.1 == 0) = some oneBurst ∧ oneBurst.gather.findIdx? (fun g => g.1 == 0) = some 0 ∧ oneBurst.gather[0]? = some (0, [(0, 0)]) ∧
    homeWorks (copies oneCopy) 0 0 = true ∧ (∀ e ∈ [(0, 0)], (copies oneCopy).converting e.2 = false) ∧ oneCopy.src = .view (strided.view 4 0) ∧ oneCopy.stopped = false ∧ oneCopy.rtWait = none ∧
    (copies oneCopy).works 0 (unitCopy 0 0) = true ∧ ({ oneCopy with done := 1 } : Copy).done = oneCopy.n ∧ oneCopy.bursts = [] ∧ copyFree (copies { oneCopy with done := 1 }) { oneCopy with done := 1 } = true ∧
    oneCopy.by_ = .cpy 0 0 3 (some 2) false ∧ ({ oneCopy with n := 2, bursts := [{ oneBurst with pos := 1, gather := [] }] } : Copy).bursts = [{ oneBurst with pos := 1, gather := [] }] ∧
    oneBurst.ended = false ∧ ({ oneBurst with pos := 1 } : Burst).pos = oneBurst.hi ∧ oneBurst.hi < 2 ∧
    (∀ q ∈ (copies oneCopy).fabric, q.origin ≠ .copy 9) ∧ oneCopy.ring = none ∧ SMap.wf Core.reset (copies oneCopy).cores = true ∧ SMap.wf ⟨false, 0⟩ base.copies = true := by and_intros <;> decide +kernel

/-- A copy whose remote count is core 0's, taken and refused. -/
def remoteCopy : Copy := { oneCopy with by_ := .cpy 0 0 3 (some 2) true, rtWait := some 0, done := 1, upto := 1, dst := .view ⟨0, true, false, 0, 1, false, 0, 0, 1, [1], [1], 0⟩ }
def apertured (c : Ctx) : State := { world c with copies := [remoteCopy], dies := [(0, ⟨[], [⟨0, 1, 0xF00000000000, true, true, false, 0, false⟩]⟩)] }

theorem test_meets_remote_count : (apertured base).copies[0]? = some remoteCopy ∧ copyFree (apertured base) remoteCopy = true ∧ copyFree (apertured { base with state := .loading }) remoteCopy = true ∧ rtCore (apertured base) remoteCopy = some 0 ∧ takesCount (apertured base) remoteCopy 0 = true ∧ 256 ≤ 256 - 0 ∧
    rtCore (apertured { base with state := .loading }) remoteCopy = some 0 ∧ takesCount (apertured { base with state := .loading }) remoteCopy 0 = false ∧
    (world base).usCycles remoteCopy.fto ≤ 15000000 - 0 := by and_intros <;> decide +kernel

/-- Walks that find a page and that fault; invalidations before, on and after a die. -/
def walking (stale : Bool) : State := { world base with walks := [⟨0, 0, 0, [.land 0 0], stale⟩], dies := [(0, ⟨[(256, 1)], []⟩)], mem := SMap.write (SMap.write [] 0 (bytesOf 0x1001 8)) 0x1000 (bytesOf 7 8) }
def invalOf (b : Option (Nat × Nat × Nat × Option Nat)) (todo waiting : List Nat) : Inval := ⟨0, b, true, 0, 0, false, b.isNone, 0, todo, waiting, []⟩

theorem test_meets_TranslationEvents : (walking false).walks[0]? = some ⟨0, 0, 0, [.land 0 0], false⟩ ∧ (walking true).walks[0]? = some ⟨0, 0, 0, [.land 0 0], true⟩ ∧ (walking false).works 0 (unitXlat 0) = true ∧
    walk (walking false) 0 0 0 = .page ⟨0, 262144, 0, true, false, false, 0, false⟩ ∧ walk { walking false with mem := [] } 0 0 0 = .fault Cause.transMiss.code ∧ 0 ∈ (invalOf none [0] []).todo ∧ (invalOf none [0] []).released = true ∧ (invalOf (some (0, 0, 1, some 8)) [0] []).released = false ∧
    invalReady (world base) (invalOf (some (0, 0, 1, some 8)) [0] []) = true ∧ 0 ∈ (invalOf none [] [0]).waiting ∧ (∀ w ∈ (world base).walks, ¬(w.die = 0 ∧ w.part = 0 ∧ w.stale = true)) ∧
    [0].filter (· != 0) = [] ∧ (invalOf (some (0, 0, 1, some 8)) [] []).todo = [] ∧ (invalOf (some (0, 0, 1, some 8)) [] []).waiting = [] ∧ ((world base).part 0).tinvBusy = false ∧
    ((world base).part 0).dies ≠ [] ∧ ((with0 fun q => { q with tinvBusy := true }).part 0).tinvBusy = true := by
  and_intros <;> decide +kernel
/-- A halt of partition 0 with its issue engine, a stack and the recovery engine still to stop, and one in which all have. -/
def trap : FaultInfo := ⟨0, 0, 0x20, 0, 0, 0, 0, 0, 0, 0, 9, 0⟩
def halting (pending : List Nat) : Halt := ⟨0, [trap], pending, [], false, [], []⟩
def halts (h : Halt) : State := with0 fun q => { q with halt := some h }

theorem test_meets_HaltsOfAPartition : 0 < (world base).parts.length ∧ ((world base).part 0).halt = none ∧ ((halts (halting [])).part 0).halt = some (halting []) ∧ (1 ≠ 0) ∧
    (world base).ctx (world base).cur = some base ∧ base.part < (world base).parts.length ∧ SMap.wf Core.reset (world base).cores = true ∧ 2304 ∈ (halting [0, 2304, 2328]).pending ∧ 2304 ∉ (halting [0, 2304, 2328]).again ∧ saveBusy (world base) (((world base).part 0).recordAt 2304) 128 = false ∧ (∀ m ∈ ((world base).part 0).teams, ∀ l, m.phase ≠ .saving l) ∧
    2304 ∈ ({ halting [0] with stopped := [2304], again := [2304] } : Halt).again ∧ ((halts { halting [0] with stopped := [2304], again := [2304] }).part 0).halt = some { halting [0] with stopped := [2304], again := [2304] } ∧ (halting []).again = [] ∧
    saveBusy (world base) ((world base).part 0).srbase 128 = false ∧ saveBusy (world base) (((world base).part 0).recordAt (4 * 0)) 128 = false ∧
    atBoundary (halts (halting [0, 2304, 2328])) 0 2304 = true ∧ unitKind 2304 ≠ 0 ∧ 4 * 0 ∈ (halting [0, 2304, 2328]).pending ∧ (halts (halting [0])).ctx 0 = some base ∧ base.state = .run ∧
    (halting []).halted = false ∧ (halting []).pending = [] ∧ (halting []).first = some trap := by
  and_intros <;> first | decide +kernel | exact List.forall_mem_singleton.mpr fun l h => by simp [baseTeam, newTeam] at h

/-- A halted partition with a stopped task, one whose recovery engine halted it, one with a free slot, one that dumps. -/
def halted (c : Nat) : State := (world { base with state := .stopped }).onPart 0 fun q => { q with halted := true, hfirst := c, nslot := 1, halt := some { halting [] with halted := true } }

theorem test_meets_ResumeAndDump : 0 < (halted 0x20).parts.length ∧ SMap.wf Core.reset (halted 0x20).cores = true ∧ ((halted 0x20).part 0).halted = true ∧ recoveryCause ((halted 0x20).part 0).hfirst = false ∧
    0 ∈ ((halted 0x20).part 0).cores ∧ (halted 0x20).ctx 0 = some { base with state := .stopped } ∧ recoveryCause ((halted 0x80).part 0).hfirst = true ∧ ((world base).part 0).halted = false ∧
    ((halted 0x20).part 0).slots = [] ∧ (contextsOf (halted 0x20) 0).length ≤ ((halted 0x20).part 0).nslot ∧ ((with0 fun q => { q with dumping := true }).part 0).dumping = true ∧
    struckGather (world base) 0 0 = none ∧ struckGather (copies { oneCopy with bursts := [oneBurst] }) 0 0 = some ({ oneCopy with bursts := [oneBurst] }, oneBurst, 0) ∧
    ((world base).part 0).en = true ∧ ((List.range 16).find? fun p => ((world base).part p).en && ((world base).part p).holds 511) = some 0 := by and_intros <;> decide +kernel

/-- A stopped context, a quiet team with a free slot, one that is being saved, one that is out with no image left to read, and one that has waited. -/
def savable (c : CState) (m : Team) : State := (world { base with state := c }).onPart 0 fun q => { q with nslot := 1, teams := [m] }

/-- No converter of it works, so no image of it is refused. -/
theorem savable_free (c : CState) (m : Team) (a n : Nat) : saveBusy (savable c m) a n = false := by
  have e (k : Nat) : (savable c m).stack k = Stack.reset := by
    show (List.replicate 8 Stack.reset).getD k Stack.reset = _
    simp only [List.getD_eq_getElem?_getD, List.getElem?_replicate]
    split <;> rfl
  have g (b : Nat) : (savable c m).converting b = false := by
    unfold State.converting
    split <;> simp [e, Stack.reset]
  unfold saveBusy
  rw [List.any_eq_false]
  intro i _
  cases (savable c m).dram (a + 64 * i) <;> simp [g]

theorem test_meets_PreemptionEvents : (savable .hinted baseTeam).ctx 0 = some { base with state := .hinted } ∧ base.lq = [] ∧ (∀ o ∈ base.streams, ∀ st, o = some st → st.pos = st.sent) ∧
    (savable .hinted baseTeam).copiesOf 0 = [] ∧ (savable .quiet baseTeam).team 0 0 = some baseTeam ∧ baseTeam.phase = .running ∧ ((savable .quiet baseTeam).part 0).halt = none ∧
    (∀ c ∈ baseTeam.cores, ∃ x, (savable .quiet baseTeam).ctx c = some x ∧ x.state = .quiet) ∧ baseTeam.cores.length ≤ ((savable .quiet baseTeam).part 0).freeSlots.length ∧
    (savable .quiet { baseTeam with phase := .saving [0] }).team 0 0 = some { baseTeam with phase := .saving [0] } ∧ baseTeam.preempts + 1 < 2 ^ 16 ∧ SMap.wf Core.reset (savable .quiet baseTeam).cores = true ∧
    restoreAt ({ savable .run { baseTeam with phase := .out [] } with cores := [] }) 0 { baseTeam with phase := .out [] } = some (0, 0) ∧
    (nextNest (savable .run { baseTeam with phase := .out [] }) 0).any (fun n => decide (((savable .run baseTeam).part 0).prioOf { baseTeam with phase := .out [] } < n.effective)) = false ∧
    (∀ e ∈ baseTeam.cores.zip [0], ∀ x, (savable .quiet { baseTeam with phase := .saving [0] }).ctx e.1 = some x → saveBusy (savable .quiet { baseTeam with phase := .saving [0] })
      (((savable .quiet { baseTeam with phase := .saving [0] }).part 0).slotAt e.2) (image (savable .quiet { baseTeam with phase := .saving [0] }) 0
        (keepOf ((savable .quiet { baseTeam with phase := .saving [0] }).core e.1) x) ((savable .quiet { baseTeam with phase := .saving [0] }).core e.1) x (some { baseTeam with phase := .saving [0] })).length = false) ∧
    ({ baseTeam with stopped := some 0 } : Team).stopped = some 0 ∧ ((savable .run baseTeam).part 0).pwait ≤ 65536 - 0 ∧
    (∃ k ∈ baseTeam.cores, ∀ x, (savable .run baseTeam).ctx k = some x → x.state ≠ .quiet) := by
  refine ⟨rfl, rfl, by decide, rfl, rfl, rfl, rfl, ?_, by decide +kernel, rfl, by decide, by decide +kernel, by decide +kernel, by decide +kernel, ?_, rfl, by decide +kernel,
    ⟨0, by decide, fun x e => ?_⟩⟩
  · intro c h
    obtain rfl : c = 0 := by simpa [baseTeam, newTeam, Team.cores, loadedNest, State.reset] using h
    exact ⟨_, rfl, rfl⟩
  · intro e h x k
    obtain rfl : e = (0, 0) := by simpa [baseTeam, newTeam, Team.cores, loadedNest, State.reset] using h
    exact savable_free _ _ _ _
  · obtain rfl : base = x := Option.some.inj e
    decide

/-! #### Homes, seals, ports and management -/

/-- A packet of stream 0 of core 0 at the given place. -/
def sends (d : Dest) (b : Body) : Packet := pkt (.stream 0 0) d 0 b (some 0)
def sent (d : Dest) (b : Body) : State := { world (streaming (oneElement .inp)) with fabric := [sends d b], cycle := 1500000000 }
/-- Berth 0 up with a key, as CXL. -/
def upBerth : Berth := { Berth.reset with state := 3, cur := 1, pers := 1, klimit := 2 ^ 21, lanes := 4 }
def berthed (b : Berth) (s : State) : State := s.onBerth 0 fun _ => b

theorem test_meets_HomesAndHeldWrites : (sent (.home 0) (.read 0 0 0)).fabric[0]? = some (sends (.home 0) (.read 0 0 0)) ∧
    (((sent (.home 0) (.read 0 0 0)).ctx 0).bind fun x => x.stream 0) = some (oneElement .inp) ∧ inOrder (sent (.home 0) (.read 0 0 0)) 0 = true ∧ homeWorks (sent (.home 0) (.read 0 0 0)) 0 0 = true ∧
    (∀ i < 64, (sent (.home 0) (.read 0 0 0)).converting (64 * 0 + i) = false) ∧ (((sent (.home 0) (.write [(5, 7, 255)] 1 false)).taken 0).homeWrite 0 2 1 [(5, 7, 255)]).isSome = true ∧
    SMap.get 0xFFFF (world base).lmeta 0 ≠ ((world base).part 0).cur % 65536 ∧ SMap.get 0xFFFF [(0, 1)] 0 = ((world base).part 0).cur % 65536 ∧
    (∀ i < [(7 : Byte)].length, ((world base).dram (0 + i)).isSome = true) ∧ inOrder (berthed upBerth (sent (.berth 0 4096) (.write [(5, 7, 255)] 1 false))) 0 = true ∧
    pathOk (berthed upBerth (sent (.berth 0 4096) (.write [(5, 7, 255)] 1 false))) (sends (.berth 0 4096) (.write [(5, 7, 255)] 1 false)) = true ∧ (berthed upBerth (world base)).berthOpen 0 = true ∧
    0 < (world base).berths.length ∧ (∀ y ∈ (sent (.berth 0 4096) (.write [(5, 7, 255)] 1 true)).fabric.take 0, y.origin = .stream 0 0 → y.holdAt = none) ∧
    (berthed upBerth (world base)).holdRoom 0 1 = true ∧ ([⟨0, 0, 1, 4096, [(5, 7, 255)], true⟩] : List Held).findIdx? Held.released = some 0 ∧ (world base).hostUp = true ∧
    ((world base).part 0).gstate < 4 ∧ (sent (.home 0) .release).usCycles 1000000 ≤ (sent (.home 0) .release).cycle - 0 ∧ (sends (.home 0) (.write [(5, 7, 255)] 1 false)).holdAt = none ∧
    noRoom ({ world base with riser := 0, risers := List.replicate 10 (List.replicate 8 ⟨0, 0, false, 0, 0, []⟩) }) (sends (.home 0) (.write [(5, 7, 255)] 1 false)) = true ∧
    SMap.get 0xFFFF [(0, 1)] 0 ≠ 0xFFFF ∧ (∃ p < 16, ((with0 fun q => { q with cur := 40000 }).part p).en = true ∧ 32768 < (((with0 fun q => { q with cur := 40000 }).part p).cur % 65536 + 65536 - SMap.get 0xFFFF [(0, 1)] 0) % 65536) ∧
    atomicAhead (sent (.home 0) (.read 0 0 0)) 0 0 (.home 0) 0 = false ∧ remoteMiss (berthed upBerth (sent (.berth 0 4096) (.write [(5, 7, 255)] 1 false))) (sends (.berth 0 4096) (.write [(5, 7, 255)] 1 false)) = none ∧
    (∀ b ∈ ([(5, 7, 255)] : List MByte), (world base).converting b.1 = false) := by
  and_intros <;> decide +kernel

/-- A group of partition 0 alone: with nothing in flight as it drains, at each message of the exchange, and after FREE's. -/
def groups (g step : Nat) (todo await : List Nat) : State := { world base with cores := [], cycle := 15000000000 }.onPart 0 fun q => { q with
  teams := [], gstate := g, sealing := some ⟨1, todo, await, step, [], []⟩ }

theorem test_meets_SealExchange : (5 < 2 ^ 32 ∧ (5 + 1) % 65536 ≠ 65535) ∧ ((groups 0 1 [] []).part 0).en = true ∧ (groups 0 1 [] []).lead 0 = 0 ∧ (groups 0 1 [] []).sealper ≠ 0 ∧ ((groups 0 1 [] []).part 0).timed = false ∧
    (groups 0 1 [] []).usCycles (1000 * (groups 0 1 [] []).sealper) ≤ (groups 0 1 [] []).cycle - ((groups 0 1 [] []).part 0).sealAt ∧ ((groups 0 1 [] []).part 0).wrote = false ∧ ((with0 fun q => { q with wrote := true }).part 0).wrote = true ∧
    ((groups 1 1 [] []).part 0).leader = (groups 1 1 [] []).modid ∧ ((with0 fun q => { q with gstate := 1, sealing := none }).part 0).sealing = none ∧
    (∀ m ∈ (groups 1 1 [] []).group 0, ((groups 1 1 [] []).part m).gstate = 1 ∧ drained (groups 1 1 [] []) m = true) ∧ (groups 1 1 [] []).group 0 = [0] ∧
    ((groups 1 1 [localMember 0] []).part 0).sealing = some ⟨1, [localMember 0], [], 1, [], []⟩ ∧ drained (groups 1 1 [localMember 0] []) 0 = true ∧ prepareFails (groups 1 1 [localMember 0] []) 0 = none ∧
    ((groups 2 1 [] [3]).part 0).sealing = some ⟨1, [], [3], 1, [], []⟩ ∧ 3 ∈ [3, 4] ∧ 3 ∉ ([] : List Nat) ∧ [3, 4].filter (· != 3) ≠ [] ∧ [3].filter (· != 3) = [] ∧ 3 < 4096 ∧
    ((groups 3 2 [localMember 0] [3]).part ((groups 3 2 [localMember 0] [3]).lead 0)).sealing = some ⟨1, [localMember 0], [3], 2, [], []⟩ ∧ localMember 0 ∈ [localMember 0] ∧
    ((groups 0 2 [] [3]).part 0).sealing = some ⟨1, [], [3], 2, [], []⟩ ∧ ((groups 0 3 [localMember 0] []).part ((groups 0 3 [localMember 0] []).lead 0)).sealing = some ⟨1, [localMember 0], [], 3, [], []⟩ ∧
    ((groups 3 2 [localMember 0] [3]).part 0).gstate < 4 := by and_intros <;> decide +kernel

/-- A second member of the group whose leader register differs. -/
def differing : State := (groups 1 1 [localMember 1] []).onPart 1 fun q => { q with en := true, gid := 0, leader := 7 }

theorem test_meets_prepare_fails : differing.lead 1 = 0 ∧ (differing.part 0).sealing = some ⟨1, [localMember 1], [], 1, [], []⟩ ∧ drained differing 1 = true ∧
    prepareFails differing 1 = some Cause.groupConfig.code ∧ (differing.part 0).leader = differing.modid ∧ (∀ q ∈ [differing.onPart 0 fun q => { q with leader := 9 }],
      q.lead 1 = 0 ∧ (q.part 0).leader ≠ q.modid ∧ prepareFails q 1 = some Cause.groupConfig.code ∧ drained q 1 = true ∧ (q.part 0).sealing = some ⟨1, [localMember 1], [], 1, [], []⟩) ∧
    SMap.wf 0xFFFF differing.lmeta = true := by and_intros <;> decide +kernel

/-- Rollbacks of partition 0: asked by the host, with its one member halted, after a riser was exhausted, and with a restart record. -/
def rolling (c : Nat) : State := with0 fun q => { q with gstate := 4, gcause := c, halted := true, restarts := [⟨0, [], [], [], []⟩] }

theorem test_meets_Rollbacks : (0x10 : Word).getLsbD 4 = true ∧ ((world base).part (fld 0x10 3 0)).en = true ∧ (world base).parts.length = 16 ∧ 0 ∈ (world base).group 0 ∧ (rolling 0x80).lead 0 = 0 ∧
    ((rolling 0x80).part 0).gstate = 4 ∧ (∀ m ∈ (rolling 0x80).group 0, ((rolling 0x80).part m).halted = true) ∧ 0x80 ≠ Cause.riserExhausted.code ∧ 0x80 ≠ Cause.holdExhausted.code ∧
    ((rolling Cause.riserExhausted.code).part 0).gcause = Cause.riserExhausted.code ∧ (⟨0, 1, false, 0, 0, []⟩ : RiserEntry).cell = false ∧
    (((rolling 0x80).part 0).restarts.find? fun r => r.pour == 0) = some ⟨0, [], [], [], []⟩ := by and_intros <;> decide +kernel

/-- Berths: off and empty, with a write held, draining, training with 3 and 4 lanes, and up with a key near its limit and at it. -/
theorem test_meets_BerthEvents : 0 < (world base).berths.length ∧ ((world base).berth 0).state ≠ 1 ∧ ((world base).berth 0).state ≠ 2 ∧ State.holdBytes ((world base).berth 0).hold = 0 ∧
    fld 1 1 0 ≠ ((world base).berth 0).cur ∧ State.holdBytes [⟨0, 0, 1, 4096, [(5, 7, 255)], true⟩] ≠ 0 ∧ ((berthed { upBerth with state := 1 } (world base)).berth 0).state = 1 ∧
    berthDrained (berthed { upBerth with state := 1 } (world base)) 0 = true ∧ upBerth.pers ≠ 0 ∧ Berth.reset.pers = 0 ∧
    berthDrained ({ berthed { upBerth with state := 1 } (world base) with fabric := [pkt (.berth 0 0) (.home 0) 512 (.sig 0) none] }) 0 = false ∧ upBerth.drainTo ≤ 0xE4E1C0 - upBerth.drainAt ∧
    ((berthed { upBerth with state := 2 } (world base)).berth 0).state = 2 ∧ 3 < 4 ∧ 4 ≤ 4 ∧ ((berthed upBerth (world base)).berth 0).state = 3 ∧ upBerth.lowSeen = false ∧
    ({ upBerth with ktx := 2 ^ 20 } : Berth).klimit ≤ ({ upBerth with ktx := 2 ^ 20 } : Berth).ktx + 2 ^ 20 ∧ upBerth.kexh = false ∧ ({ upBerth with ktx := 2 ^ 21 } : Berth).klimit ≤ ({ upBerth with ktx := 2 ^ 21 } : Berth).ktx := by
  and_intros <;> decide +kernel

/-- A signal through berth 0 with the key of partition 0, and with another. -/
def shared : State := (berthed { upBerth with cur := 2 } (world base)).onPart 0 fun q => { q with key := 5 }
def knocks (key : BitVec 32) : RemoteRequest := ⟨0, 7, 3, 4, 1, 0, key, 0, 1, 0, .put 0 0 0 3 false true [] none⟩

theorem test_meets_RemoteRequests : (∀ p < 16, (shared.part p).en = true → (shared.part p).key = 0 ∨ (shared.part p).key ≠ (knocks 6).key.toNat) ∧ admitTo shared (knocks 5) = some 0 ∧
    (shared.berth (knocks 5).berth).state = 3 ∧ (shared.berth (knocks 5).berth).down = false ∧ (shared.berth (knocks 5).berth).cur = 2 ∧ (knocks 5).gid = (shared.part 0).gid := by
  and_intros <;> decide +kernel

/-- CVCTL without GO, while a conversion runs, with a check that fails, and with none; allocations that fit and that do not. -/
theorem test_meets_ConverterEvents : 0 < (world base).hbmStacks.length ∧ (0 : Word).getLsbD 63 = false ∧ (0x8000000000000000 : Word).getLsbD 63 = true ∧ ({ Stack.reset with cvstate := 1 } : Stack).cvstate = 1 ∧
    ((world base).stack 0).cvstate ≠ 1 ∧ cvCause (world base) 0 0xC000000000000000 ≠ 0 ∧ cvCause ((world base).onStack 0 fun x => { x with cvaddr := 0x008000000000, cvcnt := 4 }) 0 0x8000000000000020 = 0 ∧ fmtWidth (cvDst 0x20) ≤ fmtWidth (cvSrc 0x20) ∧ ((world base).part 1).en = false ∧ fld 65536 15 0 + fld 0x100000000 32 16 ≤ 65536 ∧
    ((world base).part 0).en = true ∧ 65536 < fld 0x100000001 15 0 + fld 0x100000001 32 16 ∧ SMap.wf 0 ((world base).stack 0).cralloc = true := by and_intros <;> decide +kernel

/-- A trace unit that dumps to home memory, that has frozen, that has no record left to write, and that is armed at address 0. -/
def tracing (t : Trace) : State := (world base).onTrace 0 fun _ => t

theorem test_meets_TraceEvents : bit Trace.reset.ctl 0 = false ∧ Trace.reset.dumping = false ∧ dumpTo (world base) 0 = true ∧ Trace.reset.frozen = false ∧ bit ({ Trace.reset with ctl := 1 } : Trace).ctl 0 = true ∧
    ((tracing { Trace.reset with dumping := true }).core 0).trace = { Trace.reset with dumping := true } ∧ ({ Trace.reset with fired := true, left := some 0 } : Trace).fired = true ∧
    bit 0x301 0 = true ∧ bit 0x301 9 = true ∧ bit 0x301 8 = true ∧ ({ Trace.reset with armed := true } : Trace).armed = true ∧ base.pc = Trace.reset.pcm ∧
    ((world base).part 1).en = false ∧ (2 : Word).getLsbD 1 = true ∧ ((world base).part 0).en = true ∧ (2 : Word).getLsbD 2 = false := by and_intros <;> decide +kernel

/-- The phases 0, 1, 2 and 4; the mailbox commands with good operands, with a partition enabled and with none; attestation with keys left and with none. -/
def booting (ph run : Nat) : State := { State.reset with mgmt := { Mgmt.reset with phase := ph, run, busy := true } }

theorem test_meets_BringUpAndResets : (booting 0 0).mgmt.err = 0 ∧ (booting 4 0).mgmt.phase = 4 ∧ (4, 4) ∈ [(1, 1), (1, 2), (2, 3), (4, 4)] ∧ (booting 3 2).mgmt.busy = true ∧ (booting 3 2).mgmt.run = 2 ∧ (booting 3 2).mgmt.phase = 3 ∧
    (∃ q ∈ (world base).parts, q.en = true) ∧ (∀ q ∈ (booting 3 2).parts, q.en = false) ∧ fld 0xFFF 63 12 = 0 ∧ fld 0x80000000000F0000 62 20 = 0 ∧ fld 0x80000000000F0000 15 12 = 0 ∧ SMap.wf 0 (booting 3 3).mroute = true ∧
    fld 0xFFFFFFFF 63 32 = 0 ∧ ((booting 3 4).part (fld 0xF 3 0)).en = false ∧ (booting 3 4).parts.length = 16 ∧ (booting 3 1).mgmt.mbaddr % 64 = 0 ∧ (∀ i < 2348, ((booting 3 1).dram (0 + i)).isSome = true) ∧
    (booting 3 1).mgmt.akleft ≠ 0 ∧ ({ (booting 3 1).mgmt with akleft := 0 } : Mgmt).akleft = 0 := by and_intros <;> decide +kernel

theorem test_meets_RegisterWrites : 0xF00100000000 - 8 < 0xF00100000000 ∧ 0xF00101000000 ≤ 0xF00101000000 ∧ 0xF00100000004 % 8 ≠ 0 ∧ ({ Mgmt.reset with err := 1 } : Mgmt).err ≠ 0 ∧ State.reset.mgmt.err = 0 ∧
    100 ≤ fld 100 31 0 ∧ fld 1000000 31 0 ≤ 1000000 ∧ 2590 ≤ ({ Mgmt.reset with pcap := 2590 } : Mgmt).pcap ∧ ({ Mgmt.reset with pcap := 2589 } : Mgmt).pcap < 2590 ∧
    ((world base).part 0).en = true ∧ ((world base).part 1).en = false := by and_intros <;> decide +kernel

/-! #### Frames and memory -/

theorem test_meets_IssueFrame : SMap.wf Core.reset (world base).cores = true ∧ (Instr.add (at_ .s0) (ops 3 1 2 0 0)).parts = some (.s, 1, at_ .s0, .f3 (ops 3 1 2 0 0)) ∧
    ∃ t, exec (.add (at_ .s0) (ops 3 1 2 0 0)) (world base) = .next t := ⟨by decide, rfl, _, rfl⟩

/-- A store of two bytes at the top of the scratchpad that is due, and the bytes around it. -/
def storeDue : PStore := ⟨0, 0, .s0, [(0x7FFFFE, 1), (0x7FFFFF, 2)], [], 0, []⟩

theorem test_meets_MemoryWrites : Memory.wf [(4, 7)] = true ∧ duePending ({ base with bn := 3, stores := [storeDue] }) = [storeDue] ∧ storeDue.late = [] ∧
    storeDue.bytes = [(1 : Byte), 2].zipIdx.map (fun e => (0x7FFFFE + e.2, e.1)) ∧ (∀ e ∈ storeDue.all 0, e.1 ≠ 0x7FFFFD) ∧ 7 < 8 ∧ 8 + [(1 : Byte), 2].length ≤ 10 ∧
    ((world base).homeStore 0 3 8 [1, 2]).isSome = true ∧ (∀ b ∈ ([(8, 1, 255)] : List MByte), b.1 ≠ 9) := by and_intros <;> decide +kernel

theorem test_meets_invariants : ∃ t, (Memory.wf adding.mem = true ∧ SMap.wf Core.reset adding.cores = true) ∧ step adding = .next t := ⟨_, by decide +kernel, rfl⟩
/-! ### Single steps: expected results from the text and tables of the specification, or worked out by hand -/

/-! #### Further clauses -/

/-- Results for a control register, DPH, a shape field, a table and an out port; a cell result that has not chained, and one with an overflow that waits for the boundary. -/
def cellEarly : CellResult := { cellDue with chained := false, full := 2, writes := [⟨5, false, .code 1⟩], ovf := some 5 }

theorem test_meets_early_landings : (∀ l ∈ [Loc.ctl 1, .dph, .shape 0 4, .table 0], (landing (due l false)).nextResult = some (due l false) ∧ l.early = true ∧ (due l false).val.eval base.ctl.dph = (1, 0)) ∧
    SMap.wf 0 base.shapeShd = true ∧ SMap.wf 0 base.tables = true ∧ (landing (due (.port 0 0) false)).nextResult = some (due (.port 0 0) false) ∧ (Loc.port 0 0).early = false ∧
    firstBy CellResult.before ([cellEarly].filter fun r => decide (r.at_ ≤ base.bn)) = some cellEarly ∧ cellEarly.chain ≠ cellEarly.full ∧ SMap.wf Cell.zero ((world base).core 0).cells = true ∧
    cellEarly.writes.reverse.find? (fun w => w.cell == 5) = some ⟨5, false, .code 1⟩ ∧ ({ base.ctl with qctl := 1 } : Ctl).qctl % 2 = 1 ∧ base.pend = none := by
  and_intros <;> decide +kernel

/-- The first and last bundle of the window of a transient result, and the one after it; registers that are not hard-wired. -/
theorem test_meets_BypassWindow : (due (.s 3) true).mask.testBit 0 = true ∧ (due (.s 3) true).mask.testBit 1 = false ∧ base.bn ≤ base.bn + 2 ∧ base.bn + 2 < base.bn + 3 ∧ Ctx.discards (due (.s 3) true).loc = false ∧
    (∀ j id, (due (.s 3) true).loc ≠ .port j id) ∧ physS base.ctl.rrb 3 ≠ 0 ∧ physS base.ctl.rrb 3 ≠ 64 ∧ physP base.ctl.rrb 1 ≠ 0 ∧ base.port 3 = none := by
  refine ⟨by decide, by decide, by decide, by decide, by decide, fun _ _ h => by simp [due] at h, ?_⟩; decide

/-- A byte that a store of slot S0 has written and one that none has. -/
theorem test_meets_LoadsSee : ({ base with stores := [storeDue] } : Ctx).inFlight 0x7FFFFF = false ∧ storeDue.isSlot = true ∧ storeDue.vis ≤ base.bn ∧ lastByte 0x7FFFFF (storeDue.all 0) = some 2 ∧
    lastByte 0x7FFFFD (storeDue.all 0) = none ∧ ({ base with stores := [storeDue] } : Ctx).stores = [] ++ storeDue :: [] := by and_intros <;> decide +kernel

/-- A team of two cores: at point 0 the other task has arrived, and the task that ends has not; at point 1 it has. -/
def pair : Team := { baseTeam with w := 2, points := (baseTeam.points.set 0 ⟨2, 1, 0, none, 0, 0⟩).set 1 ⟨2, 1, 0, none, 0, 0⟩ }
def partner : Ctx := { base with core := 1, rank := 1, rv := [(0, ⟨true, 0, false⟩)] }
def paired : State := (((world { base with rv := [(1, ⟨true, 0, false⟩)] }).setCore 1 { Core.reset with ctx := some partner }).onPart 0 fun q => { q with teams := [pair] })

theorem test_meets_TasksLeave : Acts paired (at_ .b) { base with rv := [(1, ⟨true, 0, false⟩)] } ∧ base.part < paired.parts.length ∧ paired.team 0 0 = some pair ∧ pair.points.length = 24 ∧
    (pair.point 0).arr ≠ 0 ∧ (pair.point 0).arr = (pair.point 0).exp - 1 ∧ (({ base with rv := [(1, ⟨true, 0, false⟩)] } : Ctx).rvTask 0).out = false ∧ (({ base with rv := [(1, ⟨true, 0, false⟩)] } : Ctx).rvTask 1).out = true ∧
    1 ∈ pair.cores ∧ 1 ≠ paired.cur ∧ paired.ctx 1 = some partner ∧ partner.team = base.team ∧ SMap.wf ⟨false, 0, false⟩ partner.rv = true ∧ (partner.rvTask 0).out = true ∧ (partner.rvTask 0).ag = (pair.point 0).gen := by
  refine ⟨⟨rfl, rfl⟩, by decide, rfl, ?_⟩; decide +kernel

/-- Views with a field out of place, misaligned, out of bounds and with every lane in one bank: two rows of the same bank, and none. -/
theorem test_meets_failing_shapes : (base.view 16 0).rank = 0 ∧ (({ base with shapeAct := [(256, 2), (257, 0x200), (260, 1), (266, 1)] } : Ctx).view 16 0).aligned = false ∧
    (shaped.view 16 0).aligned = true ∧ (∃ p ∈ [(0, 0x7FFFFE)], 0x800000 < p.2 + (shaped.view 16 0).w / 8) ∧
    (∀ p ∈ (List.range 17).map fun i => (i, 8128 * i), p.2 + (shaped.view 16 0).w / 8 ≤ 0x800000) ∧
    banksOk (((List.range 17).map fun i => (i, 8128 * i)).map fun p => (p.2, (shaped.view 16 0).w / 8)) = false ∧
    Operands shaped [] [3] false shaped [.v 3] ∧ Operands shaped [3] [] false shaped [] ∧ Operands shaped [2] [3] false shaped [.v 3] ∧ Operands shaped [3, 2] [] false shaped [] := by
  refine ⟨?_, ?_, ?_, ?_, ?_, ?_, ⟨shaped, shaped, rfl, rfl, rfl⟩, ⟨shaped, shaped, rfl, rfl, rfl⟩, ⟨shaped, shaped, rfl, rfl, rfl⟩, ⟨shaped, shaped, rfl, rfl, rfl⟩⟩ <;> decide +kernel

/-- A local shape that is misaligned, and one whose last element lies past the scratchpad. -/
theorem test_meets_copy_faults : (({ copying with shapeAct := [(64, 2), (65, 0x200), (68, 1), (74, 1)] } : Ctx).view 4 0).aligned = false ∧
    (({ copying with shapeAct := [(64, 2), (65, 0x200), (68, 1), (74, 1)] } : Ctx).view 4 0).shapeOk = true ∧ (({ copying with shapeAct := [(64, 2), (65, 0x200), (68, 1), (74, 1)] } : Ctx).view 4 0).global = false ∧
    (∃ i < (copying.view 5 0).count, 0x800000 < ({ copying.view 5 0 with base := 0x7FFFFC } : View).addr i + max 1 ((copying.view 5 0).w / 8)) := by
  refine ⟨by decide +kernel, by decide +kernel, by decide +kernel, 1, by decide +kernel, by decide +kernel⟩

/-- A status address that is misaligned, and one past the scratchpad. -/
theorem test_meets_status_addresses : (2 : BitVec 6).getLsbD 1 = true ∧ 4 % 8 ≠ 0 ∧ 0x800000 % 8 = 0 ∧ 0x800000 < 0x800000 + 8 ∧ 0x7FFFF8 + 8 ≤ 0x800000 ∧
    256 ≤ (({ base with lq := List.replicate 256 signal } : Ctx).lq.filter LCmd.counts).length := by decide +kernel

/-- Streams of one element of scratchpad and of one of memory whose page is mapped; an out stream with its entry landed; a drain ring with a slot. -/
def farView : View := { strided.view 4 0 with global := true, base := 64 }
def mapped (x : Ctx) : State := { world x with dies := [(0, ⟨[], [⟨0, 1, 0, true, true, false, 0, false⟩]⟩)] }
def landedOut : Stream := { oneElement .out with queue := [⟨0, 0, 7, true, 0⟩] }
def draining : Ctx := { streaming (oneElement .drain) with rings := [(0, drainRing)] }

theorem test_meets_StreamBytes : 8 ≤ (oneElement .out).w ∧ (oneElement .out).view.global = false ∧ (oneElement .out).view.addr 0 + (oneElement .out).w / 8 ≤ 0x800000 ∧ Memory.wf ((world base).core 0).mem = true ∧
    farView.global = true ∧ farView.addr 0 % 2 ^ 64 % 64 + farView.w / 8 ≤ 64 ∧ (askAll (mapped base) (.stream 0 0) (dieOf 0) 0 farView (2 ^ 64) [0]).2.isNone = true ∧
    (∃ g, peekReach (askAll (mapped base) (.stream 0 0) (dieOf 0) 0 farView (2 ^ 64) [0]).1 (.stream 0 0) (dieOf 0) 0 .write false 64 = .ok g) ∧
    landedOut.queue = ⟨0, 0, 7, true, 0⟩ :: [] ∧ (streaming landedOut).heldBack 0 = false ∧ streamWorks (world (streaming landedOut)) 0 0 0 = true ∧ (world (streaming landedOut)).fabric = [] ∧
    (sendStream (world (streaming landedOut)) 0 0 (streaming landedOut) landedOut [(0, 7)]).isSome = true ∧
    (oneElement .drain).bound = true ∧ ringRoleOk draining (oneElement .drain) = true ∧ (oneElement .drain).pos = (oneElement .drain).sent ∧ drainRing.slot ≠ 0 ∧ draining.stores = [] ∧
    (oneElement .drain).sent < min ((oneElement .drain).slotEnd drainRing.slot 0) ((0 + drainRing.fill) * drainRing.slot * 8 / (oneElement .drain).w) ∧
    draining.heldBack (max (oneElement .drain).issued (drainRing.advancedAt drainRing.h)) = false ∧ (sendStream (world draining) 0 0 draining (oneElement .drain) [(0, 0)]).isSome = true := by
  refine ⟨?_, ?_, ?_, ?_, ?_, ?_, ?_, ⟨_, rfl⟩, ?_⟩ <;> decide +kernel

/-- Two shares in rings of two cores; records of 4 bytes that do not overlap. -/
theorem test_meets_shares : ([⟨0, 3, [1, 0, 0, 0]⟩, ⟨1, 3, [2, 0, 0, 0]⟩] : List Share).map Share.core = [0, 1] ∧ [0, 1].Nodup ∧ SMap.get 0 base.relTime 1 = 0 ∧ [(0, joined)] ≠ [] ∧
    (joined.ring 0).n = (([(0, joined)].map fun e => e.2.ring 0).headD Ring.zero).n ∧ (0 < ([1, 0, 0, 0, 2, 0, 0, 0] : List Byte).length / 4) ∧
    (∀ a < 2, ∀ b < 2, a < b → condRing.at_ (0 + a) + 4 ≤ condRing.at_ (0 + b) ∨ condRing.at_ (0 + b) + 4 ≤ condRing.at_ (0 + a)) := by decide +kernel

/-- An RVAW that waits, and one met with OUT set by an RVA before it. -/
theorem test_meets_rvaw : ((base.setRv 0 ⟨true, 0, true⟩).rvTask 0).mark = true ∧ ((base.setRv 0 ⟨true, 0, true⟩).rvTask 0).out = true ∧ ((base.setRv 0 ⟨true, 0, false⟩).rvTask 0).mark = false := by decide

/-- A switch to D2 with a block of each kind free and lanes to declare; one of a partition that is there already. -/
theorem test_meets_d2 : ((switching 2 0).part 0).switch = some 2 ∧ ((switching 2 0).part 0).lane ≠ 0 ∧ 5 ≤ (switching 2 0).mgmt.phase ∧
    (hbmBlock ((switching 2 0).onPart 1 fun q => { q with hk := 0, lj := 0 }) 0).isSome = true ∧ (lpBlock ((switching 2 0).onPart 1 fun q => { q with hk := 0, lj := 0 }) 0).isSome = true ∧
    allQuiet ((switching 2 0).onPart 1 fun q => { q with hk := 0, lj := 0 }) 0 = true ∧ ((switching 2 2).part 0).level = 2 := by and_intros <;> decide +kernel

/-- An image that no page maps; nodes with and without a fault. -/
theorem test_meets_nodes : readVa (idle 0) 0 0 8 = .fault Cause.transMiss.code 0 ∧ nodeOk 1 (bytesOf 1 64) = true ∧ nodeOk 1 (bytesOf 0 64) = false ∧ field (bytesOf 1 64) 2 2 = 0 ∧
    field (bytesOf (2 + 2 ^ 128) 128) 16 2 = 1 ∧ field (bytesOf (2 + 2 ^ 128) 128) 8 8 % 64 = 0 := by and_intros <;> decide +kernel

/-- A loaded task's bounds, and an enable at D2 before phase 5. -/
theorem test_meets_enable_early : Memory.wf ((world base).core 0).mem = true ∧ (nestRec (bytesOf nestWord 128)).cdst + [(0 : Byte), 0, 0, 0, 0, 0, 0, 0].length ≤ 0x7FF000 ∧ ([] : List Byte).length ≤ 4096 ∧
    State.reset.mgmt.phase < 5 ∧ fld 0x203030000 33 32 = 2 ∧ (State.reset.part 1).en = false := by and_intros <;> decide +kernel

/-- A running nest whose next slot is not filled. -/
theorem test_meets_unfilled : (let m := { oneStep with state := .running }
    (fed m).nests.find? (fun n => n.state == .running) = some m ∧ m.cur = none ∧ m.started < m.total ∧ m.b.ring ≠ m.a.ring ∧
      (filled { opRing with t := 0 } m.ha (m.uA m.started).toNat && filled opRing m.hb (m.uB m.started).toNat) = false) := by decide +kernel

/-- No write of the core's own is on its way; a copy issued before an ALIASF, and none. -/
theorem test_meets_own_writes : (∀ q b m, ownWriteIn ((atHome0 q m).fabric.take 0) q.src q.dest b = false) ∧ (∀ b, ownWriteIn ((chased []).fabric.take 0) 0 (.home 0) b = false) ∧
    (((world base).copiesOf 0).any fun k => decide (k.issued < 0)) = false ∧ (asks (.sig 0 0)).src < 512 := ⟨fun _ _ _ => rfl, fun _ => rfl, by decide, by decide⟩

/-- The first of two packets of a put; a put whose target still refuses it, and requests to this module and to another, at the fabric timeout. -/
def putting : State := waiting (.sig 3 0) (.put 0 2 false 0 0 [7] 2 3 none)

theorem test_meets_put_packets : putting.Arrives 0 (comes (.put 0 2 false 0 0 [7] 2 3 none)) 10 ∧ (insertNat 0 (((none : Option PutIn).map PutIn.got).getD [])).length ≠ 2 ∧
    ((putting.puts.find? fun p => p.core == 0 && p.src == 0 && p.seq == 0) = none) ∧
    (insertNat 1 (((some ⟨0, 0, 0, [0], none⟩ : Option PutIn).map PutIn.got).getD [])).length = 2 ∧ (∀ p, some (⟨0, 0, 0, [0], none⟩ : PutIn) = some p → p.slot = none) ∧
    (LOp.sig 3 0).isPut = true ∧ request.turned = true ∧ ({ request with module := 0, turned := false } : Req).module = (world base).modid ∧
    ((LOp.sig 3 0).isPut && ({ request with turned := false } : Req).turned) = false ∧ (∀ b d, (comes (.put 0 2 false 0 0 [7] 2 3 none)).origin ≠ .berth b d) := by
  refine ⟨⟨rfl, rfl, by decide, rfl⟩, by decide, by decide, by decide, fun p e => by cases e; rfl, rfl, rfl, rfl, rfl, fun _ _ h => by cases h⟩

/-- A burst of one element of scratchpad that can be read and written at once; an element in memory, and one whose converter works. -/
def ready : Copy := { oneCopy with bursts := [{ oneBurst with gather := [] }], upto := 1 }
def afar : Copy := { oneCopy with src := .view farView, dst := .view farView }

theorem ready_near : copyMiss (askSides (copies ready) ready (range 0 1)).1 ready (range 0 1) = none := by
  unfold copyMiss
  generalize remoteCause _ = r
  cases r <;> rfl

theorem test_meets_bursts : min oneBurst.hi ready.limit = 1 ∧ oneBurst.pos < 1 ∧ (copies ready).works ready.part (unitCopy ready.die oneBurst.engine) = true ∧ (askSides (copies ready) ready (range 0 1)).2 = none ∧
    burstBad (askSides (copies ready) ready (range 0 1)).1 ready (range 0 1) = none ∧ oneBurst.begun = true ∧ oneBurst.lo ≤ ready.reach ∧ 0 < min 1 (ringEnd (askSides (copies ready) ready (range 0 1)).1 ready) ∧
    copyMiss (askSides (copies ready) ready (range 0 1)).1 ready (range 0 1) = none ∧
    (allPresent ((range 0 1).map fun i => (readElem (askSides (copies ready) ready (range 0 1)).1 ready [] i).map fun c => (i, c))).isSome = true ∧
    (strided.view 4 0).w = 32 ∧ (strided.view 4 0).addr 0 % afar.modulus % 64 + (strided.view 4 0).w / 8 ≤ 64 ∧ farView.addr 0 % afar.modulus % 64 + farView.w / 8 ≤ 64 ∧
    (strided.view 4 0).addr 0 < 2 ^ 56 ∧ oneCopy.core = some 0 ∧ oneCopy.acq = false ∧ base.stores = [] ∧ (mapped base).converting 64 = false ∧ ownWriteIn (mapped base).fabric 0 (.home 0) (64 / 64) = false ∧
    (∃ g, peekReach (mapped base) (.copy 9) 0 0 .read true (farView.addr 0 % afar.modulus) = .ok g ∧ g.tgt = .home 0 64) ∧
    (∃ g, peekReach (mapped base) (.copy 9) 0 0 .write true (farView.addr 0 % afar.modulus) = .ok g ∧ ∀ c a, g.tgt ≠ .core c a) ∧
    (∃ j < 4, (((world base).onStack 0 fun x => { x with cvstate := 1, runCnt := 1, runCtl := 0 }).converting (0 + j)) = true) := by
  refine ⟨?_, ?_, ?_, ?_, ?_, ?_, ?_, ?_, ready_near, ?_, ?_, ?_, ?_, ?_, ?_, ?_, ?_, ?_, ?_, ⟨_, rfl, ?_⟩, ⟨_, rfl, fun _ _ h => by cases h⟩, 0, ?_, ?_⟩ <;> decide +kernel

/-- A team that is out with no image left to read comes back at once. -/
theorem test_meets_restore : (let m := { baseTeam with phase := .out [] }
    let s := { savable .run m with cores := [] }
    s.team 0 0 = some m ∧ m.kept = [] ∧ (s.part 0).halt = none ∧ restoreAt s 0 m = some (0, 0) ∧
      (((m.kept.zip []).zip { m with x := 0, y := 0 }.cores).foldl (fun (o : Option State) e => o.bind fun s => restoreOne s 0 m e.1.1 e.1.2 e.2)
        (some (s.onPart 0 fun q => { q with slots := q.slots.filter fun k => !([] : List Nat).contains k }))).isSome = true) := by
  refine ⟨rfl, rfl, rfl, ?_, ?_⟩ <;> decide +kernel

/-- A context at rest: every register within its width. -/
theorem test_meets_ImageRoundTrip : base.stores = [] ∧ base.pc < 2 ^ 23 ∧ (∀ n < 32, base.ctl.read n < 2 ^ 64) ∧ base.ctl.repStart < 2 ^ 23 ∧ base.ctl.repEnd < 2 ^ 24 ∧ (∀ n < 4, SMap.get 0 base.tables n < 2 ^ 576) ∧
    (∀ n < 64, SMap.get 0 base.ln n < 2 ^ 32) ∧ baseTeam.points.length ≤ 24 ∧ base.codeBase + base.codeLen ≤ 0x7FF000 ∧ base.argLen ≤ 4096 ∧ 4096 + 3 ∈ (base.mark 4099).dirty ∧
    (Keep.mk true [] []).reg 0 3 (physS base.ctl.rrb) 128 = true := by and_intros <;> decide +kernel

/-- A write that enters the hold buffer of a CXL memory; held writes for this module, for another and for CXL memory; the addresses that a host window decodes, and none. -/
theorem test_meets_held_writes : (berthed upBerth (sent (.berth 0 4096) (.write [(5, 7, 255)] 1 true))).berths.length = 16 ∧ ((berthed upBerth (world base)).berth 0).state = 3 ∧
    heldCause (world base) (sends (.berth 0 4096) (.write [(5, 7, 255)] 1 true)) = none ∧ (∀ b ∈ ([(5, 7, 255)] : List MByte), (world base).converting b.1 = false) ∧
    (⟨0, 0, 1, 0, [(5, 7, 255)], true⟩ : Held).module = (world base).modid ∧ (⟨0, 0, 1, 3, [(5, 7, 255)], true⟩ : Held).module ≠ 4096 ∧ (⟨0, 0, 1, 3, [(5, 7, 255)], true⟩ : Held).module ≠ (world base).modid ∧
    inBar 0 1 = true ∧ (∀ i < 1, (world base).dram (0 + i) = some (0 + i)) ∧ inBar 0x8000000000 1 = false := by and_intros <;> decide +kernel

/-- No fault stands and no bitmap is under conversion; a member of the group on module 3, under a leader there. -/
def farLed : State := ({ groups 0 1 [] [] with mem := [(0x400, 8)] }).onPart 0 fun q => { q with gmem := 0x400, leader := 3, sealing := none }

theorem test_meets_seal_premises : struck (groups 1 1 [localMember 0] []) 0 = false ∧ bitmapBusy (groups 1 1 [localMember 0] []) 0 = false ∧ struck differing 1 = false ∧ bitmapBusy differing 1 = false ∧
    ((groups 1 1 [] []).part 0).gstate < 4 ∧ farLed.lead 0 = 0 ∧ (farLed.part (farLed.lead 0)).en = true ∧ (farLed.part (farLed.lead 0)).sealing = none ∧ (farLed.part (farLed.lead 0)).leader ≠ farLed.modid ∧
    struck farLed 0 = false ∧ farLed.inGroup 0 3 = true ∧ (3 : Nat) < 4096 ∧ struck (halts { halting [] with faults := [{ trap with cause := Cause.hostRollback.code }] }) 0 = true ∧
    ([(localMember 1, 0x82)].find? fun b => b.1 == localMember 1).map Prod.snd = some 0x82 ∧ 0 < (groups 3 2 [localMember 0] [3]).parts.length := by and_intros <;> decide +kernel

/-- Two entries of a line after the last seal and one of another group; a seal with its COMMIT sent; a write that the injection counts, at its first and below its second. -/
def logged : State := { world base with mem := [(64, 9)], risers := [[⟨64, 2, false, 0, 0, List.replicate 64 5⟩, ⟨64, 3, false, 0, 0, List.replicate 64 6⟩, ⟨0, 2, false, 0, 7, List.replicate 64 1⟩]] ++ List.replicate 9 [] }
def armed (n : Nat) : State := { world base with inj := BitVec.ofNat 64 (2 ^ 63 + 2 ^ 32 + n) }

theorem test_meets_replay : Memory.wf logged.mem = true ∧ (∀ h < 10, ∀ e ∈ logged.risers.getD h [], e.cell = false → homeOf e.addr = h ∧ e.addr % 64 = 0 ∧ e.old.length = 64) ∧
    ((logged.risers.getD (homeOf 64) []).find? fun e => !e.cell && e.gid == 0 && Sys2Proof.Machine.after 1 e.pour && e.addr == 64) = some ⟨64, 2, false, 0, 0, List.replicate 64 5⟩ ∧
    ((logged.risers.getD (homeOf 128) []).find? fun e => !e.cell && e.gid == 0 && Sys2Proof.Machine.after 1 e.pour && e.addr == 128) = none ∧ (logged.part 0).leader = logged.modid ∧
    ([⟨3, [], [], [], []⟩, ⟨2, [], [], [], []⟩] : List Restart).find? (fun r => r.pour != 3) = some ⟨2, [], [], [], []⟩ ∧ 0 ∈ (logged.part 0).cores ∧ SMap.wf Core.reset logged.cores = true ∧
    (armed 1).injSeen.Pairwise (fun x y => ¬(y.home < x.home ∨ y.home = x.home ∧ y.line < x.line)) ∧ (armed 1).inj.getLsbD 63 = true ∧ fld (armed 1).inj 51 48 = 0 ∧ fld (armed 1).inj 47 32 = ((armed 1).part 0).cur % 65536 ∧
    fld (armed 1).inj 27 0 ≤ 0 + 1 ∧ 0 < fld (armed 1).inj 27 0 ∧ 0 + 1 < fld (armed 2).inj 27 0 ∧ (armed 1).inj.getLsbD 62 = false ∧ ({ armed 1 with inj := (armed 1).inj ||| 0x4000000000000000 } : State).inj.getLsbD 62 = true ∧
    (rolling 0x80).parts.length = 16 := by and_intros <;> decide +kernel

/-- A module that berth 0 leads to, a request that is the first to have come to it, and one that is not. -/
def leads (o : List (Nat × Nat)) : State := { berthed { upBerth with cur := 2, order := o } (world { base with lq := [⟨4, 0, 0, false, .sig 3 0, none, false, false⟩] }) with mroute := [(3, 0x8000000000000000)] }

theorem test_meets_berth_order : route (leads []) 3 = .inl 0 ∧ ((leads []).berth 0).isUet = false ∧ (leads []).berthOpen 0 = true ∧ (leads []).firstAt 0 0 5 = true ∧ (leads [(0, 4)]).firstAt 0 0 5 = false ∧ 0 < (leads []).berths.length ∧
    upBerth.ktx < upBerth.klimit ∧ ({ upBerth with ktx := 2 ^ 21 } : Berth).klimit ≤ ({ upBerth with ktx := 2 ^ 21 } : Berth).ktx ∧ Berth.reset.state ≠ 1 ∧ Berth.reset.state ≠ 2 := by and_intros <;> decide +kernel

/-- A signal that is admitted, one that the partition does not permit, and a write of a sender outside the group; a reply to a request through a berth that is up, one that trains, and one of another kind. -/
def writes : RemoteRequest := { knocks 5 with gid := 9, op := .write 0 [7] }

theorem test_meets_remote_packets : remotePackets shared (knocks 5) 0 ≠ [] ∧ remotePackets shared { knocks 5 with op := .write 0x20000000000 [7] } 0 = [] ∧ isRelease (knocks 5).op = false ∧ isRelease (RemoteOp.release 0) = true ∧
    admitTo shared writes = some 0 ∧ remotePackets shared writes 0 = [(.home 0, .write [(0, 7, 255)] 1 false)] ∧ writes.gid ≠ (shared.part 0).gid ∧ (∀ b ∈ ([(0, 7, 255)] : List MByte), shared.converting b.1 = false) ∧
    pathOk shared (pkt (.berth 0 1) (.berth 0 7) 0 (.reply .done) none) = true ∧ shared.berthReplies 0 = true ∧ ((berthed { upBerth with cur := 2, state := 2 } (world base)).berthReplies 0) = false ∧
    pathOk (world base) (pkt (.berth 0 1) (.berth 0 7) 0 (.reply .done) none) = false := by and_intros <;> decide +kernel

theorem test_meets_trace_ring : ({ Trace.reset with queue := [List.replicate 16 1] } : Trace).queue = List.replicate 16 1 :: [] ∧ (List.replicate 16 (1 : Byte)).length = 16 ∧ Memory.wf Trace.reset.buf = true ∧ ({ Trace.reset with queue := [List.replicate 16 1] } : Trace).done = false ∧
    bit ({ Trace.reset with ctl := 0x101, armed := true } : Trace).ctl (8 + 0) = true ∧ SMap.wf 0 ((world base).stack 0).cells = true ∧ fmtWidth (cvSrc 2) < fmtWidth (cvDst 2) := by and_intros <;> decide +kernel

theorem test_meets_mailbox : (1 : Word).getLsbD 63 = false ∧ (0x8000000000000004 : Word).getLsbD 63 = true ∧ 1 ≤ fld 0x8000000000000004 7 0 ∧ fld 0x8000000000000004 7 0 ≤ 4 ∧ State.reset.mgmt.busy = false ∧
    State.reset.mgmt.nonce.length = 4 ∧ State.reset.mgmt.meas.length = 16 ∧ ({ (booting 3 1).mgmt with snapNonce := List.replicate 4 0 } : Mgmt).snapNonce.length = 4 ∧ ({ (booting 3 1).mgmt with snapMeas := List.replicate 16 0 } : Mgmt).snapMeas.length = 16 ∧ (booting 3 1).tableAt 0 = true ∧ (booting 3 1).tableAt 0x8000000000 = false ∧
    (∀ i < 37, (booting 3 1).converting (0 + 64 * i) = false) ∧ (∀ i < 2348, (booting 3 1).dram (0 + i) = some (((booting 3 1).dram 0).getD 0 + i)) ∧ 0 ∈ ((world base).part 0).dies ∧ ((world base).part 0).en = true ∧ (world base).parts.length = 16 := by
  and_intros <;> decide +kernel

theorem test_meets_readback : State.reset.berths.length = 16 ∧ State.reset.hbmStacks.length = 8 ∧ SMap.wf 0 (State.reset.part 0).rwin = true ∧ SMap.wf Queue.reset (State.reset.part 0).queues = true ∧
    SMap.wf Core.reset State.reset.cores = true ∧ State.reset.tableAt (fld 0x1000 51 12 * 2 ^ 12) = true ∧ (State.reset.part 0).moving = false ∧ (State.reset.part 0).dumping = false ∧ (State.reset.part 0).slots = [] ∧
    ∃ t, exec (.registerWrite 0xF00100500008 7) State.reset = .next t := by
  refine ⟨rfl, rfl, rfl, rfl, rfl, by decide +kernel, rfl, rfl, rfl, _, rfl⟩

/-- The context of core 0 after one instruction. -/
def after (i : Instr) (x : Ctx) : Ctx := match exec i (world x) with
  | .next t => (t.ctx 0).getD base
  | _ => base

/-- The first result in flight: the bundle at which it lands, its value and its flags under dither phase 0. -/
def gives (i : Instr) (x : Ctx) : Option (Nat × Nat × Nat) := (after i x).results.head?.map fun r => (r.due, (r.val.eval 0).1, (r.val.eval 0).2)

/-- The cause and detail of the fault that an instruction raises. -/
def faults (i : Instr) (x : Ctx) : Option (Nat × Nat) := match exec i (world x) with
  | .next t => ((t.part 0).halt.bind fun h => h.faults.head?).map fun f => (f.cause, f.detail)
  | _ => none

def f3 (a b c : BitVec 7) : F3 := ops a b c 0 0

theorem test_add_wraps : gives (.add (at_ .s0) (f3 3 1 2)) (withS [(1, 0xFFFFFFFFFFFFFFFF), (2, 2)]) = some (1, 1, 0) := by decide +kernel
theorem test_sra_fills : gives (.srai (at_ .s0) ⟨3, 1, 63⟩) (withS [(1, 0x8000000000000000)]) = some (1, 0xFFFFFFFFFFFFFFFF, 0) := by decide +kernel
theorem test_mulhu_high : gives (.mulhu (at_ .s0) (f3 3 1 1)) (withS [(1, 0xFFFFFFFFFFFFFFFF)]) = some (3, 0xFFFFFFFFFFFFFFFE, 0) := by decide +kernel
theorem test_mulh_signed : gives (.mulh (at_ .s0) (f3 3 1 1)) (withS [(1, 0xFFFFFFFFFFFFFFFF)]) = some (3, 0, 0) := by decide +kernel
/-- R170: the smallest integer over −1 wraps, and a zero divisor gives all ones and leaves the dividend. -/
theorem test_div_overflow : gives (.div (at_ .s0) (f3 3 1 2)) (withS [(1, 0x8000000000000000), (2, 0xFFFFFFFFFFFFFFFF)]) = some (14, 0x8000000000000000, 0) := by decide +kernel
theorem test_rem_by_zero : gives (.rem (at_ .s0) (f3 3 1 2)) (withS [(1, 7)]) = some (14, 7, 0) := by decide +kernel
theorem test_clz_of_one : gives (.clz (at_ .s0) (f3 3 1 0)) (withS [(1, 1)]) = some (1, 63, 0) := by decide +kernel
/-- Chapter 6's constant: LI and LIH make 0x9E3779B97F4A7C15. -/
theorem test_lih_joins : gives (.lih (at_ .s0) ⟨12, 12, 0x278DDE6E⟩) (withS [(12, 0x17F4A7C15)]) = some (1, 0x9E3779B97F4A7C15, 0) := by decide +kernel
theorem test_cmp_unsigned : gives (.cmp (at_ .s0) { f3 33 1 2 with sub := 6 }) (withS [(1, 1), (2, 0xFFFFFFFFFFFFFFFF)]) = some (1, 2 ^ 33, 0) := by decide +kernel
/-- 1.5 + 2.25 = 3.75; 1 / 0 is an infinity with DZ; sqrt 2 is 0x3FB504F3, inexact. -/
theorem test_fadd : gives (.fadd (at_ .s0) (f3 3 1 2)) (withS [(1, 0x3FC00000), (2, 0x40100000)]) = some (4, 0x40700000, 0) := by decide +kernel
theorem test_fdiv_by_zero : gives (.fdiv (at_ .s0) (f3 3 1 2)) (withS [(1, 0x3F800000)]) = some (14, 0x7F800000, 2) := by decide +kernel
theorem test_fsqrt_two : (gives (.fsqrt (at_ .s0) (f3 3 1 0)) (withS [(1, 0x40000000)])).map (fun r => r.2.1) = some 0x3FB504F3 := by decide +kernel
/-- A byte of 0x80 loaded with its sign (SZ 0) and without (SZ 1), five bundles on. -/
def holding (a v n : Nat) : State := (world (withS [(2, BitVec.ofNat 64 a)])).setCore 0 { (world (withS [(2, BitVec.ofNat 64 a)])).core 0 with mem := SMap.write [] a (bytesOf v n) }
theorem test_ld_signs : (match exec (.ld (at_ .s0) ⟨3, 2, 0, 0⟩) (holding 64 0x80 1) with
    | .next t => (t.ctx 0).bind fun x => x.results.head?.map fun r => (r.due, (r.val.eval 0).1)
    | _ => none) = some (5, 0xFFFFFFFFFFFFFF80) := by decide +kernel
theorem test_ld_misaligned : faults (.ld (at_ .s0) ⟨3, 2, 6, 4⟩) (withS []) = some (2, 0) ∧ faults (.ld (at_ .s0) ⟨3, 2, 6, 0⟩) (withS [(2, 0x800000)]) = some (3, 0) := by decide +kernel
theorem test_call_pushes : (after (.call (at_ .b) ⟨0, 4⟩) base).jump = some 32 ∧ (after (.call (at_ .b) ⟨0, 4⟩) base).ctl.rsp = 1 ∧ SMap.get 0 (after (.call (at_ .b) ⟨0, 4⟩) base).ctl.retstk 0 = 16 := by decide +kernel
theorem test_ret_empty : faults (.ret (at_ .b) ⟨0, 0⟩) base = some (7, 0) := by decide +kernel
/-- R145: a loop end at base 0 rotates to base 191. -/
theorem test_loopb_rotates : (after (.loopb (at_ .b) ⟨0, 0x3FFFFFFFE⟩) { base with pc := 64, ctl := { base.ctl with lc := 1 } }).ctl.rrb = 191 ∧
    (after (.loopb (at_ .b) ⟨0, 0x3FFFFFFFE⟩) { base with pc := 64, ctl := { base.ctl with lc := 1 } }).jump = some 48 := by decide +kernel
/-- R161: TRAP's code is the detail of SW_TRAP, at the boundary. -/
theorem test_trap : (after (.trap (at_ .b) ⟨0, 0x1234⟩) base).pend = some (0x20, 0x1234, 0) := by decide +kernel
theorem test_crw_range : faults (.crw (at_ .b) { f3 0 1 0 with sub := 2 }) (withS [(1, 192)]) = some (11, 0) := by decide +kernel
/-- R190: INT8 lanes wrap on their own; VADDS clamps them. Lane 0 is 0x7F + 1. -/
def lanes (a b : VReg) : Ctx := { base with v := [(1, a), (2, b)] }
theorem test_vadd_wraps : gives (.vadd (at_ .v0) { f3 3 1 2 with fmt := 6 }) (lanes 0x7F 1) = some (2, 0x80, 0) := by decide +kernel
theorem test_vadds_clamps : gives (.vadds (at_ .v0) { f3 3 1 2 with fmt := 6 }) (lanes 0x7F 1) = some (2, 0x7F, 0) := by decide +kernel
theorem test_vmov_masked : ((after (.vmov (at_ .v0) { f3 3 1 0 with sub := 1 }) { lanes 5 0 with k := [(1, 2)] }).results.head?.map Result.mask) = some (0xFFFFFFFF * 2 ^ 32) := by decide +kernel
theorem test_kpop : gives (.kpop (at_ .v0) (f3 3 1 0)) { base with k := [(1, 0xF0F)] } = some (2, 8, 0) := by decide +kernel
/-- R224: 2 × 3 of FP32 into a QUIRE cell is 6 at the quire's scale of 2^-480 (R62). -/
theorem test_qmac : ((after (.qmac (at_ .q) { f3 0 1 2 with sub := 1 }) { lanes 0x40000000 0x40400000 with k := [(1, 1)] }).cellRes.head?.map fun r =>
    r.writes.map fun w => match w.val with
      | .code q => q.toNat == 6 * 2 ^ 480
      | .sum .. => false) = some [true] := by decide +kernel
theorem test_xrev : gives (.xrev (at_ .x) { f3 3 1 0 with sub := 1 }) (lanes 0x0000000200000001 0) = some (3, 0x0000000100000002, 0) := by decide +kernel
theorem test_trclr_lands : (after (.trclr (at_ .t) (f3 0 0 0)) base).tchg = [⟨8, 0, 0, true, 8, []⟩] := by decide +kernel
theorem test_mgo_full : faults (.mgo (at_ .m) { f3 1 0 0 with sub := 0x10 }) { base with nests := List.replicate 4 busyNest } = some (24, 0) := by decide +kernel
/-- R264: a ring of 32 slots of 16 bytes at 64, empty; R265: advancing an empty ring is RING_MISUSE. -/
theorem test_ginit : ((after (.ginit (at_ .d) (f3 3 1 2)) (withS [(1, 64), (2, 0x1000020)])).ring 3).free = 32 ∧ faults (.gadvh (at_ .d) (f3 3 1 0)) { withS [(1, 1)] with rings := [(3, { opRing with t := 0, cons := 0 })] } = some (18, 0) := by
  decide +kernel
theorem test_lset_sub_wraps : SMap.get 0 (after (.lsetSub (at_ .d) { f3 2 0 0 with d := 5, sub := 3 }) { base with ln := [(2, 4)] }).ln 2 = 0xFFFFFFFF := by decide +kernel
theorem test_vainv_limit : faults (.vainv (at_ .d) (f3 3 1 2)) { base with vainv := 4 } = some (30, 0) := by decide +kernel
theorem test_tsr_floor : gives (.tsr (at_ .d) (f3 20 0 0)) { base with ctl := { base.ctl with floorNow := 77 } } = some (2, 77, 0) := by decide +kernel
/-- R348: an atomic add of 8 bytes answers the old value and stores the sum, little-endian. -/
theorem test_atomic_add : (applyAop { world base with mem := [(0, 255)] } 0 3 0 0 8 1).map (fun r => (r.2, SMap.read r.1.mem 0 8)) = some (255, [0, 1, 0, 0, 0, 0, 0, 0]) := by decide +kernel
/-- R102: a tail that passes the head by more than the depth is QERR 1, and stops the queue. -/
theorem test_bad_tail : (match exec (.qtailWrite 0 0 17) (headed 0) with
    | .next t => some (((t.part 0).queue 0).qerr, ((t.part 0).queue 0).en)
    | _ => none) = some (1, false) := by decide +kernel
/-- R457: three cycles of full service are 2 ns. -/
theorem test_time : (world base).tick.tick.tick.mtime = 2 ∧ State.reset.tick.tick.tick.mtime = 4 := by decide +kernel
/-- R465: after a failed boot a host write changes nothing. -/
theorem test_failed_boot : (match step { State.reset with mgmt := { State.reset.mgmt with err := 1 }, agenda := [.mtset 5] } with
    | .next t => some (t.mtime, t.agenda)
    | _ => none) = some (0, []) := by decide +kernel
/-- R445, R350: a compare and swap of another module comes with its operand block. -/
theorem test_remote_swap : (remotePackets (world base) ⟨0, 7, 3, 4, 1, 0, 5, 0, 1, 0, .swap 64 true []⟩ 0).map Prod.fst = [.home 0] := by decide +kernel
/-- Tables 17.1 and 20.1: the reset values of SEALPER and FTO, as the host reads them. -/
theorem test_readback : registerRead 0xF00100500008 State.reset = 5000 ∧ registerRead 0xF00100B00018 State.reset = 10000 := by decide +kernel

end Sys2Proof.Tests
end

namespace Sys2Proof.Machine.Registers

/-! ### Where a register lies -/

/-- `a` is the address of register `r` in copy `n` of control block `b`: BAR0 has a block at each MiB, and the copies of it at each 4 KiB (R8). -/
def At (a b n r : Nat) : Prop := a = 0xF00100000000 + 0x100000 * b + 0x1000 * n + r ∧ b < 0x10 ∧ n < 0x100 ∧ r < 0x1000 ∧ r % 8 = 0

/-- `a` is the address of register `r` in the trace-control block of core `c`, one at each 64 bytes (Table 19.3). -/
def TraceAt (a c r : Nat) : Prop := a = 0xF00100000000 + 0x800000 + 0x40 * c + r ∧ c < 512 ∧ r < 0x40 ∧ r % 8 = 0

/-- Offset `o` of a block is register `k` of entry `q` in a table of sixteen entries of 32 bytes at 0x100 (Tables 4.1 and 17.1). -/
def Entry (o q k : Nat) : Prop := o = 0x100 + 0x20 * q + k ∧ q < 16 ∧ k < 0x20

section
variable {a b c n r o q k : Nat}

theorem At.of (b n r : Nat) (h : a = 0xF00100000000 + 0x100000 * b + 0x1000 * n + r ∧ b < 0x10 ∧ n < 0x100 ∧ r < 0x1000 ∧ r % 8 = 0 := by omega) :
    At a b n r := h

theorem TraceAt.of (c r : Nat) (h : a = 0xF00100000000 + 0x800000 + 0x40 * c + r ∧ c < 512 ∧ r < 0x40 ∧ r % 8 = 0 := by omega) : TraceAt a c r := h

theorem Entry.of (q k : Nat) (h : o = 0x100 + 0x20 * q + k ∧ q < 16 ∧ k < 0x20 := by omega) : Entry o q k := h

/-- What `registerWrite` and `registerRead` take from an address. -/
theorem At.decode (h : At a b n r) : ¬a < mmioBase ∧ ¬0x1000000 ≤ a - mmioBase ∧ a % 8 = 0 ∧
    (a - mmioBase) / 0x100000 = b ∧ (a - mmioBase) / 0x1000 % 0x100 = n ∧ (a - mmioBase) % 0x1000 = r := by
  obtain ⟨rfl, hb, hn, hr, h8⟩ := h
  unfold mmioBase
  omega

theorem TraceAt.decode (h : TraceAt a c r) : ¬a < mmioBase ∧ ¬0x1000000 ≤ a - mmioBase ∧ a % 8 = 0 ∧
    (a - mmioBase) / 0x100000 = 8 ∧ a - mmioBase - 0x800000 < 0x8000 ∧ (a - mmioBase - 0x800000) / 0x40 = c ∧ (a - mmioBase - 0x800000) % 0x40 = r := by
  obtain ⟨rfl, hc, hr, h8⟩ := h
  unfold mmioBase
  omega

/-- An entry of a table lies past the block's single registers. -/
theorem Entry.decode (h : Entry o q k) : ¬o < 0x100 ∧ ¬0x300 ≤ o ∧ (o - 0x100) / 0x20 = q ∧ o % 0x20 = k ∧
    o ≠ 0x000 ∧ o ≠ 0x008 ∧ o ≠ 0x010 ∧ o ≠ 0x018 ∧ o ≠ 0x020 := by
  obtain ⟨rfl, hq, hk⟩ := h
  omega

theorem At.recovery_addr (h : At a 0x5 0 r) : mmioBase + 0x500000 + r = a := by
  obtain ⟨rfl, -⟩ := h
  unfold mmioBase
  omega

end

/-! ### Fields of a written word -/

section
variable {v : Word}

@[simp] theorem keep_field (v : Word) (hi lo : Nat) : keep v [(hi, lo)] = fld v hi lo * 2 ^ lo := Nat.zero_add _

@[simp] theorem fld_word (v : Word) : fld v 63 0 = v.toNat := by
  simp [fld, bits]
  exact v.isLt

theorem or_bit63 (h : v.getLsbD 63 = true) : v ||| 0x8000000000000000#64 = v := by
  have : 0x8000000000000000#64 = BitVec.twoPow 64 63 := rfl
  rw [this]
  ext i hi
  by_cases e : i = 63
  · simp_all
  · simp [e]

theorem and_not_bit63 (h : v.getLsbD 63 = false) : v &&& 0x7FFFFFFFFFFFFFFF#64 = v := by
  have : 0x7FFFFFFFFFFFFFFF#64 = ~~~BitVec.twoPow 64 63 := rfl
  rw [this]
  ext i hi
  by_cases e : i = 63
  · simp_all
  · simp [e]

/-- The partitions that a word with one bit set names. -/
theorem partitions_of_power : ∀ p < 16, (List.range 16).filter (BitVec.ofNat 64 (2 ^ p)).getLsbD = [p] := by decide

end

/-! ### A write at an address is a write in its block -/

section
variable {a b c n r : Nat} {v : Word} {s : State}

theorem exec_registerWrite : exec (.registerWrite a v) s = .next (registerWrite a v s) := rfl

/-- Writes outside BAR0, unaligned ones, and all after a failed boot change nothing (R8, R465). -/
theorem exec_registerWrite_ignored (h : a < 0xF00100000000 ∨ 0xF00101000000 ≤ a ∨ a % 8 ≠ 0 ∨ s.mgmt.err ≠ 0) :
    exec (.registerWrite a v) s = .next s := by
  have : a < mmioBase ∨ 0x1000000 ≤ a - mmioBase ∨ a % 8 ≠ 0 ∨ s.mgmt.err ≠ 0 := by
    unfold mmioBase
    omega
  exact congrArg Host.Outcome.next (if_pos this)

theorem At.dispatch (h : At a 0x0 n r) (he : s.mgmt.err = 0) (hn : n < 16) : exec (.registerWrite a v) s = .next (writeDispatch n r v s) := by
  simp [exec_registerWrite, registerWrite, h.decode, he, hn]

theorem At.window (h : At a 0x1 n r) (he : s.mgmt.err = 0) (hn : n < 16) : exec (.registerWrite a v) s = .next (writeWindow n r v s) := by
  simp [exec_registerWrite, registerWrite, h.decode, he, hn]

theorem At.xlat (h : At a 0x2 n r) (he : s.mgmt.err = 0) (hn : n < 16) : exec (.registerWrite a v) s = .next (writeXlat n r v s) := by
  simp [exec_registerWrite, registerWrite, h.decode, he, hn]

theorem At.stack (h : At a 0x3 n r) (he : s.mgmt.err = 0) (hn : n < 8) : exec (.registerWrite a v) s = .next (writeStack n r v s) := by
  simp [exec_registerWrite, registerWrite, h.decode, he, hn]

theorem At.save (h : At a 0x4 n r) (he : s.mgmt.err = 0) (hn : n < 16) : exec (.registerWrite a v) s = .next (writeSave n r v s) := by
  simp [exec_registerWrite, registerWrite, h.decode, he, hn]

theorem At.recovery (h : At a 0x5 0 r) (he : s.mgmt.err = 0) : exec (.registerWrite a v) s = .next (writeRecovery r v s) := by
  simp [exec_registerWrite, registerWrite, h.decode, he]

theorem At.berth (h : At a 0x6 n r) (he : s.mgmt.err = 0) (hn : n < 16) : exec (.registerWrite a v) s = .next (writeBerth n r v s) := by
  simp [exec_registerWrite, registerWrite, h.decode, he, hn]

theorem TraceAt.trace (h : TraceAt a c r) (he : s.mgmt.err = 0) : exec (.registerWrite a v) s = .next (writeTrace c r v s) := by
  simp [exec_registerWrite, registerWrite, h.decode, he]

theorem At.mtset (h : At a 0xA 0 0x008) (he : s.mgmt.err = 0) : exec (.registerWrite a v) s = .next (Machine.mtset v s) := by
  simp [exec_registerWrite, registerWrite, h.decode, he]

theorem At.bbclr (h : At a 0xA 0 0x010) (he : s.mgmt.err = 0) : exec (.registerWrite a v) s = .next (Machine.bbclr v s) := by
  simp [exec_registerWrite, registerWrite, h.decode, he]

theorem At.mgmt (h : At a 0xB 0 r) (he : s.mgmt.err = 0) : exec (.registerWrite a v) s = .next (writeMgmt r v s) := by
  simp [exec_registerWrite, registerWrite, h.decode, he]

/-! ### A read at an address is a read in its block -/

theorem At.readDispatch (h : At a 0x0 n r) (he : s.mgmt.err = 0) (hn : n < 16) : registerRead a s = BitVec.ofNat 64 (readDispatch n r s) := by
  simp [registerRead, h.decode, he, hn]

theorem At.readWindow (h : At a 0x1 n r) (he : s.mgmt.err = 0) (hn : n < 16) : registerRead a s = BitVec.ofNat 64 (readWindow n r s) := by
  simp [registerRead, h.decode, he, hn]

theorem At.readXlat (h : At a 0x2 n r) (he : s.mgmt.err = 0) (hn : n < 16) : registerRead a s = BitVec.ofNat 64 (readXlat n r s) := by
  simp [registerRead, h.decode, he, hn]

theorem At.readStack (h : At a 0x3 n r) (he : s.mgmt.err = 0) (hn : n < 8) : registerRead a s = BitVec.ofNat 64 (readStack n r s) := by
  simp [registerRead, h.decode, he, hn]

theorem At.readSave (h : At a 0x4 n r) (he : s.mgmt.err = 0) (hn : n < 16) : registerRead a s = BitVec.ofNat 64 (readSave n r s) := by
  simp [registerRead, h.decode, he, hn]

theorem At.readRecovery (h : At a 0x5 0 r) (he : s.mgmt.err = 0) : registerRead a s = BitVec.ofNat 64 (readRecovery r s) := by
  simp [registerRead, h.decode, he]

theorem At.readBerth (h : At a 0x6 n r) (he : s.mgmt.err = 0) (hn : n < 16) : registerRead a s = BitVec.ofNat 64 (readBerth n r s) := by
  simp [registerRead, h.decode, he, hn]

theorem TraceAt.readTrace (h : TraceAt a c r) (he : s.mgmt.err = 0) : registerRead a s = BitVec.ofNat 64 (readTrace c r s) := by
  simp [registerRead, h.decode, he]

theorem At.readTime (h : At a 0xA 0 r) (he : s.mgmt.err = 0) : registerRead a s = BitVec.ofNat 64 (readTime r s) := by
  simp [registerRead, h.decode, he]

theorem At.readMgmt (h : At a 0xB 0 r) : registerRead a s = BitVec.ofNat 64 (readMgmt r s) := by
  simp [registerRead, h.decode]

end

/-! ### Registers whose write is more than a field at a fixed offset -/

section
variable {a b i j k n o p q : Nat} {v : Word} {s : State}

/-- PCFG enables or disables by its bit EN (R99). -/
theorem pcfgWrite_exec : .next (pcfgWrite p v s) = if v.getLsbD 63 then exec (.partitionEnable p v) s else exec (.partitionDisable p v) s := by
  split
  case isTrue h => exact congrArg (fun w => Host.Outcome.next (pcfgWrite p w s)) (or_bit63 h).symm
  case isFalse h => exact congrArg (fun w => Host.Outcome.next (pcfgWrite p w s)) (and_not_bit63 (Bool.eq_false_iff.2 h)).symm

theorem writeDispatch_qbase (g : Entry o q 0x00) :
    writeDispatch p o v s = s.onPart p fun x => x.onQueue q fun u => { u with base := fld v 51 12 * 2 ^ 12 } := by
  simp [writeDispatch, g.decode]

theorem writeDispatch_qcfg (g : Entry o q 0x08) : writeDispatch p o v s = qcfgWrite p q v s := by
  simp [writeDispatch, g.decode]

theorem writeDispatch_qtail (g : Entry o q 0x18) : writeDispatch p o v s = qtailWrite p q v s := by
  simp [writeDispatch, g.decode]

theorem writeWindow_rwin (hj : j < 64) : writeWindow p (8 * j) v s = s.onPart p fun q =>
    { q with rwin := SMap.put 0 q.rwin j (BitVec.ofNat 64 (fld v 63 63 * 2 ^ 63 + fld v 38 24 * 2 ^ 24 + fld v 11 0)) } := by
  have : 8 * j < 0x200 := by omega
  simp [writeWindow, this, keep]

theorem writeXlat_xblk (hj : j < 64) (hi : i < 4) : writeXlat p (32 * j + 8 * i) v s = s.onPart p fun q =>
    { q with xblk := SMap.put 0 q.xblk (4 * j + i) (BitVec.ofNat 64 (keep v ([[(55, 12), (0, 0)], [(55, 12)], [(51, 12)], [(7, 4), (2, 0)]].getD i []))) } := by
  have ho : 32 * j + 8 * i < 0x800 := by omega
  have hm : (32 * j + 8 * i) % 32 = 8 * i := by omega
  have hd : (32 * j + 8 * i) / 8 = 4 * j + i := by omega
  simp only [writeXlat, ho, hm, hd]
  have : i = 0 ∨ i = 1 ∨ i = 2 ∨ i = 3 := by omega
  rcases this with rfl | rfl | rfl | rfl <;> rfl

theorem writeXlat_ptroot : writeXlat p 0x800 v s = s.onPart p fun q => { q with ptroot := BitVec.ofNat 64 (fld v 51 20 * 2 ^ 20 + fld v 0 0) } := by
  simp [writeXlat, keep]

theorem writeXlat_tinv : writeXlat p 0x808 v s = if v.getLsbD 63 then tinvGo p s else s := by
  simp [writeXlat]

theorem writeStack_cralloc (hn : n < 16) : writeStack k (0x100 + 8 * n) v s = crallocWrite k n v s := by
  unfold writeStack
  split
  case h_4 => rw [if_pos (by omega), show (0x100 + 8 * n - 0x100) / 8 = n by omega]
  all_goals omega

/-- The group registers of an enabled partition are fixed (R424). -/
theorem writeRecovery_member_enabled (g : Entry o p k) (en : (s.part p).en = true) : writeRecovery o v s = s := by
  simp [writeRecovery, g.decode, en]

/-- Those of a disabled one are written and measured (R424, R466). -/
theorem At.recovery_gid (h : At a 0x5 0 o) (g : Entry o p 0x00) (he : s.mgmt.err = 0) (en : (s.part p).en = false) :
    exec (.registerWrite a v) s = .next (measure (s.onPart p fun q => { q with leader := fld v 27 16, gid := fld v 15 0 }) a v) := by
  rw [h.recovery he]
  simp [writeRecovery, g.decode, en, h.recovery_addr]

theorem At.recovery_gmem (h : At a 0x5 0 o) (g : Entry o p 0x08) (he : s.mgmt.err = 0) (en : (s.part p).en = false) :
    exec (.registerWrite a v) s = .next (measure (s.onPart p fun q => { q with gmem := fld v 51 9 * 2 ^ 9 }) a v) := by
  rw [h.recovery he]
  simp [writeRecovery, g.decode, en, h.recovery_addr]

theorem writeBerth_kpend (hj : j < 8) : writeBerth b (0x040 + 8 * j) v s = s.onBerth b fun x => { x with kpend := x.kpend.set j v } := by
  unfold writeBerth
  split
  case h_5 => rw [if_pos (by omega), show (0x040 + 8 * j - 0x040) / 8 = j by omega]
  all_goals omega

theorem writeMgmt_nonce (hj : j < 4) : writeMgmt (0x040 + 8 * j) v s = { s with mgmt := { s.mgmt with nonce := s.mgmt.nonce.set j v } } := by
  unfold writeMgmt
  split
  case h_8 => rw [if_pos (by omega), show (0x040 + 8 * j - 0x040) / 8 = j by omega]
  all_goals omega

/-- One bit of PRST resets that partition (R469, Table 20.1). -/
theorem writeMgmt_reset (hp : p < 16) : writeMgmt 0x020 (BitVec.ofNat 64 (2 ^ p)) s = partitionReset p s := by
  show List.foldl _ s ((List.range 16).filter (BitVec.ofNat 64 (2 ^ p)).getLsbD) = _
  rw [partitions_of_power p hp]
  rfl

/-- PCAP is set, and from 2590 W on every gate opens (R470). -/
theorem writeMgmt_pcap : (writeMgmt 0x008 v s).mgmt = { s.mgmt with pcap := fld v 31 0 } ∧
    (2590 ≤ fld v 31 0 → ∀ q ∈ (writeMgmt 0x008 v s).parts, q.gate = 15) := by
  by_cases h : 2590 ≤ fld v 31 0 <;> simp [writeMgmt, h]

end

/-! ### Gates (R470) -/

section
variable {draw p : Nat} {s : State}

theorem pgateUpdate_gates (hc : s.mgmt.pcap < 2590) (hp : p < s.parts.length) :
    (pgateUpdate draw s).part p = { s.part p with gate := if (s.part p).en ∧ (s.part p).level ≠ 2 then Config.gate s.free p % 16 else 15 } := by
  simp [pgateUpdate, State.choose, State.part, List.getD, Nat.not_le.2 hc, hp]

theorem pgateUpdate_frame (hc : s.mgmt.pcap < 2590) :
    (pgateUpdate draw s).mem = s.mem ∧ (pgateUpdate draw s).cores = s.cores ∧ (pgateUpdate draw s).parts.length = s.parts.length := by
  simp [pgateUpdate, State.choose, Nat.not_le.2 hc]

end

/-! ### What was written reads back -/

/-- A write at offset `r.1` of BAR0 reads back in the fields `r.2`. -/
def ReadsBack (s : State) (v : Word) (r : Nat × List (Nat × Nat)) : Prop :=
  ∀ t, exec (.registerWrite (0xF00100000000 + r.1) v) s = .next t → registerRead (0xF00100000000 + r.1) t = BitVec.ofNat 64 (keep v r.2)

section
variable {c o x n : Nat} {v : Word} {s t : State} {fs : List (Nat × Nat)} {f : Trace → Trace}

theorem ReadsBack.of (hw : exec (.registerWrite (0xF00100000000 + o) v) s = .next t) (hr : registerRead (0xF00100000000 + o) t = BitVec.ofNat 64 x)
    (hk : BitVec.ofNat 64 x = BitVec.ofNat 64 (keep v fs)) : ReadsBack s v (o, fs) := by
  intro u e
  cases hw.symm.trans e
  exact hr.trans hk

theorem dispatch_readsBack (he : s.mgmt.err = 0) (hn : n < 16) (hp : n < s.parts.length) (hq : SMap.wf Queue.reset (s.part n).queues = true) :
    ReadsBack s v (0x1000 * n + 0x010, [(63, 0)]) ∧ ReadsBack s v (0x1000 * n + 0x018, [(63, 0)]) ∧
    ReadsBack s v (0x1000 * n + 0x020, [(63, 0)]) ∧ ReadsBack s v (0x1000 * n + 0x100, [(51, 12)]) := by
  refine ⟨.of ((At.of 0x0 n 0x010).dispatch he hn) ((At.of 0x0 n 0x010).readDispatch ?_ hn) ?_,
    .of ((At.of 0x0 n 0x018).dispatch he hn) ((At.of 0x0 n 0x018).readDispatch ?_ hn) ?_,
    .of ((At.of 0x0 n 0x020).dispatch he hn) ((At.of 0x0 n 0x020).readDispatch ?_ hn) ?_,
    .of ((At.of 0x0 n 0x100).dispatch he hn) ((At.of 0x0 n 0x100).readDispatch ?_ hn) ?_⟩
  all_goals simp [writeDispatch, readDispatch, State.part_onPart hp, Part.queue, Part.onQueue, SMap.get_put_same hq, he]

theorem window_readsBack (he : s.mgmt.err = 0) (hn : n < 16) (hp : n < s.parts.length) (hw : SMap.wf 0 (s.part n).rwin = true) :
    ReadsBack s v (0x100000 + 0x1000 * n, [(63, 63), (38, 24), (11, 0)]) :=
  .of ((At.of 0x1 n 0x000).window he hn) ((At.of 0x1 n 0x000).readWindow he hn)
    (by simp [writeWindow, readWindow, State.part_onPart hp, SMap.get_put_same (d := 0#64) hw, -BitVec.toNat_ofNat])

theorem xlat_readsBack (he : s.mgmt.err = 0) (hn : n < 16) (hp : n < s.parts.length) : ReadsBack s v (0x200000 + 0x1000 * n + 0x800, [(51, 20), (0, 0)]) :=
  .of ((At.of 0x2 n 0x800).xlat he hn) ((At.of 0x2 n 0x800).readXlat he hn)
    (by simp [writeXlat, readXlat, State.part_onPart hp, -BitVec.toNat_ofNat])

theorem stack_readsBack (he : s.mgmt.err = 0) (hn : n < 8) (hp : n < s.hbmStacks.length) :
    ReadsBack s v (0x300000 + 0x1000 * n, [(51, 6)]) ∧ ReadsBack s v (0x300000 + 0x1000 * n + 0x008, [(31, 0)]) := by
  refine ⟨.of ((At.of 0x3 n 0x000).stack he hn) ((At.of 0x3 n 0x000).readStack ?_ hn) ?_,
    .of ((At.of 0x3 n 0x008).stack he hn) ((At.of 0x3 n 0x008).readStack ?_ hn) ?_⟩
  all_goals simp [writeStack, readStack, State.stack_onStack hp, he]

/-- The save bases read back where no save holds them fixed and the base lies in HBM4E or LPDDR-6 (R398). -/
theorem save_readsBack (he : s.mgmt.err = 0) (hn : n < 16) (hp : n < s.parts.length) (ht : s.tableAt (fld v 51 12 * 2 ^ 12) = true)
    (hm : (s.part n).moving = false) (hd : (s.part n).dumping = false) (hs : (s.part n).slots = []) :
    ReadsBack s v (0x400000 + 0x1000 * n, [(51, 12)]) ∧ ReadsBack s v (0x400000 + 0x1000 * n + 0x008, [(51, 12)]) ∧
    ReadsBack s v (0x400000 + 0x1000 * n + 0x028, [(63, 0)]) ∧ ReadsBack s v (0x400000 + 0x1000 * n + 0x030, [(63, 0)]) := by
  refine ⟨.of ((At.of 0x4 n 0x000).save he hn) ((At.of 0x4 n 0x000).readSave ?_ hn) ?_,
    .of ((At.of 0x4 n 0x008).save he hn) ((At.of 0x4 n 0x008).readSave ?_ hn) ?_,
    .of ((At.of 0x4 n 0x028).save he hn) ((At.of 0x4 n 0x028).readSave ?_ hn) ?_,
    .of ((At.of 0x4 n 0x030).save he hn) ((At.of 0x4 n 0x030).readSave ?_ hn) ?_⟩
  all_goals simp [writeSave, readSave, State.part_onPart hp, ht, hm, hd, hs, he, -Nat.reducePow]

theorem recovery_readsBack (he : s.mgmt.err = 0) : ReadsBack s v (0x500008, [(31, 0)]) ∧ ReadsBack s v (0x500010, [(63, 62), (51, 32), (27, 0)]) := by
  refine ⟨.of ((At.of 0x5 0 0x008).recovery he) ((At.of 0x5 0 0x008).readRecovery ?_) ?_,
    .of ((At.of 0x5 0 0x010).recovery he) ((At.of 0x5 0 0x010).readRecovery ?_) ?_⟩
  all_goals simp [writeRecovery, readRecovery, he, -BitVec.toNat_ofNat]

theorem berth_readsBack (he : s.mgmt.err = 0) (hn : n < 16) (hb : n < s.berths.length) : ReadsBack s v (0x600000 + 0x1000 * n + 0x010, [(63, 0)]) :=
  .of ((At.of 0x6 n 0x010).berth he hn) ((At.of 0x6 n 0x010).readBerth he hn) (by simp [writeBerth, readBerth, State.berth_onBerth hb])

theorem mgmt_onTrace : (s.onTrace c f).mgmt = s.mgmt := rfl

theorem core_onTrace (hc : SMap.wf Core.reset s.cores = true) : (s.onTrace c f).core c = { s.core c with trace := f (s.core c).trace } :=
  SMap.get_put_same hc

theorem trace_readsBack (he : s.mgmt.err = 0) (hn : n < 512) (hc : SMap.wf Core.reset s.cores = true) :
    ReadsBack s v (0x800000 + 0x40 * n, [(63, 48), (46, 40), (38, 32), (27, 16), (10, 8), (6, 0)]) ∧
    ReadsBack s v (0x800000 + 0x40 * n + 0x08, [(22, 3)]) ∧ ReadsBack s v (0x800000 + 0x40 * n + 0x20, [(51, 12)]) := by
  refine ⟨.of ((TraceAt.of n 0x00).trace he) ((TraceAt.of n 0x00).readTrace ?_) ?_,
    .of ((TraceAt.of n 0x08).trace he) ((TraceAt.of n 0x08).readTrace ?_) ?_,
    .of ((TraceAt.of n 0x20).trace he) ((TraceAt.of n 0x20).readTrace ?_) ?_⟩
  all_goals simp [writeTrace, readTrace, core_onTrace hc, mgmt_onTrace, he]

theorem mgmt_readsBack (he : s.mgmt.err = 0) :
    ReadsBack s v (0xB00008, [(31, 0)]) ∧ ReadsBack s v (0xB00038, [(51, 6)]) ∧ ReadsBack s v (0xB00068, [(63, 0)]) := by
  refine ⟨.of ((At.of 0xB 0 0x008).mgmt he) (At.of 0xB 0 0x008).readMgmt ?_,
    .of ((At.of 0xB 0 0x038).mgmt he) (At.of 0xB 0 0x038).readMgmt ?_,
    .of ((At.of 0xB 0 0x068).mgmt he) (At.of 0xB 0 0x068).readMgmt ?_⟩
  · simp [readMgmt, writeMgmt_pcap]
  · simp [readMgmt, writeMgmt]
  · simp [readMgmt, writeMgmt]

end

/-! ### The statement -/

/-- Settles O60: an address is taken apart into block, copy and register once (`At.decode`), each clause is then the write of that register in its block, and what reads back is what the block's read finds in the state written. -/
theorem registerWrites : Obligations.RegisterWrites := by
  unfold Obligations.RegisterWrites
  refine ⟨fun s a v => exec_registerWrite_ignored, fun s p v he hp => ?partition, fun s k v he hk => ?stack, fun s b v he hb => ?berth,
    fun s c v he hc => ?trace, fun s v he => ?global, fun s t n v r he hn hl hb hk hr hq hc ht hm hd hs mem e => ?readBack,
    fun s he => (At.of 0xA 0 0).readTime he, fun s draw hc => congrArg Host.Outcome.next (if_pos hc), fun s draw hc => ?gates⟩
  case partition =>
    refine ⟨((At.of 0x0 p 0x000).dispatch he hp).trans pcfgWrite_exec, (At.of 0x0 p 0x010).dispatch he hp, (At.of 0x0 p 0x018).dispatch he hp,
      (At.of 0x0 p 0x020).dispatch he hp, fun q hq => ⟨?qtail, ?qcfg, ?qbase⟩, fun j hj => ?rwin, fun j hj i hi => ?xblk, ?ptroot, ?tinv,
      fun fixed hf => ?saveBases, ?resume, ?dump, (At.of 0x4 p 0x028).save he hp, (At.of 0x4 p 0x030).save he hp, fun en => ⟨?gidFixed, ?gmemFixed⟩,
      fun en => ⟨(At.of 0x5 0 (0x100 + 0x20 * p)).recovery_gid (.of p 0x00) he en, (At.of 0x5 0 (0x108 + 0x20 * p)).recovery_gmem (.of p 0x08) he en⟩⟩
    case qtail =>
      rw [(At.of 0x0 p (0x100 + 0x20 * q + 0x18)).dispatch he hp, writeDispatch_qtail (.of q 0x18)]
      rfl
    case qcfg =>
      rw [(At.of 0x0 p (0x100 + 0x20 * q + 0x08)).dispatch he hp, writeDispatch_qcfg (.of q 0x08)]
      rfl
    case qbase => rw [(At.of 0x0 p (0x100 + 0x20 * q)).dispatch he hp, writeDispatch_qbase (.of q 0x00)]
    case rwin => rw [(At.of 0x1 p (8 * j)).window he hp, writeWindow_rwin hj]
    case xblk => rw [(At.of 0x2 p (32 * j + 8 * i)).xlat he hp, writeXlat_xblk hj hi]
    case ptroot => rw [(At.of 0x2 p 0x800).xlat he hp, writeXlat_ptroot]
    case tinv =>
      rw [(At.of 0x2 p 0x808).xlat he hp, writeXlat_tinv]
      exact apply_ite Host.Outcome.next _ _ _
    case saveBases =>
      subst hf
      rw [← keep_field]
      exact ⟨(At.of 0x4 p 0x000).save he hp, (At.of 0x4 p 0x008).save he hp, (At.of 0x4 p 0x010).save he hp⟩
    case resume =>
      rintro rfl
      exact (At.of 0x4 p 0x018).save he hp
    case dump =>
      rintro rfl
      exact (At.of 0x4 p 0x018).save he hp
    case gidFixed => rw [(At.of 0x5 0 (0x100 + 0x20 * p)).recovery he, writeRecovery_member_enabled (.of p 0x00) en]
    case gmemFixed => rw [(At.of 0x5 0 (0x108 + 0x20 * p)).recovery he, writeRecovery_member_enabled (.of p 0x08) en]
  case stack =>
    rw [← keep_field]
    refine ⟨(At.of 0x3 k 0x000).stack he hk, (At.of 0x3 k 0x008).stack he hk, (At.of 0x3 k 0x010).stack he hk, fun n hn => ?_⟩
    rw [(At.of 0x3 k (0x100 + 8 * n)).stack he hk, writeStack_cralloc hn]
    rfl
  case berth =>
    refine ⟨(At.of 0x6 b 0x000).berth he hb, (At.of 0x6 b 0x010).berth he hb, ((At.of 0x6 b 0x020).berth he hb).trans (apply_ite Host.Outcome.next _ _ _),
      (At.of 0x6 b 0x028).berth he hb, fun j hj => ?_⟩
    rw [(At.of 0x6 b (0x040 + 8 * j)).berth he hb, writeBerth_kpend hj]
  case trace =>
    rw [← keep_field, ← keep_field]
    refine ⟨(TraceAt.of c 0x00).trace he, (TraceAt.of c 0x08).trace he, ?_, ?_, ?_, (TraceAt.of c 0x20).trace he⟩
    all_goals
      rintro rfl
      exact (TraceAt.of c 0x18).trace he
  case global =>
    rw [← keep_field]
    refine ⟨?riser, (At.of 0x5 0 0x008).recovery he, (At.of 0x5 0 0x010).recovery he,
      ((At.of 0x5 0 0x018).recovery he).trans (apply_ite Host.Outcome.next _ _ _), (At.of 0xA 0 0x008).mtset he, (At.of 0xA 0 0x010).bbclr he, rfl,
      ⟨_, (At.of 0xB 0 0x008).mgmt he, writeMgmt_pcap⟩, (At.of 0xB 0 0x018).mgmt he, fun p hp => ?reset, (At.of 0xB 0 0x038).mgmt he, fun j hj => ?nonce,
      (At.of 0xB 0 0x060).mgmt he, (At.of 0xB 0 0x068).mgmt he⟩
    case riser =>
      rw [(At.of 0x5 0 0x000).recovery he]
      simp [writeRecovery]
    case reset =>
      rintro rfl
      rw [(At.of 0xB 0 0x020).mgmt he, writeMgmt_reset hp]
      rfl
    case nonce => rw [(At.of 0xB 0 (0x040 + 8 * j)).mgmt he, writeMgmt_nonce hj]
  case readBack =>
    have hp : n < s.parts.length := by omega
    obtain ⟨slice, qmin, ovr, base⟩ := dispatch_readsBack (v := v) he hn hp hq
    obtain ⟨cvaddr, cvcnt⟩ := stack_readsBack (v := v) (n := n % 8) he (by omega) (by omega)
    obtain ⟨srbase, imgbase, pwait, pabort⟩ := save_readsBack he hn hp ht hm hd hs
    obtain ⟨sealper, inj⟩ := recovery_readsBack (v := v) he
    obtain ⟨ctl, pcm, tdst⟩ := trace_readsBack (v := v) (n := n) he (by omega) hc
    obtain ⟨pcap, mbaddr, arg1⟩ := mgmt_readsBack (v := v) he
    simp only [List.mem_cons, List.not_mem_nil, or_false] at mem
    rcases mem with rfl | rfl | rfl | rfl | rfl | rfl | rfl | rfl | rfl | rfl | rfl | rfl | rfl | rfl | rfl | rfl | rfl | rfl | rfl | rfl | rfl
    · exact slice t e
    · exact qmin t e
    · exact ovr t e
    · exact base t e
    · exact window_readsBack he hn hp hr t e
    · exact xlat_readsBack he hn hp t e
    · exact cvaddr t e
    · exact cvcnt t e
    · exact srbase t e
    · exact imgbase t e
    · exact pwait t e
    · exact pabort t e
    · exact sealper t e
    · exact inj t e
    · exact berth_readsBack he hn (by omega) t e
    · exact ctl t e
    · exact pcm t e
    · exact tdst t e
    · exact pcap t e
    · exact mbaddr t e
    · exact arg1 t e
  case gates =>
    obtain ⟨mem, cores, parts⟩ := pgateUpdate_frame (draw := draw) hc
    refine ⟨_, rfl, mem, cores, parts, fun p hp => ?_⟩
    rw [pgateUpdate_gates hc hp]
    refine ⟨?_, fun off => if_neg fun on => ?_, rfl⟩
    · dsimp only
      split <;> omega
    · simp_all

end Sys2Proof.Machine.Registers

/-!
## Every step keeps memory and scratchpads in their canonical form (O45)

`State.Inv` is kept by every function that a step composes. Each gets one lemma of its name in the namespace `State.Inv`, in the order of the model, and
proves it from the lemmas of the functions it calls. Only a few write memory or a scratchpad themselves; the others change other fields (`State.Inv.of_eq`).
-/

namespace Sys2Proof.SMap

/-! ### Maps whose values change under a function that fixes the default -/

variable {α : Type} [DecidableEq α] {d : α} {f : α → α} {m : SMap α} {lo k : Nat}

theorem wfAbove_map (h : ∀ x, x ≠ d → f x ≠ d) (w : SMap.wfAbove d lo m = true) : SMap.wfAbove d lo (m.map fun e => (e.1, f e.2)) = true := by
  induction m generalizing lo with
  | nil => rfl
  | cons e m ih =>
    simp only [SMap.wfAbove, List.map_cons, Bool.and_eq_true, decide_eq_true_eq] at w ⊢
    exact ⟨⟨w.1.1, h _ w.1.2⟩, ih w.2⟩

theorem wf_map (h : ∀ x, x ≠ d → f x ≠ d) (w : SMap.wf d m = true) : SMap.wf d (m.map fun e => (e.1, f e.2)) = true := by
  cases m with
  | nil => rfl
  | cons e m =>
    simp only [SMap.wf, List.map_cons, Bool.and_eq_true, decide_eq_true_eq] at w ⊢
    exact ⟨h _ w.1, wfAbove_map h w.2⟩

omit [DecidableEq α] in
theorem get_map (h : f d = d) : SMap.get d (m.map fun e => (e.1, f e.2)) k = f (SMap.get d m k) := by
  induction m with
  | nil => exact h.symm
  | cons e m ih =>
    simp only [SMap.get, List.map_cons]
    split
    · rfl
    · split
      · exact h.symm
      · exact ih

end Sys2Proof.SMap

namespace Sys2Proof.Machine

/-! ### What an operation gives that may have no outcome

An engine event answers `Option State`, a lookup a state beside its result, an issue `Out`. The invariant of the state inside each is stated once here,
with a rule per way of building it. -/

/-- Whatever `o` holds satisfies `P`. -/
def Gives {α : Type} (P : α → Prop) (o : Option α) : Prop := ∀ a, o = some a → P a

/-- The state of an answer that carries a result beside it meets the invariant. -/
def FstInv {α : Type} (r : State × α) : Prop := r.1.Inv

namespace Gives

variable {α β : Type} {P : α → Prop} {Q : β → Prop} {o q : Option α}

theorem none : Gives P none := nofun

theorem some {a : α} (h : P a) : Gives P (some a) := fun _ e => Option.some.inj e ▸ h

theorem ite {c : Prop} [Decidable c] {p : Option α} (h : Gives P o) (g : Gives P p) : Gives P (if c then o else p) := by
  split
  · exact h
  · exact g

theorem map {f : α → β} (h : Gives P o) (g : ∀ a, P a → Q (f a)) : Gives Q (o.map f) := by
  cases o with
  | none => exact none
  | some a => exact some (g a (h a rfl))

/-- A step of a `do` block whose value says nothing of the state. -/
theorem bind {f : α → Option β} (g : ∀ a, Gives Q (f a)) : Gives Q (o.bind f) := by
  cases o with
  | none => exact none
  | some a => exact g a

/-- A step of a `do` block that hands on a state. -/
theorem andThen {f : α → Option β} (h : Gives P o) (g : ∀ a, P a → Gives Q (f a)) : Gives Q (o.bind f) := by
  cases o with
  | none => exact none
  | some a => exact g a (h a rfl)

theorem getD {a : α} (h : Gives P o) (d : P a) : P (o.getD a) := by
  cases o with
  | none => exact d
  | some b => exact h b rfl

/-- A function that answers a state fit for `Q`, whatever it is given. -/
theorem mapAny {f : α → β} (g : ∀ a, Q (f a)) : Gives Q (o.map f) := by
  cases o with
  | none => exact none
  | some a => exact some (g a)

theorem or (h : Gives P o) (g : Gives P q) : Gives P (o.or q) := by
  cases o with
  | none => exact g
  | some a => exact h

theorem filter {f : α → Bool} (h : Gives P o) : Gives P (o.filter f) := fun a e => h a (Option.filter_eq_some_iff.mp e).1

theorem findSome {f : β → Option α} {l : List β} (h : ∀ b, Gives P (f b)) : Gives P (l.findSome? f) := fun a e => by
  obtain ⟨b, _, found⟩ := List.exists_of_findSome?_eq_some e
  exact h b a found

end Gives

/-- The state of an outcome, where there is one, meets the invariant. -/
def GivesInv (o : Out) : Prop := ∀ t, o = .next t → t.Inv

theorem GivesInv.next {s : State} (i : s.Inv) : GivesInv (.next s) := fun _ e => Host.Outcome.next.inj e ▸ i
theorem GivesInv.fault {f : Fault} : GivesInv (.fault f) := nofun
theorem GivesInv.refused {r : Refusal} : GivesInv (.refused r) := nofun

theorem GivesInv.ite {c : Prop} [Decidable c] {o p : Out} (h : GivesInv o) (g : GivesInv p) : GivesInv (if c then o else p) := by
  split
  · exact h
  · exact g

theorem FstInv.ite {α : Type} {c : Prop} [Decidable c] {r q : State × α} (h : FstInv r) (g : FstInv q) : FstInv (if c then r else q) := by
  split
  · exact h
  · exact g

namespace State.Inv

variable {s : State}

theorem ite {c : Prop} [Decidable c] {t u : State} (i : t.Inv) (j : u.Inv) : (if c then t else u).Inv := by
  split
  · exact i
  · exact j

/-- A core's scratchpad is in its canonical form. -/
theorem pad (i : s.Inv) (c : Nat) : Memory.wf (s.core c).mem = true := i.2.2 c

theorem engine {f : State → Option State} (i : s.Inv) (h : Gives State.Inv (f s)) : GivesInv (engine f s) := .next (h.getD i)

/-- A core whose scratchpad an update leaves alone. -/
theorem keepPad {k : Core} (i : s.Inv) (h : k.mem = (s.core c).mem) : (s.setCore c k).Inv := i.setCore (h ▸ i.pad c)

/-! ### The named operations over the state -/

theorem choose (i : s.Inv) : s.choose.2.Inv := i.of_eq rfl rfl
theorem setXlat {d p : Nat} {x : DieXlat} (i : s.Inv) : (s.setXlat d p x).Inv := i.of_eq rfl rfl
theorem requestSeal {p : Nat} {r : SealReq} (i : s.Inv) : (s.requestSeal p r).Inv := i.onPart
theorem setHold {b : Nat} {l : List Held} (i : s.Inv) : (s.setHold b l).Inv := .ite i.onBerth (i.of_eq rfl rfl)
theorem waitAt {b c n : Nat} (i : s.Inv) : (s.waitAt b c n).Inv := i.onBerth
theorem entered {b c n : Nat} (i : s.Inv) : (s.entered b c n).Inv := i.onBerth
theorem flit {b : Nat} (i : s.Inv) : (s.flit b).Inv := i.choose.onBerth
theorem engineFault {p u c n a m j : Nat} (i : s.Inv) : (s.engineFault p u c n a m j).Inv := i.raise
theorem unask {c j : Nat} (i : s.Inv) : (s.unask c j).Inv := i.of_eq rfl rfl
theorem onCopy {n : Nat} {g : Copy → Copy} (i : s.Inv) : (s.onCopy n g).Inv := i.of_eq rfl rfl
theorem onNest {p n : Nat} {f : ANest → ANest} (i : s.Inv) : (s.onNest p n f).Inv := i.onPart
theorem onGraph {p g : Nat} {f : Graph → Graph} (i : s.Inv) : (s.onGraph p g f).Inv := i.onPart
theorem onHalt {p : Nat} {f : Halt → Halt} (i : s.Inv) : (s.onHalt p f).Inv := i.onPart
theorem onSeal {p : Nat} {f : Seal → Seal} (i : s.Inv) : (s.onSeal p f).Inv := i.onPart
theorem onGroup {p : Nat} {f : Part → Part} (i : s.Inv) : (s.onGroup p f).Inv := State.Inv.foldl (fun _ _ i => i.onPart) _ i
theorem forget {w : Waiter} (i : s.Inv) : (s.forget w).Inv := i.of_eq rfl rfl
theorem record {n : Nat} {q : Packet} {r : Reply} (i : s.Inv) : (s.record n q r).Inv := i.of_eq rfl rfl
theorem dropGrants {w : Waiter} (i : s.Inv) : (dropGrants s w).Inv := i.of_eq rfl rfl
theorem acquireView {c sc : Nat} {v : View} (i : s.Inv) : (acquireView s c sc v).Inv := i.dropLines.onCtx

theorem faultOnce {p u c n a m j : Nat} (i : s.Inv) : Gives State.Inv (s.faultOnce p u c n a m j) := by
  unfold State.faultOnce
  split
  · exact .ite .none (.some i.engineFault)
  · exact .some i.engineFault

theorem injectOne {w : InjWrite} (i : s.Inv) : (s.injectOne w).Inv := by
  unfold State.injectOne
  exact .ite i (.ite (.ite (i.of_eq rfl rfl) (.engineFault (i.of_eq rfl rfl))) (i.of_eq rfl rfl))

theorem countInjected (i : s.Inv) : s.countInjected.Inv := State.Inv.foldl (fun _ _ i => i.injectOne) _ (i.of_eq rfl rfl)

theorem tick (i : s.Inv) : s.tick.Inv := i.of_eq rfl rfl

end State.Inv
end Sys2Proof.Machine

namespace Sys2Proof.Machine.State.Inv

variable {s : State} {b c d j k l m n p t u va : Nat} {o : Origin} {x : Packet} {w : Waiter}

/-! ### Translation and the homes -/

theorem lookupFor (i : s.Inv) : FstInv (lookupFor s w d p n) := by
  unfold Machine.lookupFor
  dsimp only
  repeat' split
  all_goals exact i.of_eq rfl rfl

theorem walkComplete (i : s.Inv) : Gives State.Inv (walkComplete k s) := by
  refine .bind fun v => .ite ?_ .none
  dsimp only
  split
  · exact .ite (.some (i.of_eq rfl rfl)) (.some (.setXlat (i.of_eq rfl rfl)))
  · exact .some (i.of_eq rfl rfl)
  · exact .some (i.of_eq rfl rfl)

theorem reach {kind : Access} {copy : Bool} (i : s.Inv) : FstInv (reach s w d p kind copy va) :=
  .ite i i.lookupFor

theorem logCell {cell : Nat} (i : s.Inv) : Gives State.Inv (s.logCell p k cell) := by
  unfold State.logCell
  exact .ite (.some i) fun _ => i.append

theorem holdWrite {bs : List MByte} (i : s.Inv) : Gives State.Inv (s.holdWrite p b m bs) := by
  unfold State.holdWrite
  have j := i.setHold (b := b) (l := s.holdOf b ++ [⟨p, (s.part p).gid, (s.part p).cur, m, bs, false⟩])
  exact .ite (.some (.ite (State.Inv.foldl (fun _ _ i => i.requestSeal) _ j.wroteIn) j.wroteIn)) .none

theorem originStop (i : s.Inv) : (o.stop s p).Inv := by
  cases o with
  | stream c j => exact i.onPart
  | _ => exact i

theorem packetFault (i : s.Inv) : Gives State.Inv (packetFault s x u n) := .ite .none (.some (originStop i.raise))
theorem pathFault (i : s.Inv) : Gives State.Inv (pathFault s x) := i.packetFault
theorem hostWrite {bs : List Byte} (i : s.Inv) : (hostWrite s n bs).Inv := .ite i.writePhys i
theorem replyTo {r : Reply} (i : s.Inv) : (replyTo s x r).Inv := i.of_eq rfl rfl

theorem replyInbound {r : Reply} (i : s.Inv) : (replyInbound s x r).Inv := by
  unfold Machine.replyInbound
  split
  · exact i.replyTo
  · exact i

theorem homeLineWrite {w : HomeWrite} (i : s.Inv) : Gives State.Inv (homeLineWrite w s) := by
  cases w with
  | host pa bs => exact .some i.hostWrite
  | fabric k =>
    refine .bind fun x => ?_
    have i1 : State.Inv { s with fabric := dropAt s.fabric k } := i.of_eq rfl rfl
    dsimp only
    split
    · refine .ite .none (.ite i.pathFault ?_)
      split
      · refine .ite .none (.ite ?_ (.ite .none (.map (fun _ => i1.homeWrite) fun _ j => j.replyInbound)))
        split
        · exact .some i1.replyTo
        · exact i.packetFault
      · refine .ite .none (.ite (.some (i.of_eq rfl rfl)) (.ite .none ?_))
        split
        · exact .packetFault (i.of_eq rfl rfl)
        · exact .some i1.flit.wroteIn
      · exact .none
    · exact .none

theorem holdBufferEntry (i : s.Inv) : Gives State.Inv (holdBufferEntry k s) := by
  refine .bind fun x => .bind fun b => ?_
  dsimp only
  split
  · refine .ite .none (.ite i.pathFault (.ite .none ?_))
    split
    · exact .packetFault (i.of_eq rfl rfl)
    · exact .holdWrite (i.of_eq rfl rfl)
  · exact .none

/-! ### Contexts, teams and rendezvous points -/

theorem arrive {mark : Bool} (i : s.Inv) : (arrive s c j mark).Inv := by
  unfold Machine.arrive
  split
  · exact i
  · split
    · exact i
    · exact i.setCtx.onTeam

theorem waitEnd (i : s.Inv) : (waitEnd s c j).Inv := by
  unfold Machine.waitEnd
  split
  · exact i
  · exact i.setCtx.acquire

theorem clearOut {tm : Team} (i : s.Inv) : (clearOut s tm j n).Inv := State.Inv.foldl (fun _ _ i => i.onCtx) _ i

theorem completePoint (i : s.Inv) : (completePoint s p t j).Inv := by
  unfold Machine.completePoint
  split
  · exact i
  · exact i.onTeam.clearOut

theorem countArrival (i : s.Inv) : (countArrival s p t j n).Inv := by
  unfold Machine.countArrival
  dsimp only
  split
  · exact i.onTeam
  · exact .ite i.onTeam.completePoint i.onTeam

theorem leavePoint (i : s.Inv) : (leavePoint c s j).Inv := by
  unfold Machine.leavePoint
  split
  · exact i
  · refine .ite i.onTeam ?_
    dsimp only
    split
    · exact i.onTeam
    · exact .ite i.onTeam.completePoint i.onTeam

theorem leavePoints (i : s.Inv) : (leavePoints s c).Inv := State.Inv.foldl (fun _ _ i => i.leavePoint) _ i

theorem abandonBy (i : s.Inv) : (abandonBy s p t c).Inv := by
  unfold Machine.abandonBy
  split
  · exact i
  · exact (State.Inv.foldl (fun _ _ i => i.onCtx) _ i).onTeam.onPart.blackBox

theorem abandon (i : s.Inv) : (abandon s p t).Inv := i.abandonBy
theorem endTask {code : Option Nat} (i : s.Inv) : (endTask s c code).Inv := i.leavePoints.onCtx

end Sys2Proof.Machine.State.Inv

namespace Sys2Proof.Machine

/-! ### A core's engines and landings leave its scratchpad in the canonical form -/

theorem updateWindow_wf {k : Core} {p : Nat} {w : LineWrite} (h : Memory.wf k.mem = true) : Memory.wf (updateWindow k p w).mem = true := by
  unfold updateWindow
  split <;> exact h

theorem fullLandOne_mem {n : Nat} {kx : Core × Ctx} {w : CellWrite} : (fullLandOne n kx w).1.mem = kx.1.mem := rfl

theorem fullLand_mem {k : Core} {x : Ctx} {r : CellResult} : (fullLand k x r).1.mem = k.mem := by
  have writes : (r.writes.foldl (fullLandOne r.id) (k, x)).1.mem = k.mem :=
    List.foldlRecOn (motive := fun kx : Core × Ctx => kx.1.mem = k.mem) _ _ rfl fun _ e _ _ => e
  rw [← writes]
  unfold fullLand
  dsimp only
  split
  · split <;> rfl
  · rfl

theorem landCell_mem {k : Core} {x : Ctx} : (landCell k x).1.mem = k.mem := by
  unfold landCell
  split
  · rfl
  next r _ =>
    have chained : (if r.chained then k else chainLand k r).mem = k.mem := by split <;> rfl
    dsimp only
    split
    · exact fullLand_mem.trans chained
    · exact chained

theorem landCell_wf {k : Core} {x : Ctx} (w : Memory.wf k.mem = true) : Memory.wf (landCell k x).1.mem = true := by
  rwa [landCell_mem]

theorem landCells_mem {n : Nat} {kx : Core × Ctx} : (landCells n kx).1.mem = kx.1.mem := by
  induction n generalizing kx with
  | zero => rfl
  | succ n ih => rw [landCells, ih, landCell_mem]

theorem landCells_wf {n : Nat} {k : Core} {x : Ctx} (w : Memory.wf k.mem = true) : Memory.wf (landCells n (k, x)).1.mem = true := by
  rwa [landCells_mem]

theorem settleCell_wf {k : Core} {w : CellWrite} (h : Memory.wf k.mem = true) : Memory.wf (settleCell k w).mem = true := by
  unfold settleCell
  split <;> exact h

namespace State.Inv

variable {s : State} {c : Nat}

theorem landDue (i : s.Inv) : FstInv (landDue s c) := by
  unfold Machine.landDue
  split
  · exact i
  · exact i.setCore (commitStores_wf (landCells_wf (i.pad c)))

end State.Inv
end Sys2Proof.Machine

namespace Sys2Proof.Machine

/-! ### Slot syllables -/

/-- A syllable that acts leaves a state that meets the invariant. -/
def ActInv (a : Act State) : Prop := ∀ t, a = .ok t → t.Inv

namespace ActInv

variable {s : State} {a : Act State} {v : Bool} {c : Cause}

theorem ok (i : s.Inv) : ActInv (.ok s) := fun _ e => Act.ok.inj e ▸ i

theorem await (h : ActInv a) : ActInv (.await v a) := by
  unfold Act.await
  split
  · exact h
  · nofun

theorem need (h : ActInv a) : ActInv (.need v c a) := by
  unfold Act.need Act.check
  split
  · exact h
  · nofun

end ActInv

namespace State.Inv

variable {s : State} {h : Hdr} {c : Nat} {f : F3} {g : FB}

theorem sylS {go : Core → Ctx → Act State} (i : s.Inv) (a : ∀ x, ActInv (go (s.core s.cur) x)) : GivesInv (sylS h s go) := by
  intro t e
  cases hx : s.ctx s.cur with
  | none => simp [Machine.sylS, hx] at e
  | some x =>
    obtain rfl | ⟨-, ⟨_, _, -, rfl⟩ | ⟨-, rfl⟩ | r⟩ := sylS_next hx e
    · exact i
    · exact i.issueFault
    · exact i.hold
    · exact a x t r

/-- A syllable on its own context alone. -/
theorem syl {go : Core → Ctx → Act Ctx} (i : s.Inv) : GivesInv (syl h s go) := by
  refine i.sylS fun x => ?_
  cases go (s.core s.cur) x with
  | ok y => exact .ok i.setCtx
  | fault c d => nofun
  | wait => nofun

theorem execRvi (i : s.Inv) : GivesInv (execRvi h g s) := i.sylS fun _ => .need (.ok i.onTeam)
theorem execRva (i : s.Inv) : GivesInv (execRva h g s) := i.sylS fun _ => .need (.ok i.arrive)
theorem execRvw (i : s.Inv) : GivesInv (execRvw h g s) := i.sylS fun _ => .await (.ok i.waitEnd)

theorem execRvaw (i : s.Inv) : GivesInv (execRvaw h g s) := by
  unfold Machine.execRvaw
  split
  · exact .fault
  · exact .ite (.next i) (.ite (.ite (.next i.issueFault) (.next i.arrive.hold)) (.ite (.next i.hold) (.next i.setCtx.waitEnd)))

theorem execPhint (i : s.Inv) : GivesInv (execPhint h g s) := by
  refine i.sylS fun x => .need (.need ?_)
  dsimp only
  split
  · exact .ok i
  · split
    · split
      · exact .ok i.setCtx.onTeam
      · exact .ok i.abandonBy.onCtx
    · exact .ok i

theorem execTend (i : s.Inv) : GivesInv (execTend h g s) := i.sylS fun _ => .ok i.endTask
theorem execTfail (i : s.Inv) : GivesInv (execTfail h g s) := i.sylS fun _ => .ok i.endTask.blackBox.onPart

theorem execSbind (i : s.Inv) : GivesInv (execSbind h f s) := by
  refine i.sylS fun x => .need (.need (.need (.ok ?_)))
  exact .ite i.setCtx.forget.unask.acquireView i.setCtx.forget.unask

theorem execSsync (i : s.Inv) : GivesInv (execSsync h f s) := i.sylS fun _ => .await (.ok (.ite i.released i))

theorem execCpy (i : s.Inv) : GivesInv (execCpy h f s) := by
  refine i.sylS fun x => .need (.need (.need (.need (.need (.ok ?_)))))
  have acquired {y : Ctx} {n : Nat} : (if acqOf f then (s.setCtx s.cur y).onCtx s.cur fun y => y.raiseFloor n else s.setCtx s.cur y).Inv :=
    .ite i.setCtx.onCtx i.setCtx
  dsimp only
  refine .ite ?_ (.of_eq (.onCtx acquired) rfl rfl)
  by_cases l : f.d.getLsbD 6 = true
  · rw [if_pos l]
    exact .bump (.ite (.released (.onCtx acquired)) (.onCtx acquired))
  · rw [if_neg l]
    exact .ite (.released (.onCtx acquired)) (.onCtx acquired)

theorem vainv {all : Bool} (i : s.Inv) : GivesInv (vainv h f s all) :=
  i.sylS fun _ => .need (.need (.need (.need (.ok (.of_eq i.setCtx rfl rfl)))))

theorem execTrig (i : s.Inv) : GivesInv (execTrig h f s) := i.sylS fun _ => .ok i.onTrace

/-! The frames that syllables share all act on the context alone. -/

variable {m : FI} {n k : Nat} {v : Bool} {o : FpOp} {l w : Nat} {r : List (BitVec 7)}

theorem alu {op : Word → Word → Word} (i : s.Inv) : GivesInv (alu h f s n op) := i.syl
theorem aluI {op : Word → Word → Word} (i : s.Inv) : GivesInv (aluI h m s op) := i.syl
theorem pred {op : Bool → Bool → Bool} (i : s.Inv) : GivesInv (pred h f s op) := i.syl
theorem loopi (i : s.Inv) : GivesInv (loopi h n g s) := i.syl
theorem repeat_ (i : s.Inv) : GivesInv (repeat_ h n g s) := i.syl
theorem land {go : Ctx → Act LOp} (i : s.Inv) : GivesInv (land h f s go) := i.syl
theorem fp32 (i : s.Inv) : GivesInv (fp32 o n h f s) := i.syl
theorem fp32MinMax (i : s.Inv) : GivesInv (fp32MinMax v h f s) := i.syl
theorem vValues {go : Ctx → List (Nat × Flags)} (i : s.Inv) : GivesInv (vValues h s f l w r go) := i.syl
theorem vRounds {go : Ctx → List (Rounding × Flags)} (i : s.Inv) : GivesInv (vRounds h s f l n w r go) := i.syl
theorem vCompare {go : Ctx → List (Bool × Flags)} (i : s.Inv) : GivesInv (vCompare h s f w go) := i.syl
theorem vInt {op : Nat → Nat → Nat → Nat → Nat} (i : s.Inv) : GivesInv (vInt h f s l op) := i.vValues
theorem vFp (i : s.Inv) : GivesInv (vFp o l n h f s) := i.vRounds
theorem vFpMinMax (i : s.Inv) : GivesInv (vFpMinMax v h f s) := i.vValues
theorem vFpSign (i : s.Inv) : GivesInv (vFpSign v h f s) := i.vValues
theorem kOp {op : Nat → Nat → Nat} (i : s.Inv) : GivesInv (kOp h f s op) := i.syl
theorem vLoadShape (i : s.Inv) : GivesInv (vLoadShape v h f s) := i.syl
theorem vStoreShape (i : s.Inv) : GivesInv (vStoreShape v h f s) := i.syl
theorem qcells {ws : List Nat} {go : Core → Ctx → List CellOut} (i : s.Inv) : GivesInv (qcells h s ws n k go) := i.syl
theorem qmac (i : s.Inv) : GivesInv (qmac v h f s) := i.syl
theorem qaddsub (i : s.Inv) : GivesInv (qaddsub v h f s) := i.qcells
theorem permute {go : Ctx → Nat → Nat → List Nat → List Nat → Nat → Option Nat} (i : s.Inv) : GivesInv (permute h f s r go) := i.syl

theorem execLoopi (i : s.Inv) : GivesInv (execLoopi h g s) := by
  unfold Machine.execLoopi
  split <;> exact i.loopi

theorem execRep (i : s.Inv) : GivesInv (execRep h g s) := by
  unfold Machine.execRep
  split <;> exact i.repeat_

theorem execXshufShape (i : s.Inv) : GivesInv (execXshufShape h f s) := by
  unfold Machine.execXshufShape
  split
  · exact .fault
  · exact i.syl

/-- A slot syllable in its frame: most act on their own context alone, and a row that names no syllable does nothing. -/
theorem runSyllable {r : Instr} (i : s.Inv) : GivesInv (runSyllable r s) := by
  unfold Machine.runSyllable
  cases r
  case rvi => exact i.execRvi
  case rva => exact i.execRva
  case rvw => exact i.execRvw
  case rvaw => exact i.execRvaw
  case phint => exact i.execPhint
  case tend h f => exact i.execTend (g := f)
  case tfail => exact i.execTfail
  case sbind => exact i.execSbind
  case ssync => exact i.execSsync
  case cpy => exact i.execCpy
  case trig => exact i.execTrig
  case loopiImm => exact i.loopi
  case repImm => exact i.repeat_
  case pand | por | pxor | pnot | pmov => exact i.pred
  case add | sub | and | or | xor | sll | srl | sra | mul | mulh | mulhu | div | divu | rem | remu | min | max | minu | maxu | clz | popc | addsc |
    xmv => exact i.alu
  case addi | andi | ori | xori | slli | srli | srai | li | lih => exact i.aluI
  case fadd | fsub | fmul | ffma | fdiv | fsqrt => exact i.fp32
  case fmin | fmax => exact i.fp32MinMax
  case vadd | vsub | vmul | vmulh | vand | vor | vxor | vsll | vsrl | vsra | vmin | vmax | vadds | vsubs => exact i.vInt
  case vfadd | vfsub | vfmul | vffma | vfdiv | vfsqrt | vtadd | vtsub | vtmul | vtfma => exact i.vFp
  case vfmin | vfmax => exact i.vFpMinMax
  case vfabs | vfneg => exact i.vFpSign
  case kand | kor | kxor | knot => exact i.kOp
  case vmov => exact i.vValues
  case vlds | vgath => exact i.vLoadShape
  case vsts | vscat => exact i.vStoreShape
  case qclr | qneg | qred | qmov | qmode => exact i.qcells
  case qmac | qmacn => exact i.qmac
  case qadd | qsub => exact i.qaddsub
  case xscl => exact i.vRounds
  case xshuf | xrev | xrot | xzip | xunz | xbc | xcpr | xexp | xmrg => exact i.permute
  case lput | lputf | lsig | aop | aopn | acas | acasw | aenq | achase | ared | aredFin | crossRel | crossAcq | crossAr | nlaunch | jraise | sealreq
    => exact i.land
  case vainv | vainvAll => exact i.vainv
  case vabs | vbcast | viota | vconj => exact i.vValues
  case vcmp | vfcmp => exact i.vCompare
  case vamul | vnorm => exact i.vRounds
  case loopi => exact i.execLoopi
  case rep => exact i.execRep
  case xshufShape => exact i.execXshufShape
  case br | bri | call | ret | loopb | loopx | nopn | pset | trap | crr | crw | cmp | cmpi | sel | ld | st | fcmp | fcvt | shw | shrd | vred |
    vsel | kpop | vext | vins | vld | vst | aload | aloadPreset | vxmv | qround | qrounds | qld | qst | qtst | xcvt | xpack | xunp | xswz |
    xsps | xdth | trcfg | trw | trc | trclr | trst | mgo | mstep | mwait | mstat | mabort | mzero | mldt | mstt | sunb | ginit | gwf | gwe |
    gadvh | gadvt | gstat | spushc | spopc | sbal | cpyw | cpyq | lwait | lwaitScalar | lset | lsetSub | aliasf | fence | jpost | tsr => exact i.syl
  all_goals exact .next i

end State.Inv
end Sys2Proof.Machine

namespace Sys2Proof.Machine

/-! ### The issue of a bundle -/

/-- The state that the syllables of a bundle have left so far meets the invariant. -/
def TallyInv (o : Host.Outcome Tally Fault Refusal) : Prop := ∀ t, o = .next t → t.s.Inv

theorem TallyInv.next {t : Tally} (i : t.s.Inv) : TallyInv (.next t) := fun _ e => Host.Outcome.next.inj e ▸ i
theorem TallyInv.fault {f : Fault} : TallyInv (.fault f) := nofun
theorem TallyInv.refused {r : Refusal} : TallyInv (.refused r) := nofun

namespace State.Inv

variable {s tried : State} {x : Ctx} {n : Note} {ns : List Note} {f : FaultInfo} {r : Instr} {is : List (Slot × Nat × Instr)}
  {c pc w cause hdr len : Nat}

theorem traceHalt (i : s.Inv) : (traceHalt s c cause).Inv := i.onTrace
theorem traceDump (i : s.Inv) : (traceDump c s).Inv := i.onTrace
theorem traceFreeze (i : s.Inv) : Gives State.Inv (traceFreeze c s) := .ite (.some i.onTrace) .none
theorem tracePcMatch (i : s.Inv) : Gives State.Inv (tracePcMatch c s) := .bind fun _ => .ite (.some i.onTrace) .none
theorem noteOne (i : s.Inv) : (noteOne s c pc n).Inv := i.onTrace

theorem noteStallEnd (i : s.Inv) : (noteStallEnd s c pc).Inv := by
  unfold Machine.noteStallEnd
  split
  · exact i
  · exact i.noteOne.onTrace

theorem noteStallBegin (i : s.Inv) : (noteStallBegin s c pc w).Inv := by
  unfold Machine.noteStallBegin
  split
  · exact i
  · exact i.noteOne.onTrace

theorem noteLandings (i : s.Inv) : (noteLandings s c pc ns).Inv := .ite i (State.Inv.foldl (fun _ _ i => i.noteOne) _ i)

theorem noteIssue {o : Option Nat} (i : s.Inv) : (noteIssue s c x o ns).Inv := by
  unfold Machine.noteIssue
  have fires {t : State} (j : t.Inv) : ((Machine.tracePcMatch c t).getD t).Inv := j.tracePcMatch.getD j
  refine .ite i ?_
  cases o <;> dsimp only <;> split
  · exact fires i.noteLandings.noteOne
  · exact fires i.noteLandings
  · exact fires i.noteOne.noteLandings.noteOne
  · exact fires i.noteOne.noteLandings

theorem boundaryFault (i : s.Inv) : (boundaryFault s c).Inv := by
  unfold Machine.boundaryFault
  split
  · exact i
  · split
    · exact i
    · exact i.setCtx.raise

theorem endBundle (i : s.Inv) : (endBundle s c len).Inv := .boundaryFault (.onCtx (i.of_eq rfl rfl))
theorem stopIssueAt (i : s.Inv) : (stopIssueAt s c x f).Inv := i.setCtx.raise

theorem holdAt (i : s.Inv) : (Machine.holdAt s c x w tried).Inv := by
  unfold Machine.holdAt
  dsimp only
  split
  · exact State.Inv.foldl (fun _ _ i => i.arrive) _ i.setCtx.noteStallBegin
  · exact i.setCtx.noteStallBegin

theorem readied (i : s.Inv) : (readied s c hdr len x is).Inv := .of_eq i.noteStallEnd.onCtx rfl rfl

theorem runOne {t : Tally} (i : t.s.Inv) : TallyInv (runOne c t w r) := by
  unfold Machine.runOne
  split
  · exact .next i
  · cases e : Machine.runSyllable r t.s with
    | fault f => exact .fault
    | refused f => exact .refused
    | next u =>
      have j : u.Inv := i.runSyllable u e
      dsimp only
      split
      · split
        · exact .next j
        · split
          · exact .next j.setCtx
          · exact .next j
      · exact .next j

theorem runAll {t : Tally} (i : t.s.Inv) : TallyInv (runAll c is t) := by
  induction is generalizing t with
  | nil => exact .next i
  | cons e is ih =>
    rw [Machine.runAll]
    cases o : Machine.runOne c t e.2.1 e.2.2 with
    | next u => exact ih (i.runOne u o)
    | fault f => exact .fault
    | refused f => exact .refused

theorem issueBundle (i : s.Inv) : GivesInv (issueBundle c s) := by
  unfold Machine.issueBundle
  split
  · exact .next i
  · next x _ =>
    have landed : (Machine.landDue s c).1.Inv := i.landDue
    dsimp only
    split
    · exact .next i.stopIssueAt
    · next hdr len is _ =>
      cases o : Machine.runAll c (actOrder is) ⟨Machine.readied (Machine.landDue s c).1 c hdr len x is, none, none, none⟩ with
      | fault f => exact .fault
      | refused f => exact .refused
      | next t =>
        have j : t.s.Inv := runAll (t := ⟨_, none, none, none⟩) landed.readied t o
        dsimp only
        split
        · exact .next i.stopIssueAt
        · split
          · exact .next i.holdAt
          · exact .next j.noteIssue.endBundle

theorem issueNop (i : s.Inv) : (issueNop c s).Inv := by
  unfold Machine.issueNop
  split
  · exact i
  · exact .endBundle (.noteLandings (.onCtx i.landDue))

theorem drainEnded (i : s.Inv) : (drainEnded c s).Inv := by
  unfold Machine.drainEnded
  split
  · exact i
  · exact .ite (.boundaryFault (.onCtx (.noteLandings i.landDue))) i

theorem issue (i : s.Inv) : GivesInv (issue c s) := by
  unfold Machine.issue
  split
  · exact .next i
  · exact .ite (.next i.drainEnded) (.ite (.ite i.issueBundle (.next i.issueNop)) (.next i))

theorem execStallEnd (i : s.Inv) : GivesInv (execStallEnd c s) := by
  unfold Machine.execStallEnd
  split
  · exact .next i
  · exact .ite i.issueBundle (.next i)

theorem execEmptyBundle (i : s.Inv) : GivesInv (execEmptyBundle s) := by
  unfold Machine.execEmptyBundle
  split
  · exact .next i
  · exact .next (.endBundle (.noteIssue i.landDue))

theorem execCellLanding (i : s.Inv) : GivesInv (execCellLanding c s) := by
  unfold Machine.execCellLanding
  split
  · exact .next i
  · exact .next (i.setCore (landCell_wf (i.pad c)))

theorem rendezvousArrival {p t k : Nat} (i : s.Inv) : Gives State.Inv (rendezvousArrival p t k s) :=
  .bind fun _ => .bind fun _ => .bind fun _ => .ite .none (.some i.released.onTeam.countArrival)

end State.Inv
end Sys2Proof.Machine

namespace Sys2Proof.Machine.State.Inv

variable {s : State} {c d j k l m n p t va cause r time : Nat} {x : Ctx} {w : Waiter} {st : Stream}

/-! ### Streams, rings and snapshot windows -/

theorem sbalRun (i : s.Inv) : Gives State.Inv (sbalRun p t s) := by
  refine .bind fun _ => .bind fun _ => .ite .none (.ite (.ite .none (.some ?_)) (.some ?_))
  · exact State.Inv.foldl (fun _ _ i => i.faultOnce.getD i) _ i
  · exact .onTeam (State.Inv.foldl (fun _ _ i => i.released.onCtx) _ i)

theorem landShare {e : Share} (i : s.Inv) : (landShare r time s e).Inv := by
  unfold Machine.landShare
  split
  · exact i
  · refine .bump (.acquire (.onCtx (i.setCore ?_)))
    exact List.foldlRecOn (motive := fun k : Core => Memory.wf k.mem = true) _ _ (i.pad _) fun _ w _ _ => engineWrite_wf w

theorem sbalComplete (i : s.Inv) : Gives State.Inv (sbalComplete p t s) :=
  .bind fun _ => .bind fun _ => .ite (.some (.onTeam (State.Inv.foldl (fun _ _ i => i.landShare) _ i))) .none

theorem streamFault (i : s.Inv) : Gives State.Inv (streamFault s c j x st cause va) := .ite .none i.faultOnce

theorem wantElem (i : s.Inv) : (wantElem c j s n).Inv := by
  unfold Machine.wantElem
  split
  · exact i
  · split
    · exact i
    · have asked {p a : Nat} : (Machine.reach s (.stream c j) (dieOf c) p .read false a).1.Inv := i.reach
      refine .ite ?_ (.ite i (i.streamFault.getD i))
      dsimp only
      split
      · exact asked
      · exact asked.streamFault.getD asked
      · exact .ite asked (.ite asked (.of_eq asked rfl rfl))

theorem streamAsk (i : s.Inv) : (streamAsk c s j).Inv := by
  have want {t : State} {l : List Nat} (i : t.Inv) : (l.foldl (Machine.wantElem c j) t).Inv := State.Inv.foldl (fun _ _ i => i.wantElem) _ i
  unfold Machine.streamAsk
  split
  · exact i
  · split
    · exact i
    · exact .ite i (.ite (.ite i (i.streamFault.getD i)) (.ite (.ite i (.ite (.ite i.setCtx i) (want (.ite i.setCtx i)))) (want i)))

theorem snapFill {once : Bool} {e : SnapLine} (i : s.Inv) : (snapFill s c j once e).Inv :=
  .ite i.onCtx (.ite (i.setCore (i.pad c)) (.onCtx (i.setCore (i.pad c))))

theorem homeLineRead (i : s.Inv) : Gives State.Inv (homeLineRead k s) := by
  refine .bind fun q => ?_
  dsimp only
  have taken {n : Nat} : State.Inv { s with fabric := dropAt s.fabric k, free := n } := i.of_eq rfl rfl
  split
  · split
    · exact .some taken
    · refine .ite .none (.ite i.pathFault (.ite .none (.ite i.packetFault ?_)))
      split
      · exact i.packetFault
      · split
        · exact .some taken.flit.snapFill.onCtx
        · exact .some taken.snapFill.onCtx
  · split
    · exact .ite .none (.some taken.replyTo)
    · exact .none
  · exact .none

theorem portEntryArrival (i : s.Inv) : Gives State.Inv (portEntryArrival c j s) :=
  .bind fun _ => .bind fun _ => .ite .none (.bind fun _ => .some i.setCtx.dropGrants)

theorem settleStream (i : s.Inv) : (settleStream s c j).Inv := by
  unfold Machine.settleStream
  split
  · exact i
  · split
    · exact i
    · exact .ite (.onCtx (.ite i.released i)) (.ite i.released i)

theorem ringSlotCommit (i : s.Inv) : Gives State.Inv (ringSlotCommit c j s) :=
  .bind fun _ => .bind fun _ => .ite .none (.bind fun _ => .bind fun _ => .some i.engineWrite.setCtx.dropGrants.settleStream)

theorem askList {as : List (Nat × Nat)} (i : s.Inv) : FstInv (askList s w d p as) := by
  induction as generalizing s with
  | nil => exact i
  | cons a as ih =>
    have looked : (Machine.lookupFor s w d p (a.2 / 4096)).1.Inv := i.lookupFor
    unfold Machine.askList
    refine .ite (ih i) ?_
    dsimp only
    split
    · exact looked
    · exact ih looked

theorem askAll {v : View} {is : List Nat} (i : s.Inv) : FstInv (askAll s w d p v m is) := i.askList

theorem sendStream {es : List (Nat × Nat)} (i : s.Inv) : Gives FstInv (sendStream s c j x st es) := by
  unfold Machine.sendStream
  have fails {t : State} {cause va : Nat} (i : t.Inv) : Gives FstInv (if st.pos = st.sent then
      (Machine.streamFault t c j x st cause va).map fun s => (s, 0, 0) else some (t, 0, 0)) :=
    .ite (.map i.streamFault fun _ i => i) (.some i)
  have put {t : State} {ws : List LineWrite} {g : State → LineWrite → List Packet} (i : t.Inv) :
      (ws.foldl (fun s w => { s.setCore c (updateWindow (s.core c) x.part w) with fabric := g s w }) t).Inv := by
    refine State.Inv.foldl (fun _ _ i => ?_) _ i
    exact .of_eq (i.setCore (updateWindow_wf (i.pad c))) rfl rfl
  have asked : (Machine.askAll s (.stream c j) (dieOf c) x.part st.view (2 ^ 64) (es.map Prod.fst)).1.Inv := i.askAll
  refine .ite ?_ (.ite (fails i) (.some ?_))
  · dsimp only
    split
    · exact .some asked
    · exact .ite (fails asked) (.some (put asked))
    · split
      · exact fails asked
      · exact .some (put asked)
  · refine i.setCore ?_
    refine List.foldlRecOn (motive := fun k : Core => Memory.wf k.mem = true) _ _ (i.pad _) fun _ w _ _ => ?_
    exact List.foldlRecOn (motive := fun k : Core => Memory.wf k.mem = true) _ _ w fun _ w _ _ => engineWrite_wf w

theorem sendOut (i : s.Inv) : Gives State.Inv (sendOut s c j x st) := by
  unfold Machine.sendOut
  split
  · exact .ite .none (.map i.sendStream fun _ i => .ite (.onCtx i) (.settleStream (.onCtx i)))
  · exact .none

theorem sendDrain (i : s.Inv) : Gives State.Inv (sendDrain s c j x st) :=
  .ite .none (.ite .none (.ite .none (.map i.sendStream fun _ i => .ite (.onCtx i) (.settleStream (.onCtx i)))))

theorem streamTurn (i : s.Inv) : (streamTurn c s j).Inv := by
  unfold Machine.streamTurn
  split
  · exact i
  · split
    · exact i
    · refine .ite i ?_
      split
      · exact i.sendOut.getD i
      · exact i.streamAsk.sendDrain.getD i.streamAsk
      · exact i
      · exact i.streamAsk

theorem streamWritePerformed (i : s.Inv) : Gives State.Inv (streamWritePerformed c j s) :=
  .bind fun _ => .bind fun _ => .ite .none (.some i.setCtx.dropGrants.settleStream)

theorem ringSlotFree (i : s.Inv) : Gives State.Inv (ringSlotFree c j s) :=
  .bind fun _ => .bind fun _ => .ite .none (.ite (.some i.setCtx.settleStream) .none)

end Sys2Proof.Machine.State.Inv

namespace Sys2Proof.Machine.State.Inv

variable {s : State} {b c d m n t u va cause : Nat} {k : Copy} {e : Burst} {es : List (Nat × Nat)} {is : List Nat} {w : Waiter}

/-! ### Copy engines -/

theorem meetAt (i : s.Inv) : (s.meetAt b u n cause va).Inv := by
  unfold State.meetAt
  split
  · exact i
  · dsimp only
    split
    · exact .ite i.onCopy.engineFault i.onCopy
    · exact i.onCopy

theorem meet (i : s.Inv) : (s.meet k e n cause va).Inv := i.meetAt
theorem copyFault (i : s.Inv) : (copyFault s k u cause va).Inv := i.raise.onCopy

theorem askSide {f : Side} (i : s.Inv) : FstInv (askSide s k is f) := by
  cases f
  · exact .ite i.askAll i
  · exact i

theorem askSides (i : s.Inv) : FstInv (askSides s k is) := askSide (askSide i)

theorem handOut (i : s.Inv) : (handOut m n s).Inv := by
  induction n generalizing s with
  | zero => exact i
  | succ n ih =>
    unfold Machine.handOut
    split
    · exact i
    · refine .ite i ?_
      split
      · exact i
      · exact ih i.onCopy

theorem sendLine {w : LineWrite} (i : s.Inv) : (sendLine k s w).Inv := by
  unfold Machine.sendLine
  split
  · exact i.padWrite
  · exact i.of_eq rfl rfl

theorem writeElems (i : s.Inv) : (writeElems s k es).Inv := by
  unfold Machine.writeElems
  split
  · split
    · exact i
    · exact State.Inv.foldl (fun _ _ i => State.Inv.foldl (fun _ _ i => i.padWrite) _ i) _ i
  · exact i
  · split
    · split
      · exact State.Inv.foldl (fun _ _ i => i.padWrite) _ i
      · exact i
    · split
      · exact State.Inv.foldl (fun _ _ i => i.sendLine) _ i
      · exact i

theorem reserveFor (i : s.Inv) : (reserveFor s k n).Inv := by
  unfold Machine.reserveFor
  split
  · exact i.onCtx
  · exact i

theorem copyFlits (i : s.Inv) : (copyFlits s k is).Inv := by
  unfold Machine.copyFlits
  split
  · exact i
  · exact State.Inv.foldl (fun _ _ i => i.flit) _ i

theorem readsFor (i : s.Inv) : (readsFor s k).Inv := by
  unfold Machine.readsFor
  split
  · exact .ite i.onCtx i
  · exact i

theorem burstTurn (i : s.Inv) : (burstTurn s k e).Inv := by
  unfold Machine.burstTurn
  have asked {is : List Nat} : (Machine.askSides s k is).1.Inv := i.askSides
  refine .ite i ?_
  dsimp only
  split
  · exact asked.meet
  · split
    · exact asked
    · exact asked.meet
    · refine .ite asked.onCopy (.ite asked (.ite asked ?_))
      split
      · exact .meet (.of_eq asked rfl rfl)
      · split
        · exact asked
        · exact .onCopy (.readsFor (.writeElems (.reserveFor (.copyFlits (.of_eq asked rfl rfl)))))

theorem copySlots (i : s.Inv) : (copySlots s k n).Inv := by
  unfold Machine.copySlots
  split
  · split
    · exact i
    · refine .ite i ?_
      dsimp only
      split
      · exact i.onCopy.onCtx
      · exact .onCtx (.ite (State.Inv.foldl (fun _ _ i => i.padWrite) _ i.onCopy) i.onCopy)
  · exact i

theorem rtLook (i : s.Inv) : FstInv (rtLook s k) := i.askList

theorem bursts (i : s.Inv) : (copyTurn.bursts s k).Inv := by
  unfold Machine.copyTurn.bursts
  have turn (t : State) (lo : Nat) (i : t.Inv) : (match t.copy k.id with
      | some k => match k.bursts.find? fun c : Burst => c.lo == lo with
        | some b => Machine.burstTurn t k b
        | none => t
      | none => t).Inv := by
    split
    · split
      · exact i.burstTurn
      · exact i
    · exact i
  dsimp only
  split
  · exact .ite (.copySlots (State.Inv.foldl turn _ i.handOut)) (State.Inv.foldl turn _ i.handOut)
  · exact State.Inv.foldl turn _ i.handOut

theorem copyTurn (i : s.Inv) : (copyTurn s n).Inv := by
  unfold Machine.copyTurn
  split
  · exact i
  · have looked {k : Copy} {t : State} {r : RtLook} (e : Machine.rtLook s k = (t, r)) : t.Inv := by
      have := i.rtLook (k := k)
      rwa [e] at this
    refine .ite i ?_
    split
    · exact .ite i.copyFault i.bursts
    · refine .ite i.bursts (.ite i.copyFault (.ite ?_ i.bursts))
      split
      · next e => exact looked e
      · next e => exact (looked e).copyFault
      · next e => exact (looked e).bursts

theorem gatherPacket (i : s.Inv) : Gives State.Inv (gatherPacket n t s) := by
  refine .bind fun _ => .bind fun _ => .bind fun _ => .bind fun _ => ?_
  dsimp only
  split
  · exact .none
  · refine .ite .none (.ite .none (.some ?_))
    split
    · exact i.onCopy.readsFor.meetAt
    · exact i.onCopy.readsFor

theorem copyOver (i : s.Inv) : (copyOver s k).Inv := .forget (i.of_eq rfl rfl)

theorem finishCpy {ln : Option Nat} (i : s.Inv) : (finishCpy s k c t ln b).Inv := by
  unfold Machine.finishCpy
  have released : (if k.rel then s.released c k.scope else s).Inv := .ite i.released i
  dsimp only
  split
  · exact released.onCtx.bump.onCtx.copyOver
  · exact released.bump.onCtx.copyOver
  · exact released.onCtx.copyOver

theorem completeCpy (i : s.Inv) : Gives State.Inv (completeCpy s k) := by
  refine .ite .none ?_
  split
  · exact .none
  · refine .ite (.some i.finishCpy) ?_
    split
    · exact .none
    · exact .ite (.some i.finishCpy) (.some i.onCopy)

theorem copyBurstDone (i : s.Inv) : Gives State.Inv (copyBurstDone n s) := by
  refine .bind fun _ => .ite .none ?_
  split
  · refine .bind fun _ => .bind fun _ => ?_
    have slots {m : SMap Nat} {g : Copy → Copy} {a b : Nat} {d : Copy} : (Machine.copySlots { s.onCopy a g with engFree := m } d b).Inv :=
      .copySlots (i.of_eq rfl rfl)
    exact .ite (.some (Gives.getD slots.completeCpy slots)) (.some slots)
  · exact .ite i.completeCpy .none

theorem copyRtRetry (i : s.Inv) : Gives State.Inv (copyRtRetry n s) := by
  refine .bind fun _ => .bind fun _ => ?_
  split
  · exact .none
  · refine .ite .none ?_
    split
    · exact .none
    · exact .ite (.some i.finishCpy) (.ite (.some i.copyFault) .none)

theorem dropBursts {g : Copy → Burst → Bool} (i : s.Inv) : (dropBursts s g).Inv := i.of_eq rfl rfl
theorem resumeCopies {g : Copy → Bool} (i : s.Inv) : (resumeCopies s g).Inv := i.of_eq rfl rfl
theorem gatherError (i : s.Inv) : (gatherError s k e n m).Inv := i.onCopy.meetAt

end Sys2Proof.Machine.State.Inv

namespace Sys2Proof.Machine.State.Inv

variable {s : State} {b c h j k l m n p t u v va cause pa cell fmt mode job detail : Nat} {x : Ctx} {q : LCmd} {o : Origin} {y : Packet}
  {bs : List Byte} {z : Word} {r : Req} {is : List (Dest × Body)}

/-! ### What a home and the dispatch engine perform -/

theorem givesHomeStore (i : s.Inv) : Gives State.Inv (s.homeStore p u pa bs) := fun _ => i.homeStore

theorem applyAop (i : s.Inv) : Gives FstInv (applyAop s p u pa m n v) := .ite (.some i) (.map i.givesHomeStore fun _ i => i)
theorem applyCas (i : s.Inv) : Gives FstInv (applyCas s p u pa n m v) := .ite (.map i.givesHomeStore fun _ i => i) (.some i)
theorem applyCasw {cs : List Byte} (i : s.Inv) : Gives FstInv (applyCasw s p u pa n cs bs) :=
  .ite (.map i.givesHomeStore fun _ i => i) (.some i)

theorem applyEnq (i : s.Inv) : Gives FstInv (applyEnq s p u pa z) := by
  unfold Machine.applyEnq
  exact .ite (.some i) (.ite (.some i) (.map (.andThen i.givesHomeStore fun _ i => i.givesHomeStore) fun _ i => i))

theorem crucibleAdd (i : s.Inv) : Gives State.Inv (crucibleAdd s p k fmt cell z) := .map i.logCell fun _ i => i.onStack.wroteIn

theorem crucibleFin (i : s.Inv) : Gives State.Inv (crucibleFin s p u k pa fmt mode cell) :=
  .map (.andThen i.logCell fun _ i => i.givesHomeStore) fun _ i => i.onStack

theorem dispatchWrite (i : s.Inv) : (dispatchWrite s p o va bs detail job).Inv := by
  unfold Machine.dispatchWrite
  split
  · exact i.of_eq rfl rfl
  · exact i.raise

theorem applyRaise (i : s.Inv) : Gives FstInv (applyRaise s p u pa z) :=
  .ite (.some i) (.ite (.some i) (.map i.givesHomeStore fun _ i => i))

theorem notifyWrite (i : s.Inv) : (notifyWrite s p n va detail job).Inv := by
  unfold Machine.notifyWrite
  dsimp only
  split
  · exact i.dispatchWrite
  · exact .of_eq i.dispatchWrite rfl rfl

theorem applyPost (i : s.Inv) : Gives FstInv (applyPost s p u pa va z job detail) :=
  .map i.givesHomeStore fun _ i => State.Inv.ite i.notifyWrite i

/-! ### The landing engine -/

theorem crossPerformed (i : s.Inv) : Gives State.Inv (crossPerformed c s) := by
  refine .bind fun _ => .bind fun _ => .ite .none ?_
  dsimp only
  split
  · exact .ite .none (.some (.ite (.acquireCross (.ite i.onCtx.released i.onCtx)) (.ite i.onCtx.released i.onCtx)))
  · exact .ite .none (.some i.onCtx.dropLines)
  · exact .none

theorem completeCmd (i : s.Inv) : (completeCmd s c q).Inv := by
  unfold Machine.completeCmd
  dsimp only
  split
  · exact i.onCtx.forget.bump
  · exact i.onCtx.forget

theorem onCmd {g : LCmd → LCmd} (i : s.Inv) : (onCmd s c n g).Inv := i.onCtx
theorem cmdFault (i : s.Inv) : (cmdFault s c x q u cause va).Inv := i.engineFault.onCmd
theorem takeSeq (i : s.Inv) : (takeSeq s c q).Inv := .onCmd (i.setCore (i.pad c))
theorem sendReq (i : s.Inv) : (sendReq s c x q m is).Inv := .takeSeq (i.of_eq rfl rfl)
theorem sendHeld {bs : List MByte} (i : s.Inv) : (sendHeld s c x q b m va bs).Inv := .takeSeq (i.of_eq rfl rfl)

theorem holdFlag {ps : List Packet} (i : s.Inv) : (holdFlag s c x q b ps va v).Inv := by
  unfold Machine.holdFlag
  split
  · exact i.of_eq rfl rfl
  · exact i.engineFault
  · exact i.engineFault

theorem sendAway {body : Body} (i : s.Inv) : Gives State.Inv (sendAway s c x q m body bs) := by
  unfold Machine.sendAway
  split
  · exact .some i.cmdFault
  · refine .ite (.some ?_) (.ite (.some i.sendReq.entered) (.some i.waitAt))
    split
    · exact i.sendHeld.holdFlag
    · exact i.sendHeld

theorem sendTo {ps : Dest → List (Dest × Body)} {whole : Body} (i : s.Inv) : Gives State.Inv (sendTo s c x q t ps whole bs) :=
  .ite (.ite (.some i.sendReq) (.some i.cmdFault)) i.sendAway

theorem sendAtomic {kind : Access} {body : Nat → Body} (i : s.Inv) : Gives State.Inv (sendAtomic s c x q va kind body) := by
  unfold Machine.sendAtomic
  have asked : (Machine.reach s (.land c q.tag) (dieOf c) x.part kind false va).1.Inv := i.reach
  dsimp only
  split
  · exact .some asked
  · exact .some asked.cmdFault
  · split
    · exact .ite (.some asked.dropLines.cmdFault) (.some asked.dropLines.sendReq)
    · exact .ite (.some asked.dropLines.sendHeld) (.ite (.some asked.dropLines.sendReq.entered) (.some asked.dropLines.waitAt))
    · exact .some asked.dropLines.cmdFault

theorem sendCmd (i : s.Inv) : Gives State.Inv (sendCmd s c x q) := by
  refine .ite .none ?_
  split
  · exact i.sendTo
  · exact i.sendTo
  any_goals exact i.sendAtomic
  · exact .ite (.some i.cmdFault) i.sendAtomic
  · exact .ite (.some i.cmdFault) i.sendAtomic
  · exact .ite (.some i.cmdFault) (.some i.released.sendReq)
  · exact .some i.requestSeal.completeCmd
  · exact .none
  · exact .none

theorem finishHeld (i : s.Inv) : (finishHeld s c x).Inv := by
  unfold Machine.finishHeld
  split
  · exact i
  · refine .completeCmd ?_
    split
    · exact .of_eq i.engineWrite rfl rfl
    · exact i

theorem landTurn (i : s.Inv) : (landTurn s c).Inv := by
  unfold Machine.landTurn
  split
  · exact i
  · next x _ =>
    have held : (if s.works x.part (unitLanding c) then Machine.finishHeld s c x else s).Inv := .ite i.finishHeld i
    refine .ite held ?_
    split
    · exact .ite held (Gives.getD (.sendCmd (.ite held.released held)) (.ite held.released held))
    · exact held

theorem coreEngines (i : s.Inv) : (coreEngines c s).Inv := State.Inv.foldl (fun _ _ i => i.streamTurn) _ i.landTurn

/-! ### Arrivals and replies -/

theorem arriveAt {go : State → Option (State × Reply)} (i : s.Inv) (g : ∀ t, t.Inv → Gives FstInv (go t)) :
    Gives State.Inv (arriveAt s k y n go) := by
  have taken : State.Inv { s with fabric := dropAt s.fabric k } := i.of_eq rfl rfl
  refine .ite .none ?_
  split
  · exact .some taken.replyTo
  · exact .ite (.some taken.replyTo) (.map (g _ taken) fun _ i => .replyTo (.ite i (.record i)))

theorem atHome {go : State → Option (State × Reply)} (i : s.Inv) (g : ∀ t, t.Inv → Gives FstInv (go t)) :
    Gives State.Inv (atHome s k y h pa va go) := i.arriveAt fun _ i => .ite (.some i) (g _ i)

theorem atomicApply (i : s.Inv) : Gives State.Inv (atomicApply k s) := by
  refine .bind fun _ => ?_
  dsimp only
  split
  · exact i.atHome fun _ i => .map i.applyAop fun _ i => i
  · exact i.atHome fun _ i => .map i.applyCas fun _ i => i
  · exact .none

theorem operationPacket (i : s.Inv) : Gives State.Inv (operationPacket k s) := by
  refine .bind fun _ => ?_
  dsimp only
  split
  · exact i.atHome fun _ i => .map i.applyCasw fun _ i => i
  · exact i.atHome fun _ i => .ite (.some i) (.map i.applyEnq fun _ i => i)
  · exact .none

theorem crucibleAddStep (i : s.Inv) : Gives State.Inv (crucibleAddStep k s) := by
  refine .bind fun _ => ?_
  dsimp only
  split
  · exact i.arriveAt fun _ i => .ite (.map i.crucibleAdd fun _ i => i) (.some i)
  · exact .none

theorem crucibleFinStep (i : s.Inv) : Gives State.Inv (crucibleFinStep k s) := by
  refine .bind fun _ => ?_
  dsimp only
  split
  · exact i.atHome fun _ i => .ite (.map i.crucibleFin fun _ i => i) (.some i)
  · exact .none

theorem jcbRaiseApply (i : s.Inv) : Gives State.Inv (jcbRaiseApply k s) := by
  refine .bind fun _ => ?_
  dsimp only
  split
  · exact i.atHome fun _ i => .map i.applyRaise fun _ i => i
  · exact .none

theorem jcbPostApply (i : s.Inv) : Gives State.Inv (jcbPostApply k s) := by
  refine .bind fun _ => ?_
  dsimp only
  split
  · exact i.atHome fun _ i => .map i.applyPost fun _ i => i
  · exact .none

theorem achaseHop (i : s.Inv) : Gives State.Inv (achaseHop k s) := by
  have answers {q : Packet} {n : Nat} {g : State → Reply} : Gives State.Inv (Machine.arriveAt s k q n fun s => some (s, g s)) :=
    i.arriveAt fun _ i => .some i
  refine .bind fun _ => ?_
  dsimp only
  split
  · refine .ite .none (.ite answers (.ite answers (.ite answers (.ite answers (.ite answers (.ite answers ?_))))))
    split
    · split
      · exact .some (i.of_eq rfl rfl)
      · exact answers
    · exact answers
    · exact answers
  · exact .none

theorem observe (i : s.Inv) : (observe s y c n).Inv := i.onCtx.bump

/-- A put's flag write joins the fabric, where its address allows it. -/
theorem sendFlag {t : State} (i : s.Inv) (e : sendFlag s y c va v = .inl t) : t.Inv := by
  unfold Machine.sendFlag at e
  split at e <;> split at e <;> cases e
  all_goals exact i.of_eq rfl rfl

theorem putDone {ring flag : Option (Nat × Nat)} (i : s.Inv) : FstInv (putDone s y c l m ring flag) := by
  unfold Machine.putDone
  have answer {t : State} (j : t.Inv) : FstInv (match flag with
      | none => (t, Reply.done)
      | some (va, v) => match Machine.sendFlag t y c va v with
        | .inl u => (u, .done)
        | .inr cause => (t, .excess cause va 10)) := by
    split
    · exact j
    · split
      · next e => exact j.sendFlag e
      · exact j
  refine answer (.of_eq (.observe ?_) rfl rfl)
  split
  · split
    · exact i.engineWrite.onCtx
    · exact i
  · exact i

theorem putPacketArrival (i : s.Inv) : Gives State.Inv (putPacketArrival k s) := by
  refine .bind fun q => ?_
  have taken : State.Inv { s with fabric := dropAt s.fabric k } := i.of_eq rfl rfl
  dsimp only
  split
  · refine .ite .none (.ite (.ite (i.arriveAt fun _ i => .some i) (.some taken))
      (.ite (.some (.ite taken.replyTo taken)) (.bind fun x => .ite (.some (.ite taken.record.replyTo taken))
        (.ite (.some (.ite taken.replyTo taken)) (.ite .none (.ite (.some (.replyTo (.record (putDone ?_)))) (.some (.of_eq ?_ rfl rfl))))))))
    all_goals exact .engineWrite (.ite taken.onCtx taken)
  · exact .none

theorem lsigArrival (i : s.Inv) : Gives State.Inv (lsigArrival k s) := by
  refine .bind fun _ => ?_
  split
  · exact i.arriveAt fun _ i => .ite (.some i.observe) (.some i)
  · exact .none

theorem dropReq (i : s.Inv) : (dropReq s r).Inv := .ite (i.of_eq rfl rfl) (i.of_eq rfl rfl)

theorem takeReply {a : Reply} {put : Bool} (i : s.Inv) : Gives State.Inv (takeReply s k y a put) := by
  unfold Machine.takeReply
  have taken : State.Inv { s with fabric := dropAt s.fabric k } := i.of_eq rfl rfl
  dsimp only
  split
  · split
    · exact .some taken.dropReq
    · refine .ite .none (.ite (.some taken) ?_)
      split
      · exact .some taken.dropReq.completeCmd
      · refine .some (.completeCmd (.onCtx (.dropReq ?_)))
        split
        · exact taken.engineWrite
        · exact taken
      · exact .some (taken.of_eq rfl rfl)
      · exact .some taken.dropReq.cmdFault
      · exact .some taken.dropReq.engineFault.completeCmd
  · exact .some taken

theorem remoteStep {put : Bool} (i : s.Inv) : Gives State.Inv (remoteStep s k b y put) := by
  have taken : State.Inv { s.flit b with free := s.free + 2 } := i.of_eq rfl rfl
  refine .ite .none ?_
  dsimp only
  split
  · split
    · next e => exact (taken.sendFlag e).takeReply
    · exact taken.takeReply
  · exact taken.takeReply

theorem replyStep {put : Bool} (i : s.Inv) : Gives State.Inv (replyStep k put s) := by
  refine .bind fun _ => ?_
  split
  · exact i.takeReply
  · exact .ite .none (.ite (.some (i.of_eq rfl rfl)) (.ite (.some (i.of_eq rfl rfl)) .none))
  · exact .none
  · exact .none
  · exact .none
  · exact i.remoteStep
  · exact .none

theorem putAck (i : s.Inv) : Gives State.Inv (putAck k s) := i.replyStep
theorem atomicReply (i : s.Inv) : Gives State.Inv (atomicReply k s) := i.replyStep

theorem sourceRelease (i : s.Inv) : Gives State.Inv (sourceRelease k s) := by
  refine .bind fun _ => ?_
  split
  · exact .ite .none (.some (i.of_eq rfl rfl))
  · exact .none

theorem endToEndRetry (i : s.Inv) : Gives State.Inv (endToEndRetry k s) := .bind fun _ => .ite (.some (i.of_eq rfl rfl)) .none
theorem refusalRetry (i : s.Inv) : Gives State.Inv (refusalRetry k s) := .bind fun _ => .bind fun _ => .ite (.some (i.of_eq rfl rfl)) .none

/-! ### Lost modules and timeouts -/

theorem giveUp (i : s.Inv) : (giveUp s r).Inv := .dropReq (i.of_eq rfl rfl)

theorem peerLoss (i : s.Inv) : (peerLoss s p m).Inv :=
  .ite i.engineFault (State.Inv.foldl (fun _ _ i => .ite i.engineFault.onPart.onPart.msi i.engineFault.onPart) _ (i.of_eq rfl rfl))

theorem tellLost (i : s.Inv) : (tellLost s c m).Inv := i.onCtx

theorem readLost {a : Copy} {e : Burst} (i : s.Inv) : (readLost s a e m).Inv := by
  have got {g : Copy → Copy} : ({ s with free := s.free + 1 }.onCopy a.id g).Inv := i.of_eq rfl rfl
  unfold Machine.readLost
  split
  · exact i
  · refine .ite i ?_
    dsimp only
    split
    · exact got.tellLost
    · exact got

theorem packetLost (i : s.Inv) : (packetLost m s y).Inv := by
  unfold Machine.packetLost
  split
  · exact .tellLost (.snapFill (i.of_eq rfl rfl))
  · exact i.tellLost
  · exact i.tellLost
  · split
    · exact i.tellLost
    · exact i
  · exact i

theorem loseModule (i : s.Inv) : (loseModule s p m).Inv := by
  unfold Machine.loseModule
  dsimp only
  refine State.Inv.foldl (fun _ _ i => i.peerLoss) _ ?_
  refine State.Inv.foldl (fun _ _ i => .ite i (State.Inv.foldl (fun _ _ i => i.readLost) _ i)) _ ?_
  refine State.Inv.foldl (fun _ _ i => i.packetLost) _ (.of_eq (State.Inv.foldl (fun _ _ i => ?_) _ i) rfl rfl)
  split
  · exact i.giveUp
  · exact i.giveUp.completeCmd.tellLost

theorem fabricTimeout (i : s.Inv) : Gives State.Inv (fabricTimeout k s) :=
  .bind fun _ => .bind fun _ => .bind fun _ =>
    .ite .none (.ite (.some i.giveUp.cmdFault) (.ite (.some i.giveUp.cmdFault) (.some i.loseModule)))

theorem noteWaits (i : s.Inv) : (noteWaits s).Inv := .ite (i.of_eq rfl rfl) i

end Sys2Proof.Machine.State.Inv

namespace Sys2Proof.Machine.State.Inv

variable {s : State} {b c d e f h k n p q t u v x y va cause : Nat} {o : Origin} {a : Packet} {r : Copy} {bs : List Byte} {z : Word} {w : ANest}

/-! ### Invalidations and the matrix engine -/

theorem reloadRanges (i : s.Inv) : (reloadRanges s d p).Inv := i.setXlat

theorem dropDie {v : Inval} (i : s.Inv) : (dropDie s d v).Inv :=
  State.Inv.foldl (fun _ _ i => i.dropLines) _ (i.of_eq rfl rfl)

theorem dieInvalidate (i : s.Inv) : Gives State.Inv (dieInvalidate k d s) := by
  unfold Machine.dieInvalidate
  refine .bind fun v => .ite .none ?_
  extract_lets t gone
  have kept : t.Inv := by
    unfold t
    split
    · exact .ite i i.released
    · exact i
  have dropped : gone.Inv := kept.dropDie
  clear_value gone
  exact .some (dropped.of_eq rfl rfl)

theorem invalidateAck (i : s.Inv) : Gives State.Inv (invalidateAck k d s) :=
  .bind fun _ => .ite .none (.ite (.some (.onPart (i.of_eq rfl rfl))) (.some (i.of_eq rfl rfl)))

theorem vainvComplete (i : s.Inv) : Gives State.Inv (vainvComplete k s) := by
  have gone : State.Inv { s with invals := dropAt s.invals k } := i.of_eq rfl rfl
  refine .bind fun _ => .bind fun _ => .ite .none ?_
  dsimp only
  split
  · exact .some gone
  · refine .ite (.some gone) (.some (.bump (.onCtx ?_)))
    split
    · exact gone.engineWrite
    · exact gone

theorem tinvGo (i : s.Inv) : (tinvGo p s).Inv := .ite i (.ite i.onPart (i.of_eq rfl rfl))

theorem resetXlat (i : s.Inv) : (resetXlat s d).Inv :=
  .of_eq (State.Inv.foldl (fun _ _ i => i.onPart) _ (State.Inv.foldl (fun _ _ i => .ite i.onPart i) _ i)) rfl rfl

theorem mgoNestStart (i : s.Inv) : Gives State.Inv (mgoNestStart c s) := by
  refine .bind fun _ => .bind fun _ => .ite ?_ .none
  split
  · exact .some i.setCtx.engineFault
  · exact .some i.setCtx

theorem kstepStart (i : s.Inv) : Gives State.Inv (kstepStart c s) :=
  .bind fun _ => .bind fun _ => .ite (.ite (.ite (.some i.setCtx) .none) (.ite .none (.some i.setCtx))) .none

theorem kstepRetire (i : s.Inv) : Gives State.Inv (kstepRetire c s) := by
  have settled {l : List CellOut} : Memory.wf (l.foldl (fun k o => settleCell k o.write) (s.core c)).mem = true :=
    List.foldlRecOn (motive := fun k : Core => Memory.wf k.mem = true) _ _ (i.pad c) fun _ w _ _ => settleCell_wf w
  unfold Machine.kstepRetire
  refine .bind fun x => .bind fun n => .bind fun o => .ite ?_ .none
  extract_lets i t first last k outs k marked fl qfl ovf n n freed ctl x next
  have kept : next.Inv := State.Inv.setCore ‹_› settled
  clear_value ovf next
  split
  · exact .some kept.raise
  · exact .some kept

/-! ### Traces, converters and berths -/

theorem dumpByte {e : Byte × Nat} (i : s.Inv) : (dumpByte s e).Inv := by
  unfold Machine.dumpByte
  split
  · exact ⟨SMap.put_wf i.1, i.2⟩
  · exact i.engineWrite
  · exact i

theorem traceDumpComplete (i : s.Inv) : Gives State.Inv (traceDumpComplete c s) :=
  .ite (.some (.onTrace (State.Inv.foldl (fun _ _ i => i.dumpByte) _ i))) .none

theorem mtset (i : s.Inv) : (mtset z s).Inv := i.of_eq rfl rfl
theorem bbclr (i : s.Inv) : (bbclr z s).Inv := i.of_eq rfl rfl

theorem cvctlGo (i : s.Inv) : (cvctlGo k z s).Inv := .ite i.onStack (.ite i.onStack.onStack i.onStack.onStack)
theorem convertOne (i : s.Inv) : (convertOne k s n).Inv := i.writePhys.onStack

theorem conversionComplete (i : s.Inv) : Gives State.Inv (conversionComplete k s) :=
  .ite (.some (.onStack (State.Inv.foldl (fun _ _ i => i.convertOne) _ i))) .none

theorem converterError (i : s.Inv) : (converterError k s).Inv :=
  .ite (.msi (.onStack (State.Inv.foldl (fun _ _ i => i.convertOne) _ i.choose))) i

theorem crallocWrite (i : s.Inv) : (crallocWrite k n z s).Inv := .ite i i.onStack
theorem berthMsi (i : s.Inv) : (berthMsi s b).Inv := i.msi
theorem stopBerth (i : s.Inv) : (stopBerth s b).Inv := i.of_eq rfl rfl
theorem persWrite (i : s.Inv) : (persWrite b z s).Inv := .ite i.onBerth (.ite i.onBerth (.ite i i.onBerth.stopBerth))
theorem powerDown (i : s.Inv) : (powerDown s b).Inv := i.onBerth.berthMsi
theorem retrain (i : s.Inv) : (retrain s b).Inv := .ite i.powerDown i.onBerth
theorem berthDrainComplete (i : s.Inv) : Gives State.Inv (berthDrainComplete b s) := .ite (.some i.retrain) .none

theorem reqsGone (i : s.Inv) : (reqsGone s b).Inv := by
  refine State.Inv.foldl (fun _ _ i => ?_) _ i
  split
  · exact i.giveUp.cmdFault
  · exact i.giveUp

theorem acceptedGone (i : s.Inv) : (acceptedGone s b).Inv := .of_eq (State.Inv.foldl (fun _ _ i => i.pathFault.getD i) _ i) rfl rfl
theorem drainTimeout (i : s.Inv) : Gives State.Inv (drainTimeout b s) := .ite (.some i.reqsGone.acceptedGone.onBerth.retrain) .none

theorem berthTrainingComplete (i : s.Inv) : Gives State.Inv (berthTrainingComplete b n z s) :=
  .ite .none (.ite (.some i.onBerth.berthMsi) (.some i.onBerth.berthMsi))

theorem berthLoss (i : s.Inv) : (berthLoss b s).Inv := i.onBerth.reqsGone
theorem kgo (i : s.Inv) : (kgo b s).Inv := i.onBerth
theorem keyLow (i : s.Inv) : Gives State.Inv (keyLow b s) := .ite (.some i.onBerth.berthMsi) .none
theorem keyExhausted (i : s.Inv) : Gives State.Inv (keyExhausted b s) := .ite (.some i.onBerth.berthMsi) .none
theorem kstatWrite (i : s.Inv) : (kstatWrite s b z).Inv := i.onBerth

/-- What another module asks is refused, joins the fabric, or, from outside the group, is written at once (R427). -/
theorem remoteRequest {r : RemoteRequest} (i : s.Inv) : (remoteRequest r s).Inv := by
  have turned : (if isRelease r.op then s else Machine.replyTo s (inboundPacket r 16 0 .dispatch .release) .refused).Inv := .ite i i.replyTo
  refine .ite ?_ i
  dsimp only
  split
  · exact turned
  · refine .ite turned (.ite (i.of_eq rfl rfl) (State.Inv.foldl (fun t q i => ?_) _ i))
    split
    · exact .ite i.replyTo (.replyTo ⟨Memory.mergeBytes_wf i.1, i.2⟩)
    · exact i.of_eq rfl rfl

theorem hostLinkLoss (i : s.Inv) : (hostLinkLoss s).Inv := i.of_eq rfl rfl
theorem hostLinkReturn (i : s.Inv) : (hostLinkReturn s).Inv := i.of_eq rfl rfl
theorem noteHostWaits (i : s.Inv) : (noteHostWaits s).Inv := i.of_eq rfl rfl

theorem readTimeout (i : s.Inv) : Gives State.Inv (readTimeout a s) := by
  unfold Machine.readTimeout
  split
  · exact .some i.loseModule
  · exact i.pathFault

theorem hostTimeout (i : s.Inv) : Gives State.Inv (hostTimeout n s) := by
  unfold Machine.hostTimeout
  dsimp only
  split
  · exact .bind fun _ => .ite i.readTimeout .none
  · refine .bind fun _ => .bind fun _ => .bind fun _ => .ite .none ?_
    split
    · exact .some i.meet.onCopy
    · exact .some i.loseModule
    · exact .none

theorem fabricTimeoutAny (i : s.Inv) : Gives State.Inv (fabricTimeoutAny k s) := .ite i.fabricTimeout i.hostTimeout

/-! ### Queues and the dispatch engine -/

theorem readFlits (i : s.Inv) : (readFlits s p va n).Inv := .ite i (State.Inv.foldl (fun _ _ i => i.flit) _ (i.of_eq rfl rfl))
theorem dispatchFault (i : s.Inv) : (dispatchFault s p cause va q x y).Inv := i.raise

theorem fetchStop {f : DispatchRead} (i : s.Inv) : Gives State.Inv (fetchStop s p f q x y) := by
  cases f with
  | ok bs => exact .none
  | fault c va => exact .some i.onPart.dispatchFault
  | wait b => exact .ite .none (.some i.onPart)

theorem unbar (i : s.Inv) : (unbar s p).Inv := .ite i.onPart i
theorem qtailWrite (i : s.Inv) : (qtailWrite p q z s).Inv := i.onPart
theorem qcfgWrite (i : s.Inv) : (qcfgWrite p q z s).Inv := i.onPart
theorem advance (i : s.Inv) : (advance s p q).Inv := i.onPart

theorem packetStatus {u : Queue} (i : s.Inv) : (packetStatus s p u n v).Inv := by
  unfold Machine.packetStatus
  split
  · exact i
  · exact i.of_eq rfl rfl

theorem startHead (i : s.Inv) : Gives FstInv (startHead s p q t) := by
  refine .ite ?_ .none
  dsimp only
  split
  · exact .ite (.some i.advance) .none
  · exact .none

theorem passHead (i : s.Inv) : (passHead s p).Inv := by
  unfold Machine.passHead
  split
  · exact i
  · dsimp only
    split
    · exact .ite i.dispatchFault i.onPart
    · exact .ite i i.advance.packetStatus

theorem queueAging (i : s.Inv) : Gives State.Inv (queueAging p q s) := .ite (.some i.onPart) .none
theorem addLog {l : Log} (i : s.Inv) : (addLog s p l).Inv := i.of_eq rfl rfl
theorem writeStatus (i : s.Inv) : (writeStatus s p o va bs x y).Inv := .ite i.dispatchWrite.dispatchWrite i.dispatchWrite

theorem sendPost (i : s.Inv) : (sendPost s p o va x y).Inv := by
  unfold Machine.sendPost
  split
  · exact i.of_eq rfl rfl
  · exact i.raise

theorem retireLogWrite (i : s.Inv) : Gives State.Inv (retireLogWrite p q s) := by
  refine .bind fun l => .ite .none ?_
  have told {a n} : (if l.status = 0 then s else Machine.writeStatus s p (.log p l.id) l.status a n 0).Inv := .ite i i.writeStatus
  have sent {t : State} {c : Prop} [Decidable c] (i : t.Inv) : (if c then t else Machine.sendPost t p (.log p l.id) l.jcb l.src.detail 0).Inv :=
    .ite i i.sendPost
  exact .ite (.some (.of_eq (sent told) rfl rfl)) (.some (sent told).onPart)

theorem sweepLogs (i : s.Inv) : (sweepLogs s p).Inv := .ite i.onPart i

theorem recordWrite (i : s.Inv) : Gives State.Inv (recordWrite s p h va bs) := .andThen i.givesHomeStore fun _ i => i.givesHomeStore

theorem nlaunchAppend (i : s.Inv) : Gives State.Inv (nlaunchAppend k s) := by
  refine .bind fun q => ?_
  split
  · refine .ite .none (i.arriveAt fun t i => .ite (.some i) ?_)
    split
    · exact .some i.onPart
    · exact .ite (.some i) (.map i.recordWrite fun _ i => i.onPart)
  · exact .none

theorem jcbPostStep (i : s.Inv) : Gives State.Inv (jcbPostStep k s) := by
  refine .bind fun q => ?_
  split
  · exact .ite .none (.some (.notifyWrite (i.of_eq rfl rfl)))
  · refine .ite .none (.ite i.packetFault (.andThen (.applyPost (i.of_eq rfl rfl)) fun r i => .some (.ite (.raise i) i)))
  · refine .ite i.pathFault (.ite .none ?_)
    split
    · exact .packetFault (i.of_eq rfl rfl)
    · exact .some (.flit (i.of_eq rfl rfl))
  · exact i.jcbPostApply

end Sys2Proof.Machine.State.Inv

namespace Sys2Proof.Machine.State.Inv

variable {s : State} {c cause done first g i j jcb job n p q rank status t x y addr prio : Nat} {f : ANest → ANest} {src : Src} {w : ANest}
  {gr : Graph} {r : NestRec} {bs code args : List Byte} {bad : Option (Nat × Nat)} {set : List Placed} {ok : Bool} {v : Word}

/-! ### Records end -/

theorem nodeDone (i : s.Inv) : (nodeDone s p g n).Inv := i.onGraph

theorem tellNode (i : s.Inv) : (tellNode s p src ok).Inv := by
  unfold Machine.tellNode
  split
  · exact i
  · exact .ite i.nodeDone i.onGraph

theorem endRecord (i : s.Inv) : (endRecord s p src x cause done first status jcb).Inv := .tellNode (.ite i i.addLog)
theorem endNest (i : s.Inv) : (endNest s p w x cause first).Inv := i.onPart.endRecord

theorem retireNests (i : s.Inv) : (retireNests s p).Inv := by
  refine State.Inv.foldl (fun _ _ i => .ite i ?_) _ i
  split
  · exact i.endNest
  · exact .ite i.endNest i

theorem retireGraphs (i : s.Inv) : (retireGraphs s p).Inv := by
  refine State.Inv.foldl (fun _ _ i => .ite i ?_) _ i
  dsimp only
  split
  · exact i.onPart.endRecord
  · exact i.onPart.endRecord

theorem retireCopies (i : s.Inv) : (retireCopies s p).Inv := by
  refine State.Inv.foldl (fun _ _ i => ?_) _ i
  split
  · exact i
  · exact .ite i.copyOver.endRecord i

/-! ### Records start -/

theorem nestPaid (i : s.Inv) : (nestPaid s p r).Inv := .ite i.readFlits i

theorem startNest (i : s.Inv) : (startNest s p src prio r addr bad).Inv := by
  have counted : State.Inv { s with nextId := s.nextId + 1 } := i.of_eq rfl rfl
  unfold Machine.startNest
  dsimp only
  split
  · exact counted.endNest
  · exact counted.onPart

theorem nestRecordStart (i : s.Inv) : Gives State.Inv (nestRecordStart p q s) := by
  refine .andThen i.startHead fun (_, _, _) j => ?_
  dsimp only
  split
  · exact i.fetchStop
  · exact .some (.retireNests (.startNest (.nestPaid j)))

theorem startCopy (i : s.Inv) : (startCopy s p src bs job ok).Inv := by
  unfold Machine.startCopy
  extract_lets
  exact .ite i.endRecord (i.of_eq rfl rfl)

theorem copyRecordStart (i : s.Inv) : Gives State.Inv (copyRecordStart p q s) := .andThen i.startHead fun (_, _, _) j => .some (.startCopy j)
theorem queueFence (i : s.Inv) : Gives State.Inv (queueFence p q s) := .andThen i.startHead fun (_, _, _) j => .some (.packetStatus j)

theorem sealRequestPacket (i : s.Inv) : Gives State.Inv (sealRequestPacket p q s) :=
  .andThen i.startHead fun (_, _, _) j => .ite (.some (.packetStatus (.requestSeal j))) (.some (.packetStatus j))

theorem levelSwitch (i : s.Inv) : Gives State.Inv (levelSwitch p q s) := .andThen i.startHead fun (_, _, _) j => .some (.onPart j)

theorem levelSwitchComplete (i : s.Inv) : Gives State.Inv (levelSwitchComplete p s) := by
  refine .bind fun _ => .bind fun _ => .ite .none (.ite (.some i.onPart.onPart.blackBox.packetStatus) (.ite (.some i.onPart.packetStatus) ?_))
  split
  · exact .ite (.some i.onPart.packetStatus) (.some i.onPart.onPart.blackBox.packetStatus)
  · exact .some i.onPart.packetStatus

/-! ### Teams -/

theorem loadCore (i : s.Inv) : (loadCore s p w t code args c rank).Inv := by
  unfold Machine.loadCore
  have cleared : Memory.wf (if w.recd.zs then [] else (s.core c).mem) = true := by
    split
    · rfl
    · exact i.pad c
  exact i.setCore (Memory.write_wf (Memory.write_wf cleared))

/-- A new cycle ends the loading of a context, and leaves whether a core has one. -/
theorem wake (i : s.Inv) : (wake s).Inv := by
  obtain ⟨mem, cores, pads⟩ := i
  have moved (k : Core) (h : k ≠ Core.reset) : { k with ctx := k.ctx.map Ctx.nextCycle } ≠ Core.reset := fun e => by
    obtain ⟨_, _, _, _, _, ctx, _, _⟩ := k
    cases ctx with
    | none => exact h e
    | some x => cases e
  refine ⟨mem, SMap.wf_map moved cores, fun c => ?_⟩
  unfold State.core Machine.wake
  rw [SMap.get_map (f := fun k : Core => { k with ctx := k.ctx.map Ctx.nextCycle }) rfl]
  exact pads c

theorem startTeam (i : s.Inv) : (startTeam s p w x y set code args).Inv :=
  .onNest (.onPart (State.Inv.foldl (fun _ _ i => i.loadCore) _ (i.of_eq rfl rfl)))

theorem teamLaunch (i : s.Inv) : Gives State.Inv (teamLaunch p n s) := by
  refine .bind fun _ => .ite .none (.bind fun _ => ?_)
  dsimp only
  split
  · refine .ite (.some i.readFlits.readFlits.startTeam) ?_
    split
    · exact .some (.ite i.readFlits.readFlits.endNest i.readFlits.readFlits.onNest.retireNests)
    · exact .some i.readFlits.readFlits.startTeam
  · exact i.fetchStop
  · exact i.fetchStop

theorem teamRetire (i : s.Inv) : Gives State.Inv (teamRetire p t s) :=
  .bind fun _ => .ite .none (.some (.retireNests (.onNest (.onPart (State.Inv.foldl (fun _ _ i => by exact i.keepPad rfl) _ i)))))

theorem noteRefusals (i : s.Inv) : (noteRefusals s p).Inv := .ite i.onPart i
theorem iterationAging (i : s.Inv) : Gives State.Inv (iterationAging p n s) := .bind fun _ => .bind fun _ => .ite (.some i.onNest) .none

theorem requestPreempts (i : s.Inv) : (requestPreempts s p).Inv := by
  refine .ite i (State.Inv.foldl (fun _ _ i => ?_) _ i)
  split
  · exact i.onTeam
  · exact i

theorem sliceExpiry (i : s.Inv) : Gives State.Inv (sliceExpiry p t s) := .bind fun _ => .ite .none (.some i.onTeam.requestPreempts)

/-! ### Graphs -/

theorem nodeRecord {u : State} (i : s.Inv) (e : nodeRecord s p gr n = .inr u) : u.Inv := by
  unfold Machine.nodeRecord at e
  split at e
  · exact nomatch e
  · exact Sum.inr.inj e ▸ i.fetchStop.getD i

/-- A node that fires, waits or fails (R122, R123). -/
theorem fireNode (i : s.Inv) : (fireNode s p gr n).Inv := by
  unfold Machine.fireNode
  extract_lets node src s1 fail cond
  have j : s1.Inv := i.onGraph
  have failed (c) : (fail c).Inv := j.onGraph
  have chosen (f) : (cond f).Inv := by
    unfold cond
    split
    · exact j.readFlits.onGraph
    · exact i.fetchStop.getD i
    · exact failed 8
  clear_value src s1 fail cond
  split
  · refine .ite i ?_
    split
    · exact i.nodeRecord ‹_›
    · refine .ite (failed 9) ?_
      split
      · exact i.fetchStop.getD i
      · exact j.readFlits.nestPaid.startNest.retireNests
  · refine .ite i ?_
    split
    · exact i.nodeRecord ‹_›
    · exact .ite (failed 9) j.readFlits.startCopy
  · exact chosen _
  · exact chosen _
  · exact .ite (failed 9) j.requestSeal
  · have told {t : State} {o a bs d b} (i : t.Inv) : (Machine.dispatchWrite t p o a bs d b).Inv := i.dispatchWrite
    exact .ite (told i) (told j)
  · exact j.nodeDone

theorem runGraphs (i : s.Inv) : (runGraphs s p).Inv := by
  refine .retireGraphs (State.Inv.foldl (fun _ g i => State.Inv.foldl (fun _ n i => .ite i ?_) _ i) _ i)
  split
  · exact .ite i.fireNode i
  · exact i

theorem graphLaunch (i : s.Inv) : Gives State.Inv (graphLaunch p q s) := by
  refine .andThen i.startHead fun (t, a, bs) j => ?_
  dsimp only
  have put {t : State} {bs} (j : t.Inv) : State.Inv
      (Machine.runGraphs ({ t with nextId := s.nextId + 1 }.onPart p fun x => { x with graphs := x.graphs ++ [bs] }) p) :=
    .runGraphs (.onPart (j.of_eq rfl rfl))
  refine .ite (.some (put j)) ?_
  split
  · exact .some (put (State.Inv.readFlits j))
  · exact i.fetchStop

theorem signalAccepted (i : s.Inv) : Gives State.Inv (signalAccepted p g n s) := .bind fun _ => .ite (.some i.nodeDone.runGraphs) .none

/-! ### A partition starts and ends -/

theorem zeroCore (i : s.Inv) : (zeroCore s c).Inv := i.setCore rfl

theorem partitionEnable (i : s.Inv) : (partitionEnable p v s).Inv :=
  .ite i (.ite i.onPart.onPart (.onPart (.blackBox (State.Inv.foldl (fun _ _ i => i.zeroCore) _ i.onPart))))

theorem flushLogs (i : s.Inv) : (flushLogs s p).Inv :=
  State.Inv.foldl (fun _ _ i => State.Inv.foldl (fun _ _ i => .ite i.onPart i.onPart.writeStatus) _ i) _ i

theorem discard (i : s.Inv) : (discard s p).Inv := by
  unfold Machine.discard
  extract_lets mine cs dropped
  have kept : dropped.Inv := State.Inv.foldl (fun _ _ i => by exact i.keepPad rfl) _ i
  clear_value dropped
  exact kept.of_eq rfl rfl

theorem settleOne (i : s.Inv) : Gives State.Inv (settleOne s p) :=
  .findSome fun _ => .bind fun _ => .ite .none (.filter (.or i.homeLineWrite i.holdBufferEntry))

theorem settleCopies (i : s.Inv) : (settleCopies p n s).Inv := by
  induction n generalizing s with
  | zero => exact i
  | succ n ih =>
    unfold Machine.settleCopies
    split
    next t e => exact ih (i.settleOne t e)
    · exact i

theorem endWork (i : s.Inv) : (endWork s p).Inv := by
  unfold Machine.endWork
  extract_lets q log
  have logged {s : State} {src d f n} (i : s.Inv) : (log s src d f n).Inv := .ite i i.addLog
  refine .onPart (State.Inv.foldl (fun _ k i => ?_) _ (State.Inv.foldl (fun _ _ i => logged i) _ (State.Inv.foldl (fun _ _ i => logged i) _ i)))
  split
  · exact .ite (logged i.copyOver) i
  · exact i

theorem partitionDisable (i : s.Inv) : (partitionDisable p v s).Inv :=
  .ite i.onPart (.ite i i.onPart.flushLogs.settleCopies.endWork.flushLogs.discard.blackBox.onPart)

theorem pilotTurn (i : s.Inv) : (pilotTurn s p).Inv :=
  .ite i i.passHead.sweepLogs.unbar.retireCopies.retireNests.runGraphs.noteRefusals.requestPreempts

end Sys2Proof.Machine.State.Inv

namespace Sys2Proof.Machine

/-! ### What an image gives -/

/-- The scratchpad that an image gives is written from nothing, so it is in its canonical form. -/
theorem readImage_wf {bs : List Byte} {x : Ctx} {gens : List Nat} : Gives (fun r => Memory.wf r.1 = true) (readImage bs x gens) := by
  have written {gs : List (Nat × List Byte)} : Memory.wf (gs.foldl (fun m g => SMap.write m (4096 * g.1) g.2) []) = true :=
    List.foldlRecOn (motive := fun m => Memory.wf m = true) _ _ rfl fun _ w _ _ => Memory.write_wf w
  unfold readImage
  refine .ite .none (.bind fun _ => .bind fun _ => .bind fun _ => .bind fun _ => .bind fun _ => .bind fun _ => .bind fun _ => .bind fun _ =>
    .bind fun _ => .bind fun _ => .bind fun _ => .bind fun _ => .bind fun _ => .bind fun _ => .bind fun _ => .ite .none (.some written))

namespace State.Inv

variable {s : State} {c k p pa t : Nat} {slots : List Nat} {bs : List Byte} {m : Team} {x : Ctx} {h : Halt}

/-! ### Halts -/

theorem saveRefused (i : s.Inv) : (saveRefused s p pa).Inv := i.engineFault
theorem saveWrite (i : s.Inv) : (saveWrite s p pa bs).Inv := .ite i.saveRefused i.writePhys

theorem stopUnit (i : s.Inv) : (stopUnit s p k h).Inv := by
  unfold Machine.stopUnit
  split
  · exact i.onCtx.traceHalt
  · exact i.dropBursts
  · exact i

theorem engineStop (i : s.Inv) : Gives State.Inv (engineStop p k s) :=
  .bind fun _ => .ite (.some i.onHalt.saveWrite) (.ite .none (.some i.stopUnit.onHalt.saveWrite))

theorem abandonSave (i : s.Inv) : (abandonSave s p t slots).Inv := i.onTeam.onPart.abandon

theorem haltComplete (i : s.Inv) : Gives State.Inv (haltComplete p s) := by
  refine .bind fun h => .ite .none (.some (.msi (.blackBox (.onPart (.onHalt (.saveWrite (State.Inv.foldl (fun _ _ i => ?_) _ i)))))))
  split
  · exact i.abandonSave
  · exact i

theorem forgetFaulted (i : s.Inv) : (forgetFaulted s p).Inv := by
  refine State.Inv.foldl (fun _ _ i => ?_) _ (State.Inv.foldl (fun _ _ i => i.forget) _ i)
  split
  · exact .ite i (State.Inv.foldl (fun _ _ i => i.forget) _ (State.Inv.foldl (fun _ _ i => i.forget) _ i))
  · exact i

theorem haltResume (i : s.Inv) : (haltResume p s).Inv := by
  have resumed {l : List Nat} {f : Ctx → Ctx} {g : Copy → Bool} :
      (l.foldl (fun s c => s.onCtx c f) (Machine.resumeCopies (Machine.forgetFaulted s p) g)).Inv :=
    State.Inv.foldl (fun _ _ i => i.onCtx) _ i.forgetFaulted.resumeCopies
  unfold Machine.haltResume
  extract_lets q started core sent
  have j : core.Inv := resumed
  clear_value core
  exact .ite i (.onPart (j.of_eq rfl rfl))

theorem haltDump (i : s.Inv) : (haltDump p s).Inv := .ite i.onPart i

theorem haltDumpComplete (i : s.Inv) : Gives State.Inv (haltDumpComplete p s) :=
  .ite .none (.some (.onPart (State.Inv.foldl (fun _ _ i => i.saveWrite) _ i)))

/-! ### Pre-emption -/

theorem quiesceReturn (i : s.Inv) : Gives State.Inv (quiesceReturn c s) := .bind fun _ => .ite (.some (.setCtx (i.of_eq rfl rfl))) .none

theorem preemptSave (i : s.Inv) : Gives State.Inv (preemptSave p t s) :=
  .bind fun _ => .ite .none (.some (.onPart (.onTeam (State.Inv.foldl (fun _ _ i => i.released) _ i))))

theorem preemptSaveComplete (i : s.Inv) : Gives State.Inv (preemptSaveComplete p t s) := by
  unfold Machine.preemptSaveComplete
  refine .bind fun m => ?_
  split
  · refine .ite (.some i.abandonSave) ?_
    extract_lets q images
    split
    · exact .some i.saveWrite.abandonSave
    next saved kept stopped forgotten emptied out _ _ =>
      have i1 : saved.Inv := State.Inv.foldl (fun _ _ i => i.saveWrite) _ i
      have i2 : stopped.Inv := i1.of_eq rfl rfl
      have i3 : forgotten.Inv := State.Inv.foldl (fun _ _ i => State.Inv.foldl (fun _ _ i => i.forget) _ i) _ i2
      have i4 : emptied.Inv := State.Inv.foldl (fun _ _ i => by exact i.keepPad rfl) _ i3
      exact .some (.ite i4.onTeam.onPart.onNest i4.onTeam.onPart)
  · exact .none

theorem restoreOne (i : s.Inv) : Gives State.Inv (restoreOne s p m x k c) :=
  .andThen readImage_wf fun (_, _, _) w => .some (.of_eq (i.setCore w) rfl rfl)

theorem preemptRestore (i : s.Inv) : Gives State.Inv (preemptRestore p t s) := by
  unfold Machine.preemptRestore
  refine .bind fun m => ?_
  extract_lets q
  split
  · refine .bind fun r => .ite .none ?_
    split
    · exact .some i.saveRefused
    · extract_lets cores s1 s2
      have i1 : s1.Inv := i.onPart
      have restored : Gives State.Inv s2 :=
        List.foldlRecOn (motive := Gives State.Inv) _ _ (.some i1) fun _ g _ _ => .andThen g fun _ j => j.restoreOne
      clear_value s1 s2
      split
      next t =>
        have j : t.Inv := restored t rfl
        exact .some (.ite j.onTeam.choose.onPart j.onTeam.choose)
      · exact .some (.retireNests (.onNest (.onPart (i1.of_eq rfl rfl))))
  · exact .none

theorem pwaitExpiry (i : s.Inv) : Gives State.Inv (pwaitExpiry p t s) := .bind fun _ => .bind fun _ => .ite (.some i.abandon) .none

end State.Inv
end Sys2Proof.Machine

namespace Sys2Proof.Machine.State.Inv

variable {s : State} {c cause gid h k l line p top : Nat} {w : Seal} {r : SealReply} {v : Word} {held : Bool} {e : ErrorSite}

/-! ### Seals -/

theorem beginDrain (i : s.Inv) : (beginDrain s p).Inv := .ite i.onGroup i
theorem sealDrainComplete (i : s.Inv) : Gives State.Inv (sealDrainComplete p s) := .ite .none (.some i.onGroup.onPart)

theorem haltGroup (i : s.Inv) : (haltGroup s p cause k).Inv := State.Inv.foldl (fun _ _ i => .onPart (.ite i.raise i)) _ i
theorem startRollback (i : s.Inv) : (startRollback s p cause).Inv := i.haltGroup

theorem sealFails (i : s.Inv) : (sealFails s p cause).Inv := by
  unfold Machine.sealFails
  extract_lets code told
  have j : told.Inv := State.Inv.foldl (fun _ _ i => i.blackBox) _ i
  exact .ite (.onPart (State.Inv.foldl (fun _ _ i => i.msi) _ j.haltGroup)) j.startRollback

theorem prepare (i : s.Inv) : Gives State.Inv (prepare p s) := by
  unfold Machine.prepare
  extract_lets l q w bad held
  refine .ite .none ?_
  split
  · exact .ite .none (.some i.onGroup.onPart)
  · refine .ite .none ?_
    extract_lets marked told
    have j : told.Inv := .onSeal (.onPart (i.of_eq rfl rfl))
    clear_value told
    split
    · exact .some (State.Inv.ite (Gives.getD (Gives.mapAny fun _ => j.sealFails) j) j)
    · exact .some j

theorem failedAway (i : s.Inv) : (failedAway s p cause).Inv :=
  .ite i.sealFails (.ite (State.Inv.foldl (fun _ _ i => i.msi) _ i.haltGroup) i.startRollback)

theorem prepareReply (i : s.Inv) : Gives State.Inv (prepareReply p r s) :=
  .ite (.some i.failedAway) (.bind fun _ => .ite .none (.ite .none (.ite (.some i.sealFails) (.ite (.some i.onSeal) (.some i.onGroup.onSeal)))))

theorem sweepStale (i : s.Inv) : (sweepStale s p).Inv := i.of_eq rfl rfl

theorem commit (i : s.Inv) : Gives State.Inv (commit p s) :=
  .bind fun _ => .ite .none (.ite .none (.some (.sweepStale (.onPart (.onSeal (.ite i.onGroup.onSeal i))))))

theorem finishSeal (i : s.Inv) : (finishSeal s p w).Inv := by
  refine .onGroup (.msi (State.Inv.foldl (fun _ _ i => ?_) _ i))
  split
  · exact .ite i.nodeDone.runGraphs i
  · exact i

theorem committed (i : s.Inv) : Gives State.Inv (committed p s) :=
  .bind fun _ => .bind fun _ => .ite .none (.ite (.some (.onSeal (.ite i.onGroup i))) (.some i.onSeal.finishSeal))

theorem free (i : s.Inv) : Gives State.Inv (Machine.free p s) := by
  unfold Machine.free
  extract_lets l q
  refine .bind fun w => ?_
  extract_lets first done freedHold freed
  refine .ite .none ?_
  have j : done.Inv := .ite i.onSeal.finishSeal i
  clear_value done
  exact .some (.onPart (j.of_eq rfl rfl))

/-! ### Rollback -/

theorem replay (i : s.Inv) : (replay s gid l).Inv := by
  unfold Machine.replay
  extract_lets keep kept undone
  have j : undone.Inv := State.Inv.foldl (fun _ _ i => State.Inv.foldl (fun _ _ i => i.undo) _ i) _ (i.of_eq rfl rfl)
  clear_value undone
  exact j.of_eq rfl rfl

theorem clearMember (i : s.Inv) : (clearMember s p).Inv := by
  unfold Machine.clearMember
  extract_lets idle zeroed numbered dropped
  have i1 : zeroed.Inv := State.Inv.foldl (fun _ _ i => i.zeroCore) _ i.discard
  have i2 : numbered.Inv := State.Inv.foldl (fun _ _ i => by exact i.keepPad rfl) _ i1
  have i3 : dropped.Inv := State.Inv.foldl (fun _ _ i => i.dropDie) _ i2
  clear_value dropped
  exact i3.of_eq rfl rfl

theorem loadRestart (i : s.Inv) : (loadRestart s p l).Inv := i.onPart
theorem restartMember (i : s.Inv) : (restartMember s p l top).Inv := .sweepStale (.blackBox i.onPart)

theorem rollbackComplete (i : s.Inv) : Gives State.Inv (rollbackComplete p s) := by
  unfold Machine.rollbackComplete
  extract_lets q ms target top back loaded reopened
  refine .ite .none ?_
  have j : reopened.Inv := .onPart (State.Inv.foldl (fun _ _ i => i.clearMember.loadRestart) _ i.replay)
  exact .ite (.some (State.Inv.foldl (fun _ _ i => i.onPart.blackBox.msi) _ j)) (.some (State.Inv.foldl (fun _ _ i => i.restartMember) _ j))

theorem rctlRollback (i : s.Inv) : (rctlRollback v s).Inv := .ite i.startRollback i
theorem takeOver (i : s.Inv) : (takeOver s p).Inv := .ite (.ite i.sealFails i.startRollback) i

theorem leaveGroup (i : s.Inv) : (leaveGroup s p).Inv := by
  unfold Machine.leaveGroup
  extract_lets l
  split
  · exact i
  · exact .ite (.onPart (.ite i.sealFails i)) (.onPart (.ite i.sealFails i))

theorem sealTimerExpiry (i : s.Inv) : Gives State.Inv (sealTimerExpiry p s) := .ite (.some (.ite i.onPart.requestSeal i.onPart)) .none
theorem waitExpiry (i : s.Inv) : Gives State.Inv (waitExpiry held cause k s) := .bind fun _ => .bind fun _ => .ite (.some i.haltGroup) .none
theorem metaSweep (i : s.Inv) : Gives State.Inv (metaSweep line s) := .ite (.some (i.of_eq rfl rfl)) .none

/-! ### Held writes and struck places -/

/-- Bytes of a held write reach memory under their masks (R430). -/
theorem merged {l : List MByte} (i : s.Inv) : State.Inv { s with mem := State.mergeBytes s.mem l } := ⟨Memory.mergeBytes_wf i.1, i.2⟩

theorem heldWritePerformed (i : s.Inv) : Gives State.Inv (heldWritePerformed k s) := by
  refine .bind fun _ => .bind fun _ => ?_
  have flown {b : Nat} {l : List Held} : ((s.setHold k l).flit b).Inv := i.setHold.flit
  dsimp only
  split
  · exact i.faultOnce
  · exact .ite (.ite (.some i.setHold.merged) .none) (.ite (.some i.setHold.merged) (.ite .none (.ite (.some flown.merged) (.some flown))))

theorem uncorrectable (i : s.Inv) : (uncorrectable e s).Inv := by
  cases e with
  | line pa p =>
    refine .ite i ?_
    split
    · exact i.gatherError
    · exact i.engineFault
  | core c =>
    unfold Machine.uncorrectable
    dsimp only
    split
    · exact i.engineFault
    · exact i
  | riser h p => exact .ite (State.Inv.foldl (fun _ _ i => i.onPart.msi) _ i) i
  | converter k => exact i.converterError

theorem recoveryTurn (i : s.Inv) : (recoveryTurn s p).Inv := i.takeOver.beginDrain

end Sys2Proof.Machine.State.Inv

namespace Sys2Proof.Machine.State.Inv

variable {s : State} {a b c d draw err k n o p pa : Nat} {v : Word} {bs : List Byte}

/-! ### Measurements and the mailbox -/

theorem extend (i : s.Inv) : (extend s n bs).Inv := i.of_eq rfl rfl
theorem measure (i : s.Inv) : (measure s a v).Inv := i.of_eq rfl rfl
theorem extendCycle (i : s.Inv) : (extendCycle s).Inv := State.Inv.foldl (fun _ _ i => i.extend) _ (i.of_eq rfl rfl)

theorem pcfgWrite (i : s.Inv) : (pcfgWrite p v s).Inv := by
  have set : (if v.getLsbD 63 then Machine.partitionEnable p v s
      else Machine.partitionDisable p v (if (s.part p).en && (s.part p).mayEnd then Machine.leaveGroup s p else s)).Inv :=
    .ite i.partitionEnable (.partitionDisable (.ite i.leaveGroup i))
  exact .ite i.onPart (.ite set set.measure)

theorem persSet (i : s.Inv) : (persSet b v s).Inv := .ite i.persWrite.measure i.persWrite
theorem mbDone (i : s.Inv) : (mbDone s n).Inv := .msi (i.of_eq rfl rfl)

theorem mbcmdWrite (i : s.Inv) : (mbcmdWrite v s).Inv := by
  have named {m : Mgmt} : State.Inv { s with mgmt := m } := i.of_eq rfl rfl
  exact .ite named (.ite i (.ite named (.ite named.mbDone named)))

theorem writeReport (i : s.Inv) : (writeReport s pa bs).Inv := by
  refine ⟨List.foldlRecOn (motive := fun m => Memory.wf m = true) _ _ i.1 fun m w e _ => ?_, i.2⟩
  split
  · exact SMap.put_wf w
  · exact w

theorem attest (i : s.Inv) : Gives State.Inv (attest s) :=
  .ite .none (.ite (.some i.mbDone) (.ite (.some i.mbDone) (.ite .none (.some (.mbDone (.writeReport (i.of_eq rfl rfl)))))))

theorem enterFullService (i : s.Inv) : Gives State.Inv (enterFullService s) :=
  .ite .none (.ite (.some i.mbDone) (.some (.ite (i.mbDone.of_eq rfl rfl) i.mbDone)))

theorem writeRoute (i : s.Inv) : Gives State.Inv (writeRoute s) :=
  .ite .none (.ite (.some i.mbDone) (.some (.mbDone (.measure (i.of_eq rfl rfl)))))

theorem writeJoinKey (i : s.Inv) : Gives State.Inv (writeJoinKey s) := .ite .none (.ite (.some i.mbDone) (.some i.onPart.measure.mbDone))

/-! ### Boot and resets -/

theorem bootVerify (i : s.Inv) : (bootVerify s).Inv := by
  unfold Machine.bootVerify
  extract_lets grown svn
  have j : grown.Inv := State.Inv.foldl (fun _ _ i => i.extend) _ i
  clear_value grown
  exact .ite (j.of_eq rfl rfl) (j.of_eq rfl rfl)

theorem bootPhaseComplete (i : s.Inv) : Gives State.Inv (bootPhaseComplete err s) := by
  have named {m : Mgmt} : State.Inv { s with mgmt := m } := i.of_eq rfl rfl
  refine .ite .none (.ite (.ite (.some named) .none) ?_)
  split
  · exact .some named
  · exact .some i.bootVerify
  · exact .some named
  · exact .some named
  · exact .none

theorem partitionReset (i : s.Inv) : (partitionReset p s).Inv := by
  unfold Machine.partitionReset
  extract_lets idle zeroed gone
  have j : zeroed.Inv := .ite (State.Inv.foldl (fun _ _ i => i.zeroCore) _ i.discard) i.discard
  clear_value zeroed
  exact .onPart (.blackBox (j.of_eq rfl rfl))

theorem dieReset (i : s.Inv) : (dieReset d s).Inv := State.Inv.foldl (fun _ _ i => i.partitionReset) _ i.resetXlat

/-- Memory and cores are those of `State.reset`. -/
theorem moduleReset : (moduleReset s).Inv := State.Inv.foldl (fun _ _ i => i.blackBox) _ (State.Inv.reset.of_eq rfl rfl)

theorem pgateUpdate (i : s.Inv) : (pgateUpdate draw s).Inv := .ite (i.of_eq rfl rfl) (i.choose.of_eq rfl rfl)

/-! ### Registers -/

theorem writeDispatch (i : s.Inv) : (writeDispatch p o v s).Inv := by
  unfold Machine.writeDispatch
  split
  · exact i.pcfgWrite
  · exact i.onPart
  · exact i.onPart
  · exact i.onPart
  · refine .ite i ?_
    dsimp only
    split
    · exact i.onPart
    · exact i.qcfgWrite
    · exact i.qtailWrite
    · exact i

theorem writeWindow (i : s.Inv) : (writeWindow p o v s).Inv := .ite i.onPart i
theorem writeXlat (i : s.Inv) : (writeXlat p o v s).Inv := .ite i.onPart (.ite i.onPart (.ite i.tinvGo i))

theorem writeStack (i : s.Inv) : (writeStack k o v s).Inv := by
  unfold Machine.writeStack
  split
  · exact i.onStack
  · exact i.onStack
  · exact i.cvctlGo
  · exact .ite i.crallocWrite i

theorem writeSave (i : s.Inv) : (writeSave p o v s).Inv := by
  unfold Machine.writeSave
  extract_lets q fixed base
  split
  · exact .ite i i.onPart
  · exact .ite i i.onPart
  · exact .ite i i.onPart
  · exact .ite (.haltResume (.ite i.haltDump i)) (.ite i.haltDump i)
  · exact i.onPart
  · exact i.onPart
  · exact i

theorem writeRecovery (i : s.Inv) : (writeRecovery o v s).Inv := by
  unfold Machine.writeRecovery
  split
  · exact .ite i (i.of_eq rfl rfl)
  · exact i.of_eq rfl rfl
  · exact i.of_eq rfl rfl
  · exact .ite i.rctlRollback i
  · refine .ite i ?_
    split
    · exact i.onPart.measure
    · exact i.onPart.measure
    · exact i

theorem writeBerth (i : s.Inv) : (writeBerth b o v s).Inv := by
  unfold Machine.writeBerth
  split
  · exact i.persSet
  · exact i.onBerth
  · exact .ite i.kgo i
  · exact i.kstatWrite
  · exact .ite i.onBerth i

theorem writeTrace (i : s.Inv) : (writeTrace c o v s).Inv := by
  unfold Machine.writeTrace
  split
  · exact i.onTrace
  · exact i.onTrace
  · have dumped : (if v.getLsbD 2 then Machine.traceDump c s else s).Inv := .ite i.traceDump i
    have cleared {t : State} {b : Bool} {f} (i : t.Inv) : (if b then t.onTrace c f else t).Inv := .ite i.onTrace i
    exact cleared (cleared dumped)
  · exact i.onTrace
  · exact i

theorem writeMgmt (i : s.Inv) : (writeMgmt o v s).Inv := by
  have named {m : Mgmt} : State.Inv { s with mgmt := m } := i.of_eq rfl rfl
  unfold Machine.writeMgmt
  extract_lets m
  split
  · exact .ite (i.of_eq rfl rfl) named
  · exact .ite named i
  · exact State.Inv.foldl (fun _ _ i => i.partitionReset) _ i
  · exact i.mbcmdWrite
  · exact named
  · exact named
  · exact named
  · exact .ite named i

theorem registerWrite (i : s.Inv) : (registerWrite a v s).Inv := by
  refine .ite i ?_
  split
  · exact .ite i.writeDispatch i
  · exact .ite i.writeWindow i
  · exact .ite i.writeXlat i
  · exact .ite i.writeStack i
  · exact .ite i.writeSave i
  · exact .ite i.writeRecovery i
  · exact .ite i.writeBerth i
  · exact .ite i.writeTrace i
  · refine .ite i ?_
    split
    · exact i.mtset
    · exact i.bbclr
    · exact i
  · exact .ite i.writeMgmt i
  · exact i

end Sys2Proof.Machine.State.Inv

namespace Sys2Proof.Machine.State.Inv

variable {s : State} {i : Instr}

/-! ### One step -/

/-- A step of the opcode table that no slot syllable names. -/
theorem execEvent (j : s.Inv) (e : i.parts = none) : GivesInv (exec i s) := by
  cases i with
  | nop => exact .next j
  | emptyBundle => exact j.execEmptyBundle
  | stallEnd => exact j.execStallEnd
  | resultLanding => exact .next j.onCtx
  | cellLanding => exact j.execCellLanding
  | rendezvousArrival => exact j.engine j.rendezvousArrival
  | transposerChangeLands => exact .next j.onCtx
  | mgoNestStart => exact j.engine j.mgoNestStart
  | kstepStart => exact j.engine j.kstepStart
  | kstepRetire => exact j.engine j.kstepRetire
  | sbalRun => exact j.engine j.sbalRun
  | sbalComplete => exact j.engine j.sbalComplete
  | portEntryArrival => exact j.engine j.portEntryArrival
  | streamWritePerformed => exact j.engine j.streamWritePerformed
  | ringSlotCommit => exact j.engine j.ringSlotCommit
  | ringSlotFree => exact j.engine j.ringSlotFree
  | copyBurstDone => exact j.engine j.copyBurstDone
  | copyRtIncrementRetry => exact j.engine j.copyRtRetry
  | gatherPacket => exact j.engine j.gatherPacket
  | nlaunchAppend => exact j.engine j.nlaunchAppend
  | tracePcMatch => exact j.engine j.tracePcMatch
  | traceFreeze => exact j.engine j.traceFreeze
  | putPacketArrival => exact j.engine j.putPacketArrival
  | lsigArrival => exact j.engine j.lsigArrival
  | putAck => exact j.engine j.putAck
  | atomicApply => exact j.engine j.atomicApply
  | atomicReply => exact j.engine j.atomicReply
  | operationPacket => exact j.engine j.operationPacket
  | achaseHop => exact j.engine j.achaseHop
  | crucibleAdd => exact j.engine j.crucibleAddStep
  | crucibleFinalise => exact j.engine j.crucibleFinStep
  | jcbRaiseApply => exact j.engine j.jcbRaiseApply
  | jcbPostApply => exact j.engine j.jcbPostStep
  | endToEndRetry => exact j.engine j.endToEndRetry
  | refusalRetry => exact j.engine j.refusalRetry
  | fabricTimeout => exact j.engine j.fabricTimeoutAny
  | sourceRelease => exact j.engine j.sourceRelease
  | translationWalkComplete => exact j.engine j.walkComplete
  | dieInvalidate => exact j.engine j.dieInvalidate
  | invalidateAck => exact j.engine j.invalidateAck
  | vainvComplete => exact j.engine j.vainvComplete
  | tinvGo => exact .next j.tinvGo
  | qtailWrite => exact .next j.qtailWrite
  | qcfgWrite => exact .next j.qcfgWrite
  | partitionEnable => exact .next j.pcfgWrite
  | partitionDisable => exact .next j.pcfgWrite
  | queuePriorityAging => exact j.engine j.queueAging
  | nestRecordStart => exact j.engine j.nestRecordStart
  | graphLaunch => exact j.engine j.graphLaunch
  | copyRecordStart => exact j.engine j.copyRecordStart
  | queueFence => exact j.engine j.queueFence
  | levelSwitch => exact j.engine j.levelSwitch
  | levelSwitchComplete => exact j.engine j.levelSwitchComplete
  | sealRequestPacket => exact j.engine j.sealRequestPacket
  | teamLaunch => exact j.engine j.teamLaunch
  | teamRetire => exact j.engine j.teamRetire
  | retireLogWrite => exact j.engine j.retireLogWrite
  | signalWriteAccepted => exact j.engine j.signalAccepted
  | iterationPriorityAging => exact j.engine j.iterationAging
  | sliceExpiry => exact j.engine j.sliceExpiry
  | quiesceMarkerReturn => exact j.engine j.quiesceReturn
  | preemptSave => exact j.engine j.preemptSave
  | preemptSaveComplete => exact j.engine j.preemptSaveComplete
  | preemptRestore => exact j.engine j.preemptRestore
  | pwaitExpiry => exact j.engine j.pwaitExpiry
  | uncorrectable => exact .next j.uncorrectable
  | engineStop => exact j.engine j.engineStop
  | haltComplete => exact j.engine j.haltComplete
  | haltResume => exact .next j.haltResume
  | haltDump => exact .next j.haltDump
  | haltDumpComplete => exact j.engine j.haltDumpComplete
  | homeLineRead => exact j.engine j.homeLineRead
  | homeLineWrite => exact j.engine j.homeLineWrite
  | riserWaitExpiry => exact j.engine j.waitExpiry
  | holdBufferEntry => exact j.engine j.holdBufferEntry
  | holdWaitExpiry => exact j.engine j.waitExpiry
  | metaSweep => exact j.engine j.metaSweep
  | sealTimerExpiry => exact j.engine j.sealTimerExpiry
  | sealDrainComplete => exact j.engine j.sealDrainComplete
  | prepare => exact j.engine j.prepare
  | prepareReply => exact j.engine j.prepareReply
  | commit => exact j.engine j.commit
  | committed => exact j.engine j.committed
  | free => exact j.engine j.free
  | rctlRollback => exact .next j.rctlRollback
  | persWrite => exact .next j.persSet
  | berthDrainComplete => exact j.engine j.berthDrainComplete
  | drainTimeout => exact j.engine j.drainTimeout
  | berthTrainingComplete => exact j.engine j.berthTrainingComplete
  | kgo => exact .next j.kgo
  | keyLow => exact j.engine j.keyLow
  | keyExhausted => exact j.engine j.keyExhausted
  | remoteRequestAdmission => exact .next j.remoteRequest
  | hostLinkLoss => exact .next j.hostLinkLoss
  | hostLinkReturn => exact .next j.hostLinkReturn
  | cvctlGo => exact .next j.cvctlGo
  | conversionComplete => exact j.engine j.conversionComplete
  | crallocWrite => exact .next j.crallocWrite
  | traceArm => exact .next j.onTrace
  | traceClr => exact .next j.onTrace
  | traceDump => exact .next j.traceDump
  | traceDumpComplete => exact j.engine j.traceDumpComplete
  | mtset => exact .next j.mtset
  | bbclr => exact .next j.bbclr
  | moduleReset => exact .next .moduleReset
  | bootPhaseComplete => exact j.engine j.bootPhaseComplete
  | attest => exact j.engine j.attest
  | enterFullService => exact j.engine j.enterFullService
  | writeRoute => exact j.engine j.writeRoute
  | writeJoinKey => exact j.engine j.writeJoinKey
  | partitionReset => exact .next j.partitionReset
  | dieReset => exact .next j.dieReset
  | registerWrite => exact .next j.registerWrite
  | crossPerformed => exact j.engine j.crossPerformed
  | berthLoss => exact .next j.berthLoss
  | pgateUpdate => exact .next j.pgateUpdate
  | heldWritePerformed => exact j.engine j.heldWritePerformed
  | rollbackComplete => exact j.engine j.rollbackComplete
  | _ => exact nomatch e

end Sys2Proof.Machine.State.Inv

namespace Sys2Proof.Machine

/-- Every event of the list that can come leaves a state that meets the invariant. -/
def AllGive (l : List Cand) : Prop := ∀ o ∈ l, Gives State.Inv o

namespace AllGive

variable {α : Type} {o : Cand} {l m : List Cand}

theorem nil : AllGive [] := nofun
theorem cons (h : Gives State.Inv o) (g : AllGive l) : AllGive (o :: l) := List.forall_mem_cons.mpr ⟨h, g⟩
theorem append (h : AllGive l) (g : AllGive m) : AllGive (l ++ m) := List.forall_mem_append.mpr ⟨h, g⟩
theorem map {f : α → Cand} {l : List α} (h : ∀ a, Gives State.Inv (f a)) : AllGive (l.map f) := List.forall_mem_map.mpr fun a _ => h a

theorem flatMap {f : α → List Cand} {l : List α} (h : ∀ a, AllGive (f a)) : AllGive (l.flatMap f) := fun o e => by
  obtain ⟨a, _, found⟩ := List.mem_flatMap.mp e
  exact h a o found

/-- The states of the events that can come. -/
theorem inv {t : State} (h : AllGive l) (e : t ∈ l.filterMap id) : t.Inv := by
  obtain ⟨o, found, same⟩ := List.mem_filterMap.mp e
  exact h o found t same

end AllGive

namespace State.Inv

variable {s : State} {c k p q : Nat} {w : Seal} {tm : Team} {n : Copy × Nat}

/-! ### Events that come at once -/

theorem finishing (i : s.Inv) : AllGive (finishing s p k) := by
  unfold Machine.finishing
  split
  · exact .cons i.kstepRetire .nil
  · refine .append (.map fun _ => i.copyBurstDone) (.flatMap fun _ => ?_)
    split
    · exact .cons i.homeLineWrite (.cons i.holdBufferEntry .nil)
    · exact .nil
  · exact .flatMap fun _ => .cons i.homeLineRead (.cons i.homeLineWrite (.cons i.atomicApply (.cons i.operationPacket (.cons i.achaseHop
      (.cons i.crucibleAddStep (.cons i.crucibleFinStep (.cons i.jcbRaiseApply (.cons i.jcbPostStep .nil))))))))
  · exact .map fun _ => i.walkComplete
  · exact .nil

theorem dueStops (i : s.Inv) : AllGive (dueStops s p) := by
  unfold Machine.dueStops
  split
  · exact .nil
  · refine .append (.map fun _ => i.engineStop) (.flatMap fun _ => .cons i.engineStop ?_)
    split
    · exact .nil
    · exact i.finishing

theorem promptPart (i : s.Inv) : AllGive (promptPart s p) :=
  .append (.append (.append (.append i.dueStops (.map fun _ => i.queueAging)) (.map fun _ => i.iterationAging))
    (.flatMap fun _ => .cons i.sliceExpiry (.cons i.pwaitExpiry .nil))) (.cons i.sealTimerExpiry .nil)

theorem promptEvents (i : s.Inv) : AllGive (promptEvents s) :=
  .append (.append (.append (.append (.append (.map fun _ => i.traceFreeze) (.flatMap fun _ => i.promptPart))
    (.flatMap fun _ => .cons i.refusalRetry (.cons i.endToEndRetry .nil))) (.flatMap fun _ => .cons i.waitExpiry (.cons i.waitExpiry .nil)))
    (.map fun _ => i.fabricTimeoutAny)) (.flatMap fun _ => .cons i.drainTimeout (.cons i.keyLow (.cons i.keyExhausted .nil)))

/-! ### Events of which one is picked -/

theorem coreEvents (i : s.Inv) : AllGive (coreEvents s c) := by
  refine .append (.cons i.mgoNestStart (.cons i.kstepStart (.cons i.kstepRetire (.cons i.crossPerformed (.cons i.quiesceReturn .nil))))) ?_
  split
  · exact .flatMap fun _ => .cons i.portEntryArrival (.cons i.streamWritePerformed (.cons i.ringSlotCommit (.cons i.ringSlotFree .nil)))
  · exact .nil

theorem fabricEvents (i : s.Inv) : AllGive (fabricEvents s k) :=
  .cons i.homeLineRead (.cons i.homeLineWrite (.cons i.holdBufferEntry (.cons i.putPacketArrival (.cons i.lsigArrival (.cons i.putAck
    (.cons i.atomicApply (.cons i.atomicReply (.cons i.operationPacket (.cons i.achaseHop (.cons i.crucibleAddStep (.cons i.crucibleFinStep
      (.cons i.jcbRaiseApply (.cons i.jcbPostStep (.cons i.nlaunchAppend (.cons i.sourceRelease .nil)))))))))))))))

theorem copyEvents (i : s.Inv) : AllGive (copyEvents s n) :=
  .append (.cons i.copyBurstDone (.cons i.copyRtRetry .nil)) (.flatMap fun _ => .map fun _ => i.gatherPacket)

theorem queueEvents (i : s.Inv) : AllGive (queueEvents s p q) :=
  .cons i.nestRecordStart (.cons i.graphLaunch (.cons i.copyRecordStart (.cons i.queueFence (.cons i.levelSwitch
    (.cons i.sealRequestPacket (.cons i.retireLogWrite .nil))))))

theorem teamEvents (i : s.Inv) : AllGive (teamEvents s p tm) :=
  .append (.cons i.teamRetire (.cons i.preemptSave (.cons i.preemptSaveComplete (.cons i.preemptRestore (.cons i.sbalRun
    (.cons i.sbalComplete .nil)))))) (.map fun _ => i.rendezvousArrival)

theorem replyEvents (i : s.Inv) : AllGive (replyEvents s p w) := .map fun _ => i.prepareReply

theorem sealEvents (i : s.Inv) : AllGive (sealEvents s p) := by
  refine .append (.cons i.sealDrainComplete (.cons i.prepare (.cons i.commit (.cons i.committed (.cons i.free (.cons i.rollbackComplete .nil)))))) ?_
  split
  · exact i.replyEvents
  · exact .nil

theorem partEvents (i : s.Inv) : AllGive (partEvents s p) := by
  refine .append (.append (.append (.append (.append (.append (.append (.flatMap fun _ => i.queueEvents) (.cons i.levelSwitchComplete .nil))
    (.map fun _ => i.teamLaunch)) (.flatMap fun _ => i.teamEvents)) (.flatMap fun _ => .map fun _ => i.signalAccepted)) ?_)
    (.cons i.haltComplete (.cons i.haltDumpComplete .nil))) i.sealEvents
  split
  · exact .map fun _ => i.engineStop
  · exact .nil

theorem engineEvents (i : s.Inv) : AllGive (engineEvents s) := by
  have cores : AllGive ((busyCores s).flatMap (Machine.coreEvents s) ++ s.cores.map fun e => Machine.traceDumpComplete e.1 s) :=
    .append (.flatMap fun _ => i.coreEvents) (.map fun _ => i.traceDumpComplete)
  have invals : AllGive (s.invals.zipIdx.flatMap fun e => Machine.vainvComplete e.2 s ::
      (e.1.todo.map fun d => Machine.dieInvalidate e.2 d s) ++ (e.1.waiting.map fun d => Machine.invalidateAck e.2 d s)) :=
    .flatMap fun _ => .append (.cons i.vainvComplete (.map fun _ => i.dieInvalidate)) (.map fun _ => i.invalidateAck)
  have boot : AllGive [Machine.attest s, Machine.enterFullService s, Machine.writeRoute s, Machine.writeJoinKey s, Machine.bootPhaseComplete 0 s] :=
    .cons i.attest (.cons i.enterFullService (.cons i.writeRoute (.cons i.writeJoinKey (.cons i.bootPhaseComplete .nil))))
  exact .append (.append (.append (.append (.append (.append (.append (.append (.append (.append cores (.flatMap fun _ => i.fabricEvents))
    (.flatMap fun _ => i.copyEvents)) (.map fun _ => i.walkComplete)) invals) (.flatMap fun _ => i.partEvents)) (.map fun _ => i.metaSweep))
    (.map fun _ => i.heldWritePerformed)) (.map fun _ => i.berthDrainComplete)) (.map fun _ => i.conversionComplete)) boot

/-- Any event that `pickEvent` picks is one of `engineEvents`. -/
theorem pickEvent {t : State} (i : s.Inv) (e : pickEvent s = .event t) : t.Inv := by
  have counted : State.Inv { s with free := s.free + 1 } := i.of_eq rfl rfl
  unfold Machine.pickEvent at e
  split at e
  · exact nomatch e
  · split at e
    next l _ u found => exact Picked.event.inj e ▸ counted.engineEvents.inv (List.mem_of_getElem? found)
    · exact nomatch e

/-! ### Cores, cycles and the step -/

theorem coreTurn (i : s.Inv) : GivesInv (coreTurn c s) := by
  have turned : State.Inv (Machine.coreEngines c { s with turn := c + 1 }) := .coreEngines (i.of_eq rfl rfl)
  exact .ite turned.issue (.next turned)

theorem sendMessages (i : s.Inv) : (sendMessages s).Inv := .ite i (i.of_eq rfl rfl)

theorem engineTurns (i : s.Inv) : (engineTurns s).Inv :=
  .extendCycle (.sendMessages (.noteHostWaits (.noteWaits (State.Inv.foldl (fun _ _ i => i.copyTurn) _
    (State.Inv.foldl (fun _ _ i => i.pilotTurn.recoveryTurn) _ i)))))

theorem drainTraces (i : s.Inv) : (drainTraces s).Inv := State.Inv.foldl (fun _ _ i => .ite i i.onTrace) _ i
theorem endCycle (i : s.Inv) : (endCycle s).Inv := i.drainTraces.engineTurns.wake.countInjected.tick.of_eq rfl rfl

theorem idleStep (i : s.Inv) : GivesInv (idleStep s) := by
  unfold Machine.idleStep
  split
  · exact i.coreTurn
  · exact .next i.endCycle

theorem ownStep (i : s.Inv) : GivesInv (ownStep s) := by
  unfold Machine.ownStep
  split
  next t l e => exact .next (i.promptEvents.inv (e ▸ List.mem_cons_self))
  · split
    next e => exact .next (i.pickEvent e)
    · exact .idleStep (i.of_eq rfl rfl)
    · exact i.idleStep

theorem step (i : s.Inv) : GivesInv (step s) := by
  unfold Machine.step
  split
  next j l _ =>
    have taken : State.Inv { s with agenda := l } := i.of_eq rfl rfl
    refine .ite ?_ i.ownStep
    split
    · exact .next taken
    next e => exact .ite (taken.execEvent e) (.next taken)
  · exact i.ownStep

end State.Inv

/-- Settles O45: every function that the step composes keeps the canonical forms, so the step does. -/
theorem stepKeepsInvariant : Obligations.StepKeepsInvariant := fun _ t i e => i.step t e

end Sys2Proof.Machine

/-! ## The scalar engine (R165 to R181) -/

namespace Sys2Proof.Machine.Scalar

variable {h : Hdr} {f : F3} {g : FI} {s : State} {x : Ctx} {i : Instr} {l w : Nat} {v : Word}

/-! ### The operation of each instruction -/

theorem exec_add : exec (.add h f) s = alu h f s 1 (· + ·) := rfl
theorem exec_sub : exec (.sub h f) s = alu h f s 1 (· - ·) := rfl
theorem exec_and : exec (.and h f) s = alu h f s 1 (· &&& ·) := rfl
theorem exec_or : exec (.or h f) s = alu h f s 1 (· ||| ·) := rfl
theorem exec_xor : exec (.xor h f) s = alu h f s 1 (· ^^^ ·) := rfl
theorem exec_sll : exec (.sll h f) s = alu h f s 1 fun a b => a <<< sh6 b := rfl
theorem exec_srl : exec (.srl h f) s = alu h f s 1 fun a b => a >>> sh6 b := rfl
theorem exec_sra : exec (.sra h f) s = alu h f s 1 fun a b => a.sshiftRight (sh6 b) := rfl
theorem exec_mul : exec (.mul h f) s = alu h f s 3 (· * ·) := rfl
theorem exec_mulh : exec (.mulh h f) s = alu h f s 3 mulHS := rfl
theorem exec_mulhu : exec (.mulhu h f) s = alu h f s 3 mulHU := rfl
theorem exec_div : exec (.div h f) s = alu h f s 14 divS := rfl
theorem exec_divu : exec (.divu h f) s = alu h f s 14 divU := rfl
theorem exec_rem : exec (.rem h f) s = alu h f s 14 remS := rfl
theorem exec_remu : exec (.remu h f) s = alu h f s 14 remU := rfl
theorem exec_min : exec (.min h f) s = alu h f s 1 fun a b => if b.slt a then b else a := rfl
theorem exec_max : exec (.max h f) s = alu h f s 1 fun a b => if a.slt b then b else a := rfl
theorem exec_minu : exec (.minu h f) s = alu h f s 1 fun a b => if b.ult a then b else a := rfl
theorem exec_maxu : exec (.maxu h f) s = alu h f s 1 fun a b => if a.ult b then b else a := rfl
theorem exec_clz : exec (.clz h f) s = alu h f s 1 fun a _ => BitVec.ofNat 64 (clz a) := rfl
theorem exec_popc : exec (.popc h f) s = alu h f s 1 fun a _ => BitVec.ofNat 64 (popCount a.toNat 64) := rfl
theorem exec_addsc : exec (.addsc h f) s = alu h f s 1 fun a b => a + b <<< f.sub.toNat := rfl
theorem exec_xmv : exec (.xmv h f) s = alu h f s 2 fun a _ => a := rfl

theorem exec_addi : exec (.addi h g) s = aluI h g s (· + ·) := rfl
theorem exec_andi : exec (.andi h g) s = aluI h g s (· &&& ·) := rfl
theorem exec_ori : exec (.ori h g) s = aluI h g s (· ||| ·) := rfl
theorem exec_xori : exec (.xori h g) s = aluI h g s (· ^^^ ·) := rfl
theorem exec_slli : exec (.slli h g) s = aluI h g s fun a b => a <<< sh6 b := rfl
theorem exec_srli : exec (.srli h g) s = aluI h g s fun a b => a >>> sh6 b := rfl
theorem exec_srai : exec (.srai h g) s = aluI h g s fun a b => a.sshiftRight (sh6 b) := rfl
theorem exec_li : exec (.li h g) s = aluI h g s fun _ b => b := rfl
theorem exec_lih : exec (.lih h g) s = aluI h g s fun a b => b <<< 34 ||| a &&& BitVec.ofNat 64 (2 ^ 34 - 1) := rfl

theorem exec_cmp : exec (.cmp h f) s = execCmp h f s := rfl
theorem exec_cmpi : exec (.cmpi h g) s = execCmpi h g s := rfl
theorem exec_sel : exec (.sel h f) s = execSel h f s := rfl

theorem exec_fadd : exec (.fadd h f) s = fp32 .add 4 h f s := rfl
theorem exec_fsub : exec (.fsub h f) s = fp32 .sub 4 h f s := rfl
theorem exec_fmul : exec (.fmul h f) s = fp32 .mul 4 h f s := rfl
theorem exec_ffma : exec (.ffma h f) s = fp32 .fma 4 h f s := rfl
theorem exec_fdiv : exec (.fdiv h f) s = fp32 .div 14 h f s := rfl
theorem exec_fsqrt : exec (.fsqrt h f) s = fp32 .sqrt 14 h f s := rfl

/-- The FP32 instructions of one rounding, with their latencies (R178). -/
theorem exec_eq_fp32 : ∀ r ∈ [(FpOp.add, 4, Instr.fadd h f), (.sub, 4, .fsub h f), (.mul, 4, .fmul h f), (.fma, 4, .ffma h f),
    (.div, 14, .fdiv h f), (.sqrt, 14, .fsqrt h f)], exec r.2.2 s = fp32 r.1 r.2.1 h f s := by
  simp only [List.forall_mem_cons, exec_fadd, exec_fsub, exec_fmul, exec_ffma, exec_fdiv, exec_fsqrt, List.not_mem_nil,
    true_and, false_imp_iff, implies_true]

theorem exec_fmin : exec (.fmin h f) s = fp32MinMax false h f s := rfl
theorem exec_fmax : exec (.fmax h f) s = fp32MinMax true h f s := rfl
theorem exec_fcmp : exec (.fcmp h f) s = execFcmp h f s := rfl
theorem exec_fcvt : exec (.fcvt h f) s = execFcvt h f s := rfl

/-! ### What an instruction that acts puts in flight -/

/-- A three-register operation whose value on the operands is `v`. -/
theorem exec_of_alu {op : Word → Word → Word} (d : exec i s = alu h f s l op) (a : Acts s h x) (e : op (x.rs f.b) (x.rs f.c) = v) :
    exec i s = .next (s.put (x.putS h l f.a v)) :=
  d.trans (syl_ok a (e ▸ rfl))

/-- An operation with an immediate whose value on the operands is `v`. -/
theorem exec_of_aluI {op : Word → Word → Word} (d : exec i s = aluI h g s op) (a : Acts s h x) (e : op (x.rs g.b) (g.imm.signExtend 64) = v) :
    exec i s = .next (s.put (x.putS h 1 g.a v)) :=
  d.trans (syl_ok a (e ▸ rfl))

/-- One rounding of the operands' low 32 bits (R178). -/
theorem exec_of_fp32 {op : FpOp} (d : exec i s = fp32 op l h f s) (a : Acts s h x) :
    exec i s = .next (s.put (x.sendS h l f.a (.rnd 32
      [(0, (fpRound op 0 f.rnd.toNat f.s f.fi f.fo 0 ((x.rs f.b).toNat % 2 ^ 32) ((x.rs f.c).toNat % 2 ^ 32) ((x.rs f.d).toNat % 2 ^ 32)).1)]
      (fpRound op 0 f.rnd.toNat f.s f.fi f.fo 0 ((x.rs f.b).toNat % 2 ^ 32) ((x.rs f.c).toNat % 2 ^ 32) ((x.rs f.d).toNat % 2 ^ 32)).2))) :=
  d.trans (syl_ok a rfl)

/-- The smaller or larger code of the operands' low 32 bits (R179). -/
theorem exec_of_fp32MinMax {mx : Bool} (d : exec i s = fp32MinMax mx h f s) (a : Acts s h x) :
    exec i s = .next (s.put (x.sendS h 2 f.a (.now
      (fpMinMax mx f.fi 0 ((x.rs f.b).toNat % 2 ^ 32) ((x.rs f.c).toNat % 2 ^ 32)).1
      (fpMinMax mx f.fi 0 ((x.rs f.b).toNat % 2 ^ 32) ((x.rs f.c).toNat % 2 ^ 32)).2))) :=
  d.trans (syl_ok a rfl)

/-! ### Multiplication and division (R169, R170) -/

section
variable (a b : Word)

theorem mul_eq_ofInt : a * b = BitVec.ofInt 64 (a.toInt * b.toInt) := by simp [BitVec.ofInt_mul]

/-- The signed quotient is the truncated one modulo 2 to the width, also where it overflows. -/
theorem sdiv_eq_ofInt : a.sdiv b = BitVec.ofInt 64 (a.toInt.tdiv b.toInt) :=
  BitVec.eq_of_toInt_eq (by rw [BitVec.toInt_sdiv, BitVec.toInt_ofInt])

theorem srem_eq_ofInt : a.srem b = BitVec.ofInt 64 (a.toInt - b.toInt * a.toInt.tdiv b.toInt) := by
  rw [← Int.tmod_def, ← BitVec.toInt_srem, BitVec.ofInt_toInt]

theorem udiv_eq_ofNat : a.udiv b = BitVec.ofNat 64 (a.toNat / b.toNat) :=
  BitVec.eq_of_toNat_eq (by
    have lt : a.toNat / b.toNat < 2 ^ 64 := Nat.lt_of_le_of_lt (Nat.div_le_self ..) a.isLt
    rw [BitVec.udiv_eq, BitVec.toNat_udiv, BitVec.toNat_ofNat, Nat.mod_eq_of_lt lt])

theorem umod_eq_ofNat : a.umod b = BitVec.ofNat 64 (a.toNat - b.toNat * (a.toNat / b.toNat)) :=
  BitVec.eq_of_toNat_eq (by
    have lt : a.toNat % b.toNat < 2 ^ 64 := Nat.lt_of_le_of_lt (Nat.mod_le ..) a.isLt
    rw [← Nat.mod_eq_sub, BitVec.umod_eq, BitVec.toNat_umod, BitVec.toNat_ofNat, Nat.mod_eq_of_lt lt])

theorem divS_eq : divS a b = if b = 0 then BitVec.allOnes 64 else BitVec.ofInt 64 (a.toInt.tdiv b.toInt) := by
  rw [divS, sdiv_eq_ofInt]

theorem divU_eq : divU a b = if b = 0 then BitVec.allOnes 64 else BitVec.ofNat 64 (a.toNat / b.toNat) := by
  rw [divU, udiv_eq_ofNat]

theorem remS_eq : remS a b = if b = 0 then a else BitVec.ofInt 64 (a.toInt - b.toInt * a.toInt.tdiv b.toInt) := by
  rw [remS, srem_eq_ofInt]

theorem remU_eq : remU a b = if b = 0 then a else BitVec.ofNat 64 (a.toNat - b.toNat * (a.toNat / b.toNat)) := by
  rw [remU, umod_eq_ofNat]

end

/-- Settles O17: each product and quotient is that of the operands' integers, reduced to a word. -/
theorem scalarMulDiv : Obligations.ScalarMulDiv := fun _ _ _ _ a =>
  ⟨exec_of_alu exec_mul a (mul_eq_ofInt ..), exec_of_alu exec_mulh a rfl, exec_of_alu exec_mulhu a rfl,
    exec_of_alu exec_div a (divS_eq ..), exec_of_alu exec_divu a (divU_eq ..),
    exec_of_alu exec_rem a (remS_eq ..), exec_of_alu exec_remu a (remU_eq ..)⟩

/-! ### Counts of bits and constants (R169, R171) -/

theorem clz_zero : clz 0 = 64 := rfl

/-- A word that is not zero has its highest set bit below its leading zeros. -/
theorem log2_add_clz {a : Word} (ne : a ≠ 0) : a.toNat.log2 + clz a = 63 := by
  have lt : a.toNat.log2 < 64 := (Nat.log2_lt (by simpa [← BitVec.toNat_inj] using ne)).2 a.isLt
  rw [clz, if_neg ne]
  omega

theorem clz_le (a : Word) : clz a ≤ 64 := by
  unfold clz
  split <;> omega

theorem toNat_lt_two_pow_clz (a : Word) : a.toNat < 2 ^ (64 - clz a) := by
  by_cases ne : a = 0
  · rw [ne, clz_zero]; decide
  · rw [show 64 - clz a = a.toNat.log2 + 1 by have := log2_add_clz ne; omega]
    exact Nat.lt_log2_self

theorem two_pow_clz_le_toNat {a : Word} (n : clz a < 64) : 2 ^ (63 - clz a) ≤ a.toNat := by
  have ne : a ≠ 0 := fun e => absurd n (by rw [e, clz_zero]; decide)
  rw [← log2_add_clz ne, Nat.add_sub_cancel]
  exact Nat.log2_self_le (by simpa [← BitVec.toNat_inj] using ne)

theorem popCount_eq (v n : Nat) : popCount v n = ((List.range n).filter v.testBit).length := by
  induction n with
  | zero => rfl
  | succ n ih => cases t : v.testBit n <;> simp [popCount, List.range_succ, ih, t]

/-- Sign extension keeps an immediate whose sign bit is clear. -/
theorem toNat_signExtend_of_lt {n : BitVec 34} (lt : n.toNat < 2 ^ 33) : (n.signExtend 64).toNat = n.toNat := by
  have positive : n.msb = false := by rw [BitVec.msb_eq_decide]; exact decide_eq_false (by omega)
  rw [BitVec.signExtend_eq_setWidth_of_msb_false positive, BitVec.toNat_setWidth]
  omega

/-- The two parts of LIH's value share no bit, so that their disjunction is their sum (R171). -/
theorem shiftLeft_or_low_eq {n : BitVec 34} (a : Word) (lt : n.toNat < 2 ^ 30) :
    n.signExtend 64 <<< 34 ||| a &&& BitVec.ofNat 64 (2 ^ 34 - 1) = BitVec.ofNat 64 (n.toNat * 2 ^ 34 + a.toNat % 2 ^ 34) := by
  have low : a.toNat % 2 ^ 34 < 2 ^ 34 := Nat.mod_lt _ (by decide)
  have high : n.signExtend 64 <<< 34 = BitVec.ofNat 64 (n.toNat <<< 34) :=
    BitVec.eq_of_toNat_eq (by rw [BitVec.toNat_shiftLeft, toNat_signExtend_of_lt (Nat.lt_trans lt (by decide)), BitVec.toNat_ofNat])
  rw [high, ← Nat.shiftLeft_eq, Nat.shiftLeft_add_eq_or_of_lt low, ← Nat.and_two_pow_sub_one_eq_mod, BitVec.ofNat_or, BitVec.ofNat_and,
    BitVec.ofNat_toNat, BitVec.setWidth_eq]

/-- Settles O18: `clz a` is the count that bounds the operand between two powers of two, and the rest is the value of the operation. -/
theorem scalarCountsAndConstants : Obligations.ScalarCountsAndConstants :=
  ⟨fun _ _ f x a => ⟨⟨clz (x.rs f.b), clz_le _, exec_of_alu exec_clz a rfl, toNat_lt_two_pow_clz _, two_pow_clz_le_toNat⟩,
      exec_of_alu exec_popc a (congrArg (BitVec.ofNat 64) (popCount_eq (x.rs f.b).toNat 64))⟩,
    fun _ _ _ _ a => ⟨exec_of_aluI exec_li a rfl, fun lt => exec_of_aluI exec_lih a (shiftLeft_or_low_eq _ lt)⟩⟩

/-! ### Decoding -/

/-- Settles O3: the decoder is run on each word. -/
theorem wordsOfTheSpec : Obligations.WordsOfTheSpec := by
  unfold Obligations.WordsOfTheSpec
  decide

/-! ### Minimum, maximum and shift distances (R169) -/

theorem ult_iff_toNat_lt {a b : BitVec w} : a.ult b = true ↔ a.toNat < b.toNat := by
  rw [BitVec.ult_eq_decide, decide_eq_true_iff]

section
variable (a b : BitVec w)

theorem ite_slt_eq_min : (if b.slt a then b else a) = BitVec.ofInt w (min a.toInt b.toInt) := by
  by_cases lt : b.toInt < a.toInt
  · rw [if_pos (BitVec.slt_iff_toInt_lt.2 lt), Int.min_eq_right (Int.le_of_lt lt), BitVec.ofInt_toInt]
  · rw [if_neg (mt BitVec.slt_iff_toInt_lt.1 lt), Int.min_eq_left (Int.not_lt.1 lt), BitVec.ofInt_toInt]

theorem ite_slt_eq_max : (if a.slt b then b else a) = BitVec.ofInt w (max a.toInt b.toInt) := by
  by_cases lt : a.toInt < b.toInt
  · rw [if_pos (BitVec.slt_iff_toInt_lt.2 lt), Int.max_eq_right (Int.le_of_lt lt), BitVec.ofInt_toInt]
  · rw [if_neg (mt BitVec.slt_iff_toInt_lt.1 lt), Int.max_eq_left (Int.not_lt.1 lt), BitVec.ofInt_toInt]

theorem ite_ult_eq_min : (if b.ult a then b else a) = BitVec.ofNat w (min a.toNat b.toNat) := by
  by_cases lt : b.toNat < a.toNat
  · rw [if_pos (ult_iff_toNat_lt.2 lt), Nat.min_eq_right (Nat.le_of_lt lt), BitVec.ofNat_toNat, BitVec.setWidth_eq]
  · rw [if_neg (mt ult_iff_toNat_lt.1 lt), Nat.min_eq_left (Nat.not_lt.1 lt), BitVec.ofNat_toNat, BitVec.setWidth_eq]

theorem ite_ult_eq_max : (if a.ult b then b else a) = BitVec.ofNat w (max a.toNat b.toNat) := by
  by_cases lt : a.toNat < b.toNat
  · rw [if_pos (ult_iff_toNat_lt.2 lt), Nat.max_eq_right (Nat.le_of_lt lt), BitVec.ofNat_toNat, BitVec.setWidth_eq]
  · rw [if_neg (mt ult_iff_toNat_lt.1 lt), Nat.max_eq_left (Nat.not_lt.1 lt), BitVec.ofNat_toNat, BitVec.setWidth_eq]

end

theorem sh6_signExtend {n : BitVec 34} (lt : n.toNat < 64) : sh6 (n.signExtend 64) = n.toNat := by
  rw [sh6, toNat_signExtend_of_lt (Nat.lt_trans lt (by decide)), Nat.mod_eq_of_lt lt]

/-! ### Conditions (R172, R173, Table 6.3) -/

/-- `sext` on a word's number is the word's signed value. -/
theorem sext_toNat (a : BitVec w) : sext w a.toNat = a.toInt := by
  rw [sext, Nat.mod_eq_of_lt a.isLt, BitVec.toInt_eq_msb_cond, BitVec.msb_eq_getLsbD_last]
  rfl

/-- CMPI's condition code stands in bits 33:30 of its immediate (R172). -/
theorem extractLsb'_condition (n : BitVec 34) : (n.extractLsb' 30 4).toNat = n.toNat >>> 30 := by
  rw [BitVec.extractLsb'_toNat, Nat.shiftRight_eq_div_pow]
  omega

theorem cmp_acts (a : Acts s h x) :
    execCmp h f s = .next (s.put (x.putP h 1 f.a (intCond f.sub.toNat 64 (x.rs f.b).toNat (x.rs f.c).toNat))) :=
  syl_ok a rfl

theorem cmpi_acts (a : Acts s h x) : execCmpi h g s = .next (s.put (x.putP h 1 g.a
    (intCond (g.imm.extractLsb' 30 4).toNat 64 (x.rs g.b).toNat ((g.imm.extractLsb' 0 30).signExtend 64).toNat))) := by
  rw [extractLsb'_condition]
  exact syl_ok a rfl

theorem sel_acts (a : Acts s h x) :
    execSel h f s = .next (s.put (x.putS h 1 f.a (if (x.rp f.d ^^ f.sub.getLsbD 0) = true then x.rs f.b else x.rs f.c))) :=
  syl_ok a rfl

/-- Settles O16: each value is that of the operation, and a condition on words compares their signed or unsigned numbers. -/
theorem scalarIntegerAndCompare : Obligations.ScalarIntegerAndCompare := by
  refine ⟨⟨fun s h f x a => ?registers, fun s h f x a => ?immediates⟩,
    fun s h f x a => ?compare, fun s h f x a => exec_cmpi.trans (cmpi_acts a), fun a b => ?conditions⟩
  case registers =>
    exact ⟨exec_of_alu exec_add a rfl, exec_of_alu exec_sub a rfl, exec_of_alu exec_and a rfl, exec_of_alu exec_or a rfl, exec_of_alu exec_xor a rfl,
      exec_of_alu exec_sll a rfl, exec_of_alu exec_srl a rfl, exec_of_alu exec_sra a rfl,
      exec_of_alu exec_min a (ite_slt_eq_min ..), exec_of_alu exec_max a (ite_slt_eq_max ..),
      exec_of_alu exec_minu a (ite_ult_eq_min ..), exec_of_alu exec_maxu a (ite_ult_eq_max ..),
      exec_of_alu exec_addsc a rfl, exec_of_alu exec_xmv a rfl⟩
  case immediates =>
    refine ⟨exec_of_aluI exec_addi a rfl, exec_of_aluI exec_andi a rfl, exec_of_aluI exec_ori a rfl, exec_of_aluI exec_xori a rfl, fun lt => ?_⟩
    have distance := sh6_signExtend lt
    exact ⟨exec_of_aluI exec_slli a (by rw [distance]), exec_of_aluI exec_srli a (by rw [distance]), exec_of_aluI exec_srai a (by rw [distance])⟩
  case compare => exact ⟨exec_cmp.trans (cmp_acts a), exec_sel.trans (sel_acts a)⟩
  case conditions => simp [intCond, sext_toNat, Nat.mod_eq_of_lt a.isLt, Nat.mod_eq_of_lt b.isLt, BitVec.toNat_inj]

/-! ### FP32 (R178 to R181) -/

theorem fcmp_acts (a : Acts s h x) : execFcmp h f s = .next (s.put (x.putP h 2 f.a
    (floatCond f.sub.toNat (decodeF f.fi 0 ((x.rs f.b).toNat % 2 ^ 32)) (decodeF f.fi 0 ((x.rs f.c).toNat % 2 ^ 32)))
    (snanFlag 0 ((x.rs f.b).toNat % 2 ^ 32) ||| snanFlag 0 ((x.rs f.c).toNat % 2 ^ 32)))) :=
  syl_ok a rfl

/-- The destination formats whose codes are sign-extended are I8, I16 and I32 (R181). -/
theorem fcvt_acts {r : Rounding} {fl : Flags} (a : Acts s h x)
    (e : convert f.d.toNat f.fmt.toNat f.rnd.toNat f.s f.fi f.fo 0 ((x.rs f.b).toNat % 2 ^ fmtWidth f.d.toNat) = (r, fl)) :
    execFcvt h f s = .next (s.put (x.sendS h 3 f.a
      (if f.fmt = 6 ∨ f.fmt = 7 ∨ f.fmt = 8 then .sx r fl else .rnd (fmtWidth f.fmt.toNat) [(0, r)] fl))) := by
  simp only [← BitVec.toNat_inj]
  exact syl_ok a (by simp only [e]; rfl)

/-- Settles O20: each FP32 instruction is its operation on the operands' low 32 bits. -/
theorem scalarFloat : Obligations.ScalarFloat := by
  rintro s h f x _ _ _ a rfl rfl rfl
  exact ⟨fun op l i row => exec_of_fp32 (exec_eq_fp32 _ row) a, exec_of_fp32MinMax exec_fmin a, exec_of_fp32MinMax exec_fmax a,
    exec_fcmp.trans (fcmp_acts a), fun r fl e => exec_fcvt.trans (fcvt_acts a e)⟩

end Sys2Proof.Machine.Scalar

/-! ## The vector engine (R185 to R215) -/

namespace Sys2Proof.Machine.VectorEngine

variable {h : Hdr} {f : F3} {s : State} {x y : Ctx} {ls : List Loc} {l m3 w fmt : Nat}

/-! ### What a vector instruction that acts puts in flight -/

section
variable {reads : List (BitVec 7)}

/-- A result of values on the operands, which do not depend on the ports to be popped (R186). -/
theorem vValues_acts {go : Ctx → List (Nat × Flags)} {vs : List (Nat × Flags)} (a : Acts s h x) (o : Operands x reads [f.a] h.t y ls)
    (e : ∀ p, go { x with pops := p } = vs := by intro; rfl) :
    vValues h s f l (fmtWidth f.fmt.toNat) reads go = .next (s.put (y.lanes x h f l ls vs)) :=
  syl_ok a (vframe_ok o fun p => congrArg Act.ok (e p))

/-- A result of one rounding for each element (R193, R196). -/
theorem vRounds_acts {go : Ctx → List (Rounding × Flags)} {vs : List (Rounding × Flags)} (a : Acts s h x) (o : Operands x reads [f.a] h.t y ls)
    (e : ∀ p, go { x with pops := p } = vs := by intro; rfl) :
    vRounds h s f l m3 (fmtWidth f.fmt.toNat) reads go = .next (s.put (y.roundings x h f l m3 ls vs)) :=
  syl_ok a (vframe_ok o fun p => congrArg Act.ok (e p))

/-- A compare into a lane mask (R192, R195). -/
theorem vCompare_acts {go : Ctx → List (Bool × Flags)} {cs : List (Bool × Flags)} (a : Acts s h x) (o : Operands x [f.b, f.c] [] false y ls)
    (e : ∀ p, go { x with pops := p } = cs := by intro; rfl) :
    vCompare h s f w go = .next (s.put (y.putK h 2 f.a.toNat (if zOf f then 2 ^ 128 - 1 else (kmOf x f).toNat)
      (laneBits (f.d.getLsbD 4) w (cs.map Prod.fst) &&& (kmOf x f).toNat) (flagsOn (enabled (kmOf x f) w (4096 / w)) (cs.map Prod.snd)))) :=
  syl_ok a (vframe_ok o fun p => congrArg Act.ok (e p))

end

/-! ### The operation of each lane integer instruction (R190, R191) -/

theorem exec_vadd : exec (.vadd h f) s = vInt h f s 2 fun _ _ a b => a + b := rfl
theorem exec_vsub : exec (.vsub h f) s = vInt h f s 2 fun _ w a b => a + 2 ^ w - b := rfl
theorem exec_vmul : exec (.vmul h f) s = vInt h f s 3 fun _ _ a b => a * b := rfl
theorem exec_vmulh : exec (.vmulh h f) s = vInt h f s 3 fun fmt w a b => modPow w (intOf fmt w a * intOf fmt w b / ((2 ^ w : Nat) : Int)) := rfl
theorem exec_vmin : exec (.vmin h f) s = vInt h f s 2 intMin := rfl
theorem exec_vmax : exec (.vmax h f) s = vInt h f s 2 intMax := rfl
theorem exec_vadds : exec (.vadds h f) s = vInt h f s 2 fun fmt w a b => saturate fmt w (intOf fmt w a + intOf fmt w b) := rfl
theorem exec_vsubs : exec (.vsubs h f) s = vInt h f s 2 fun fmt w a b => saturate fmt w (intOf fmt w a - intOf fmt w b) := rfl
theorem exec_vand : exec (.vand h f) s = vInt h f s 2 fun _ _ a b => a &&& b := rfl
theorem exec_vor : exec (.vor h f) s = vInt h f s 2 fun _ _ a b => a ||| b := rfl
theorem exec_vxor : exec (.vxor h f) s = vInt h f s 2 fun _ _ a b => a ^^^ b := rfl
theorem exec_vsll : exec (.vsll h f) s = vInt h f s 2 fun _ w a b => a <<< (b % w) := rfl
theorem exec_vsrl : exec (.vsrl h f) s = vInt h f s 2 fun _ w a b => a >>> (b % w) := rfl
theorem exec_vsra : exec (.vsra h f) s = vInt h f s 2 fun _ w a b => modPow w (sext w a >>> (b % w)) := rfl

/-! ### Elements of a register -/

theorem lt_of_mem_elemsOf {v n c : Nat} (m : c ∈ elemsOf w v n) : c < 2 ^ w := by
  induction n generalizing v with
  | zero => cases m
  | succ n ih =>
    rcases List.mem_cons.1 m with rfl | m
    · exact Nat.mod_lt _ (Nat.two_pow_pos w)
    · exact ih m

theorem lt_of_mem_vElems {v : VReg} {c : Nat} (m : c ∈ vElems w v) : c < 2 ^ w := lt_of_mem_elemsOf m

/-- Two functions that agree on pairs of codes of `w` bits agree on the elements of two registers. -/
theorem zipWith_vElems_congr {α : Type} {g k : Nat → Nat → α} {u v : VReg} (e : ∀ a < 2 ^ w, ∀ b < 2 ^ w, g a b = k a b) :
    List.zipWith g (vElems w u) (vElems w v) = List.zipWith k (vElems w u) (vElems w v) := by
  rw [← List.map_uncurry_zip_eq_zipWith, ← List.map_uncurry_zip_eq_zipWith]
  refine List.map_congr_left fun p m => ?_
  obtain ⟨left, right⟩ := List.of_mem_zip m
  exact e _ (lt_of_mem_vElems left) _ (lt_of_mem_vElems right)

/-- A lane integer operation whose value on codes of the format's width is `g` (R190, R191). -/
theorem vInt_acts {op : Nat → Nat → Nat → Nat → Nat} {g : Nat → Nat → Nat} (a : Acts s h x) (o : Operands x [f.b, f.c] [f.a] h.t y ls)
    (e : ∀ a < 2 ^ fmtWidth f.fmt.toNat, ∀ b < 2 ^ fmtWidth f.fmt.toNat,
      op f.fmt.toNat (fmtWidth f.fmt.toNat) a b % 2 ^ fmtWidth f.fmt.toNat = g a b) :
    vInt h f s l op = .next (s.put (y.lanes x h f l ls (List.zipWith (fun a b => (g a b, 0))
      (vElems (fmtWidth f.fmt.toNat) (x.rvec f.b)) (vElems (fmtWidth f.fmt.toNat) (x.rvec f.c))))) :=
  vValues_acts a o fun _ => zipWith_vElems_congr fun a la b lb => congrArg (·, 0) (e a la b lb)

/-! ### Integers modulo a power of two -/

section
variable {a b : Nat} {i j : Int}

theorem natCast_two_pow (n : Nat) : ((2 ^ n : Nat) : Int) = 2 ^ n := Int.natCast_pow 2 n

theorem modPow_natCast (n : Nat) : modPow w n = n % 2 ^ w := by
  rw [modPow, ← Int.natCast_emod, Int.toNat_natCast]

theorem modPow_lt (i : Int) : modPow w i < 2 ^ w := by
  have pos : (0 : Int) < ((2 ^ w : Nat) : Int) := Int.natCast_pos.2 (Nat.two_pow_pos w)
  exact (Int.toNat_lt (Int.emod_nonneg i (Int.ne_of_gt pos))).2 (Int.emod_lt_of_pos i pos)

theorem modPow_mod (i : Int) : modPow w i % 2 ^ w = modPow w i := Nat.mod_eq_of_lt (modPow_lt i)

/-- A number that is congruent to `i` has `i`'s residue. -/
theorem mod_eq_modPow (e : (a : Int) % ((2 ^ w : Nat) : Int) = i % ((2 ^ w : Nat) : Int)) : a % 2 ^ w = modPow w i := by
  rw [← modPow_natCast, modPow, e, modPow]

theorem natCast_mod_emod : ((a % 2 ^ w : Nat) : Int) % ((2 ^ w : Nat) : Int) = a % ((2 ^ w : Nat) : Int) := by
  rw [Int.natCast_emod, Int.emod_emod]

theorem sext_emod : sext w a % ((2 ^ w : Nat) : Int) = a % ((2 ^ w : Nat) : Int) := by
  simp only [sext]
  split
  · rw [Int.sub_emod_right, natCast_mod_emod]
  · exact natCast_mod_emod

/-- A code is congruent to the integer that its format reads in it. -/
theorem intOf_emod : intOf fmt w a % ((2 ^ w : Nat) : Int) = a % ((2 ^ w : Nat) : Int) := by
  unfold intOf
  split
  · exact sext_emod
  · exact natCast_mod_emod

theorem modPow_intOf : modPow w (intOf fmt w a) = a % 2 ^ w := (mod_eq_modPow intOf_emod.symm).symm

/-! ### Lane integer arithmetic on codes (R190, R191) -/

theorem add_mod_eq_modPow : (a + b) % 2 ^ w = modPow w (intOf fmt w a + intOf fmt w b) :=
  mod_eq_modPow (by rw [Int.natCast_add, Int.add_emod, Int.add_emod (intOf ..), intOf_emod, intOf_emod])

theorem mul_mod_eq_modPow : a * b % 2 ^ w = modPow w (intOf fmt w a * intOf fmt w b) :=
  mod_eq_modPow (by rw [Int.natCast_mul, Int.mul_emod, Int.mul_emod (intOf ..), intOf_emod, intOf_emod])

theorem sub_mod_eq_modPow (lt : b < 2 ^ w) : (a + 2 ^ w - b) % 2 ^ w = modPow w (intOf fmt w a - intOf fmt w b) := by
  have difference : ((a + 2 ^ w - b : Nat) : Int) = a - b + ((2 ^ w : Nat) : Int) := by omega
  exact mod_eq_modPow (by rw [difference, Int.add_emod_right, Int.sub_emod, Int.sub_emod (intOf ..), intOf_emod, intOf_emod])

theorem intOf_intMin : intOf fmt w (intMin fmt w a b) = min (intOf fmt w a) (intOf fmt w b) := by
  unfold intMin
  split <;> omega

theorem intOf_intMax : intOf fmt w (intMax fmt w a b) = max (intOf fmt w a) (intOf fmt w b) := by
  unfold intMax
  split <;> omega

theorem intMin_mod_eq_modPow : intMin fmt w a b % 2 ^ w = modPow w (min (intOf fmt w a) (intOf fmt w b)) := by
  rw [← intOf_intMin, modPow_intOf]

theorem intMax_mod_eq_modPow : intMax fmt w a b % 2 ^ w = modPow w (max (intOf fmt w a) (intOf fmt w b)) := by
  rw [← intOf_intMax, modPow_intOf]

/-- Saturation clamps to the format's range, whose ends `lo` and `hi` are `2 ^ w - 1` apart (R191). -/
theorem saturate_mod_eq_modPow {lo hi : Int} (pos : 0 < w) (el : lo = if fmt ≤ 8 then -2 ^ (w - 1) else 0) (eh : hi = lo + 2 ^ w - 1) :
    saturate fmt w i % 2 ^ w = modPow w (max lo (min hi i)) := by
  have double : (2 : Int) ^ w = 2 ^ (w - 1) * 2 := by rw [← Int.pow_succ, Nat.succ_eq_add_one, Nat.sub_one_add_one (Nat.ne_of_gt pos)]
  have top : hi = if fmt ≤ 8 then 2 ^ (w - 1) - 1 else 2 ^ w - 1 := by
    rw [eh, el]
    split
    · omega
    · rw [Int.zero_add]
  simp only [saturate, natCast_two_pow, ← el, ← top, modPow_mod]

theorem shiftRight_mod_eq (lt : a < 2 ^ w) : a >>> (b % w) % 2 ^ w = a / 2 ^ (b % w) := by
  rw [Nat.shiftRight_eq_div_pow, Nat.mod_eq_of_lt (Nat.lt_of_le_of_lt (Nat.div_le_self ..) lt)]

theorem sext_shiftRight_mod_eq : modPow w (sext w a >>> (b % w)) % 2 ^ w = modPow w (sext w a / 2 ^ (b % w)) := by
  rw [modPow_mod, Int.shiftRight_eq_div_pow, natCast_two_pow]

end

/-- Settles O21: the model's operations are on codes, and the residue of each is that of the exact result on the operands' integers. -/
theorem laneArithmetic : Obligations.LaneArithmetic := by
  refine ⟨?integers, ?codes⟩
  case integers =>
    intro s h f x y ls lo hi a o el eh pos i l g row
    simp only [List.mem_cons, Prod.mk.injEq, List.not_mem_nil, or_false] at row
    rcases row with ⟨rfl, rfl, rfl⟩ | ⟨rfl, rfl, rfl⟩ | ⟨rfl, rfl, rfl⟩ | ⟨rfl, rfl, rfl⟩ | ⟨rfl, rfl, rfl⟩ | ⟨rfl, rfl, rfl⟩ |
      ⟨rfl, rfl, rfl⟩ | ⟨rfl, rfl, rfl⟩
    · exact exec_vadd.trans (vInt_acts a o fun _ _ _ _ => add_mod_eq_modPow)
    · exact exec_vsub.trans (vInt_acts a o fun _ _ _ lt => sub_mod_eq_modPow lt)
    · exact exec_vmul.trans (vInt_acts a o fun _ _ _ _ => mul_mod_eq_modPow)
    · exact exec_vmulh.trans (vInt_acts a o fun _ _ _ _ => by rw [modPow_mod, natCast_two_pow])
    · exact exec_vmin.trans (vInt_acts a o fun _ _ _ _ => intMin_mod_eq_modPow)
    · exact exec_vmax.trans (vInt_acts a o fun _ _ _ _ => intMax_mod_eq_modPow)
    · exact exec_vadds.trans (vInt_acts a o fun _ _ _ _ => saturate_mod_eq_modPow pos el eh)
    · exact exec_vsubs.trans (vInt_acts a o fun _ _ _ _ => saturate_mod_eq_modPow pos el eh)
  case codes =>
    rintro s h f x y ls w a rfl
    refine ⟨fun o i g row => ?_, fun o => vValues_acts a o⟩
    simp only [List.mem_cons, Prod.mk.injEq, List.not_mem_nil, or_false] at row
    rcases row with ⟨rfl, rfl⟩ | ⟨rfl, rfl⟩ | ⟨rfl, rfl⟩ | ⟨rfl, rfl⟩ | ⟨rfl, rfl⟩ | ⟨rfl, rfl⟩
    · exact exec_vand.trans (vInt_acts a o fun _ _ _ lt => Nat.mod_eq_of_lt (Nat.and_lt_two_pow _ lt))
    · exact exec_vor.trans (vInt_acts a o fun _ la _ lb => Nat.mod_eq_of_lt (Nat.or_lt_two_pow la lb))
    · exact exec_vxor.trans (vInt_acts a o fun _ la _ lb => Nat.mod_eq_of_lt (Nat.xor_lt_two_pow la lb))
    · exact exec_vsll.trans (vInt_acts a o fun _ _ _ _ => by rw [Nat.shiftLeft_eq])
    · exact exec_vsrl.trans (vInt_acts a o fun _ lt _ _ => shiftRight_mod_eq lt)
    · exact exec_vsra.trans (vInt_acts a o fun _ _ _ _ => sext_shiftRight_mod_eq)

/-! ### Roundings, minimum, maximum, compares and the reduction (R192 to R197) -/

/-- The elements' roundings of an operation, each at its position modulo 32 (R193). -/
def fpElements (op : FpOp) (f : F3) (as bs cs : List Nat) : List (Rounding × Flags) :=
  (as.zip (bs.zip cs)).zipIdx.map fun p => fpRound op f.fmt.toNat f.rnd.toNat f.s f.fi f.fo (p.2 % 32) p.1.1 p.1.2.1 p.1.2.2

/-- An operation other than FFMA and FSQRT reads two vectors. -/
theorem vFp_acts_of_two {op : FpOp} (fma : (op == .fma) = false) (sqrt : (op == .sqrt) = false) (a : Acts s h x)
    (o : Operands x [f.b, f.c] [f.a] h.t y ls) :
    vFp op l m3 h f s = .next (s.put (y.roundings x h f l m3 ls (fpElements op f (vElems (fmtWidth f.fmt.toNat) (x.rvec f.b))
      (vElems (fmtWidth f.fmt.toNat) (x.rvec f.c)) (vElems (fmtWidth f.fmt.toNat) (x.rvec f.b))))) := by
  simp only [vFp, fma, sqrt]
  exact vRounds_acts a o

theorem vFp_fma_acts (a : Acts s h x) (o : Operands x [f.b, f.c, f.d] [f.a] h.t y ls) :
    vFp .fma l m3 h f s = .next (s.put (y.roundings x h f l m3 ls (fpElements .fma f (vElems (fmtWidth f.fmt.toNat) (x.rvec f.b))
      (vElems (fmtWidth f.fmt.toNat) (x.rvec f.c)) (vElems (fmtWidth f.fmt.toNat) (x.rvec f.d))))) :=
  vRounds_acts a o

theorem vFp_sqrt_acts (a : Acts s h x) (o : Operands x [f.b] [f.a] h.t y ls) :
    vFp .sqrt l m3 h f s = .next (s.put (y.roundings x h f l m3 ls (fpElements .sqrt f (vElems (fmtWidth f.fmt.toNat) (x.rvec f.b))
      (vElems (fmtWidth f.fmt.toNat) (x.rvec f.b)) (vElems (fmtWidth f.fmt.toNat) (x.rvec f.b))))) :=
  vRounds_acts a o

/-- The mask `ones n` is unfolded before the frame's lemma is used, here and below, so that no comparison of terms evaluates it. -/
theorem vred_acts (a : Acts s h x) (o : Operands x [f.b] [f.a] h.t y ls) :
    execVred h f s = .next (s.put (y.send h (if y.l3 then 8 else 6) (ls.headD .p) (2 ^ 4096 - 1)
      (vredLate f f.fmt.toNat (fmtWidth f.fmt.toNat) (f.d.toNat % 8) (List.zipWith (fun b c => if b then some c else none)
        (enabled (kmOf x f) (fmtWidth f.fmt.toNat) (4096 / fmtWidth f.fmt.toNat)) (vElems (fmtWidth f.fmt.toNat) (x.rvec f.b)))))) := by
  rw [execVred, ones]
  exact syl_ok a (vframe_ok o fun _ => rfl)

/-- Settles O22: the shared frames give what lands, and each instruction fixes the operation and its latencies. -/
theorem laneRoundingsAndCompares : Obligations.LaneRoundingsAndCompares := by
  refine ⟨?roundings, ?compares⟩
  case roundings =>
    rintro s h f x y ls w es a rfl rfl
    refine ⟨fun o i op l m3 row => ?two, fun o i l m3 row => ?three, fun o => vFp_sqrt_acts a o⟩
    case two =>
      simp only [List.mem_cons, Prod.mk.injEq, List.not_mem_nil, or_false] at row
      rcases row with ⟨rfl, rfl, rfl, rfl⟩ | ⟨rfl, rfl, rfl, rfl⟩ | ⟨rfl, rfl, rfl, rfl⟩ | ⟨rfl, rfl, rfl, rfl⟩ | ⟨rfl, rfl, rfl, rfl⟩ |
        ⟨rfl, rfl, rfl, rfl⟩ | ⟨rfl, rfl, rfl, rfl⟩ <;> exact vFp_acts_of_two rfl rfl a o
    case three =>
      simp only [List.mem_cons, Prod.mk.injEq, List.not_mem_nil, or_false] at row
      rcases row with ⟨rfl, rfl, rfl⟩ | ⟨rfl, rfl, rfl⟩ <;> exact vFp_fma_acts a o
  case compares =>
    rintro s h f x y ls w a rfl
    refine ⟨fun o => ⟨vValues_acts a o, vValues_acts a o⟩, fun o => ⟨vValues_acts a o, vValues_acts a o, vred_acts a o⟩, fun o i cs row => ?_⟩
    simp only [List.mem_cons, Prod.mk.injEq, List.not_mem_nil, or_false] at row
    rcases row with ⟨rfl, rfl⟩ | ⟨rfl, rfl⟩ <;> exact vCompare_acts a o

/-! ### Selection, masks and moves (R198 to R201, R215) -/

theorem exec_knot : exec (.knot h f) s = kOp h f s fun a _ => a ^^^ ones 128 := rfl

theorem vsel_acts (a : Acts s h x) (o : Operands x [f.b, f.c] [f.a] h.t y ls) :
    execVsel h f s = .next (s.put (y.send h 2 (ls.headD .p) (2 ^ 4096 - 1)
      (.now (merge (x.rvec f.c).toNat (x.rvec f.b).toNat (landMask 32 (enabled (kmOf x f) 32 128) false)) 0))) := by
  rw [execVsel, ones]
  exact syl_ok a (vframe_ok (v := (x.rvec f.b, x.rvec f.c)) o fun _ => rfl)

theorem vins_acts (a : Acts s h x) (o : Operands x [] [f.a] h.t y ls) :
    execVins h f s = .next (s.put (y.send h 2 (ls.headD .p)
      ((2 ^ fmtWidth f.fmt.toNat - 1) * 2 ^ (fmtWidth f.fmt.toNat * ((x.rs f.c).toNat % (4096 / fmtWidth f.fmt.toNat))))
      (.now ((x.rs f.b).toNat % 2 ^ fmtWidth f.fmt.toNat * 2 ^ (fmtWidth f.fmt.toNat * ((x.rs f.c).toNat % (4096 / fmtWidth f.fmt.toNat)))) 0))) :=
  syl_ok a (vframe_ok o fun _ => rfl)

theorem vxmv_acts (a : Acts s h x) (o : Operands x [f.b] [f.a] h.t y ls) :
    execVxmv h f s = .next (s.put (y.send h 2 (ls.headD .p) (2 ^ 4096 - 1) (.now (x.rvec f.b).toNat 0))) := by
  rw [execVxmv, ones]
  exact syl_ok a (vframe_ok o fun _ => rfl)

theorem vext_acts {c : Nat} (a : Acts s h x) (o : Operands x [f.b] [] h.t y ls)
    (e : c = (x.rvec f.b).toNat / 2 ^ (fmtWidth f.fmt.toNat * ((x.rs f.c).toNat % (4096 / fmtWidth f.fmt.toNat))) % 2 ^ fmtWidth f.fmt.toNat) :
    execVext h f s = .next (s.put (y.putS h 2 f.a
      (if 6 ≤ f.fmt.toNat ∧ f.fmt.toNat ≤ 8 then BitVec.ofInt 64 (sext (fmtWidth f.fmt.toNat) c) else BitVec.ofNat 64 c))) :=
  e ▸ syl_ok a (vframe_ok o fun _ => rfl)

/-- A mask operation whose value on the operands' numbers is `v` (R199). -/
theorem kOp_acts {op : Nat → Nat → Nat} {v : KMask} (a : Acts s h x) (e : op (x.rk f.b.toNat).toNat (x.rk f.c.toNat).toNat = v.toNat) :
    kOp h f s op = .next (s.put (x.putK h 1 f.a.toNat (2 ^ 128 - 1) v.toNat)) :=
  syl_ok a (e ▸ rfl)

theorem xor_ones_eq_not (k : KMask) : k.toNat ^^^ ones 128 = (~~~k).toNat := by
  rw [← BitVec.xor_allOnes, BitVec.toNat_xor, BitVec.toNat_allOnes, ones]

theorem kpop_acts (a : Acts s h x) : execKpop h f s = .next (s.put (x.putS h 2 f.a
    (BitVec.ofNat 64 ((List.range 128).filter fun i => (x.rk f.b.toNat).getLsbD i).length))) :=
  syl_ok a (by rw [Scalar.popCount_eq]; rfl)

/-- VMOV moves lanes of 32 bits, which are the elements of a format of that width (R200). -/
theorem vmov_acts (a : Acts s h x) (o : Operands x [f.b] [f.a] h.t y ls) (e : fmtWidth f.fmt.toNat = 32) :
    execVmov h f s = .next (s.put (y.lanes x h f 2 ls ((vElems 32 (x.rvec f.b)).map fun a => (a, 0)))) := by
  rw [execVmov, ← e]
  exact vValues_acts a o

/-- Settles O23: the mask operations are those of the bit vectors, and each move puts what its frame gives in flight. -/
theorem laneMoves : Obligations.LaneMoves := by
  rintro s h f x y ls w a rfl
  exact ⟨kOp_acts a (BitVec.toNat_and ..).symm, kOp_acts a (BitVec.toNat_or ..).symm, kOp_acts a (BitVec.toNat_xor ..).symm,
    exec_knot.trans (kOp_acts a (xor_ones_eq_not _)), kpop_acts a, vsel_acts a,
    fun o => ⟨vValues_acts a o, vValues_acts a o, vins_acts a o⟩, fun o => ⟨vmov_acts a o, vxmv_acts a o⟩, fun o _ => vext_acts a o⟩

/-! ### Algebra (R210 to R214) -/

/-- A scratchpad access of `n` bytes ends within the scratchpad. -/
theorem inSpad_iff {a n : Nat} : inSpad a n = true ↔ a + n ≤ 0x800000 := decide_eq_true_iff

theorem need_of_true {α : Type} {ok : Bool} {c : Cause} {k : Act α} (e : ok = true) : Act.need ok c k = k := if_pos e

theorem need_of_false {α : Type} {ok : Bool} {c : Cause} {k : Act α} (e : ok = false) : Act.need ok c k = .fault c.code 0 :=
  if_neg (Bool.eq_false_iff.1 e)

theorem aload_misaligned (a : Acts s h x) (m : (x.rs f.b).toNat % 8 ≠ 0) : execAload h f s = .next (s.issueFault (slotNo h.slot) 2 0) :=
  syl_fault a (need_of_false (beq_eq_false_iff_ne.2 m))

section
variable (a : Acts s h x) (m : (x.rs f.b).toNat % 8 = 0)
include a m

theorem aload_outOfBounds (b : 0x800000 < (x.rs f.b).toNat + 72) : execAload h f s = .next (s.issueFault (slotNo h.slot) 3 0) :=
  syl_fault a ((need_of_true (beq_iff_eq.2 m)).trans (need_of_false (decide_eq_false (Nat.not_le.2 b))))

variable (b : (x.rs f.b).toNat + 72 ≤ 0x800000)
include b

theorem aload_invalid (t : tableOk (ofBytes (x.load (s.core s.cur).mem (x.rs f.b).toNat 72)) = false) :
    execAload h f s = .next (s.issueFault (slotNo h.slot) 12 0) :=
  syl_fault a ((need_of_true (beq_iff_eq.2 m)).trans ((need_of_true (inSpad_iff.2 b)).trans (need_of_false t)))

theorem aload_acts (t : tableOk (ofBytes (x.load (s.core s.cur).mem (x.rs f.b).toNat 72)) = true) :
    execAload h f s = .next (s.put ((x.send h 4 (.table f.a.toNat) (2 ^ 576 - 1)
      (.now (ofBytes (x.load (s.core s.cur).mem (x.rs f.b).toNat 72)) 0)).tick (x.rs f.b).toNat 72)) := by
  rw [execAload, ones]
  exact syl_ok a ((need_of_true (beq_iff_eq.2 m)).trans ((need_of_true (inSpad_iff.2 b)).trans (need_of_true t)))

end

theorem aloadPreset_acts (a : Acts s h x) :
    execAloadPreset h f s = .next (s.put (x.send h 4 (.table f.a.toNat) (2 ^ 576 - 1) (.now (preset (f.sub.toNat % 8)) 0))) := by
  rw [execAloadPreset, ones]
  exact syl_ok a rfl

/-- Each preset table is valid (R210, Tables 7.7 and 7.8). -/
theorem tableOk_preset : ∀ p < 6, tableOk (preset p) = true := by decide +kernel

/-- Settles O25: ALOAD's checks come in order, and the products, conjugates and norms land by the frames of values and of roundings. -/
theorem algebraElements : Obligations.AlgebraElements := by
  rintro s h f x y ls _ _ _ _ a rfl rfl rfl rfl
  exact ⟨aload_misaligned a, aload_outOfBounds a, aload_invalid a, aload_acts a, aloadPreset_acts a, tableOk_preset,
    fun o => vRounds_acts a o, fun o => ⟨vValues_acts a o, vRounds_acts a o⟩⟩

end Sys2Proof.Machine.VectorEngine

/-! ## The quire engine (R221 to R233) -/

namespace Sys2Proof.Machine.QuireEngine

-- One proof at a time: each one that waits for another holds a thread's stack, and the text as a whole is near the memory limit.
set_option Elab.async false

open VectorEngine (inSpad_iff need_of_true need_of_false)

variable {h : Hdr} {f : F3} {g : FM} {s : State} {x y : Ctx} {ls : List Loc} {i : Instr}

/-! ### The cell instructions (R221, R223, R225 to R228) -/

theorem exec_qclr : exec (.qclr h f) s = execQclr h f s := rfl
theorem exec_qadd : exec (.qadd h f) s = qaddsub false h f s := rfl
theorem exec_qsub : exec (.qsub h f) s = qaddsub true h f s := rfl
theorem exec_qneg : exec (.qneg h f) s = execQneg h f s := rfl
theorem exec_qred : exec (.qred h f) s = execQred h f s := rfl
theorem exec_qmov : exec (.qmov h f) s = execQmov h f s := rfl
theorem exec_qmode : exec (.qmode h f) s = execQmode h f s := rfl

/-- A syllable on windows: ACC_BUSY where one of them is busy, else its cells in flight (R221). -/
theorem exec_of_qcells {wins : List Nat} {chain full : Nat} {go : Core → Ctx → List CellOut} {outs : List CellOut}
    (d : exec i s = qcells h s wins chain full go) (a : Acts s h x) (e : go (s.core s.cur) x = outs) :
    (wins.any x.windowBusy = true → exec i s = .next (s.issueFault (slotNo h.slot) 5 0)) ∧
    (wins.any x.windowBusy = false → exec i s = .next (s.put (x.putCells h chain full outs))) :=
  ⟨fun busy => d.trans (syl_fault a (need_of_false (congrArg not busy))),
    fun free => d.trans (syl_ok a (e ▸ need_of_true (congrArg not free)))⟩

/-! ### Exact products (R224) -/

section
variable {neg : Bool}

/-- What QMAC or QMACN writes into the cell of lane `e.2` from the lane's element pairs: one rounding of the chained value and the products into an F32 cell, the exact sum into a QUIRE cell. -/
def macOut (k : Core) (f : F3) (neg : Bool) (e : List (Nat × Nat) × Nat) : CellOut :=
  if (k.cell (128 * f.a.toNat + e.2)).chainF32 then
    f32Out (128 * f.a.toNat + e.2) (some (k.cell (128 * f.a.toNat + e.2)).chain) (macTerms neg f.fi f.fmt.toNat e.1).1 f.rnd.toNat f.s f.fo (e.2 % 32)
      (macTerms neg f.fi f.fmt.toNat e.1).2
  else match (k.cell (128 * f.a.toNat + e.2)).chain with
    | .code q => quireOut (128 * f.a.toNat + e.2) q (sumV false (macTerms neg f.fi f.fmt.toNat e.1).1).1 (macTerms neg f.fi f.fmt.toNat e.1).2
    | .ref _ => codeOut (128 * f.a.toNat + e.2) false quireNaR

theorem qmac_busy (a : Acts s h x) (o : Operands x [f.b, f.c] [] false y ls) (busy : x.windowBusy f.a.toNat = true) :
    qmac neg h f s = .next (s.issueFault (slotNo h.slot) 5 0) :=
  syl_fault a (vframe_fault o fun _ => need_of_false (congrArg not busy))

/-- The lanes' products of the operands, which do not depend on the ports to be popped. -/
theorem qmac_acts (a : Acts s h x) (o : Operands x [f.b, f.c] [] false y ls) (free : x.windowBusy f.a.toNat = false) :
    qmac neg h f s = .next (s.put (y.putCells h 1 3
      (((chunks (32 / fmtWidth f.fmt.toNat) 128 ((vElems (fmtWidth f.fmt.toNat) (x.rvec f.b)).zip (vElems (fmtWidth f.fmt.toNat) (x.rvec f.c)))).zipIdx.filter
        fun e => (qkm x f).getLsbD e.2).map (macOut (s.core s.cur) f neg)))) :=
  syl_ok a (vframe_ok (v := (x.rvec f.b, x.rvec f.c)) o fun _ => need_of_true (congrArg not free))

end

theorem macTerms_products {fi : Bool} {fmt : Nat} {ps : List (Nat × Nat)} :
    (macTerms false fi fmt ps).1 = ps.map fun p => (mulV (decodeF fi fmt p.1) (decodeF fi fmt p.2)).1 :=
  List.map_map

/-- Settles O26: the frames of cells and of products give what lands, and each instruction fixes its windows, its distances and its cells. -/
theorem quireCellsAndProducts : Obligations.QuireCellsAndProducts := by
  refine ⟨?cells, ?products⟩
  case cells =>
    rintro s h f x k ls c a rfl rfl rfl i wins chain full outs row
    simp only [List.mem_cons, Prod.mk.injEq, List.not_mem_nil, or_false] at row
    rcases row with ⟨rfl, rfl, rfl, rfl, rfl⟩ | ⟨rfl, rfl, rfl, rfl, rfl⟩ | ⟨rfl, rfl, rfl, rfl, rfl⟩ | ⟨rfl, rfl, rfl, rfl, rfl⟩ |
      ⟨rfl, rfl, rfl, rfl, rfl⟩ | ⟨rfl, rfl, rfl, rfl, rfl⟩ | ⟨rfl, rfl, rfl, rfl, rfl⟩
    · exact exec_of_qcells exec_qclr a rfl
    · exact exec_of_qcells exec_qadd a rfl
    · exact exec_of_qcells exec_qsub a rfl
    · exact exec_of_qcells exec_qneg a rfl
    · exact exec_of_qcells exec_qred a (by simp only [List.map_map]; rfl)
    · exact exec_of_qcells exec_qmov a rfl
    · exact exec_of_qcells exec_qmode a (by simp only [Bool.not_eq_true']; rfl)
  case products =>
    rintro s h f x y ls k a rfl o
    refine ⟨fun busy => ⟨qmac_busy a o busy, qmac_busy a o busy⟩, fun free i neg row => ?_, fun fi fmt ps => macTerms_products⟩
    simp only [List.mem_cons, Prod.mk.injEq, List.not_mem_nil, or_false] at row
    rcases row with ⟨rfl, rfl⟩ | ⟨rfl, rfl⟩ <;> exact qmac_acts a o free

/-! ### Tests and roundings (R229 to R231) -/

theorem qtst_busy (a : Acts s h x) (busy : x.windowBusy f.b.toNat = true) :
    execQtst h f s = .next (s.issueFault (slotNo h.slot) 5 0) :=
  syl_fault a (need_of_false (congrArg not busy))

theorem qtst_acts (a : Acts s h x) (free : x.windowBusy f.b.toNat = false) :
    execQtst h f s = .next (s.put (x.putK h 2 f.a.toNat (if zOf f then 2 ^ 128 - 1 else (qkm x f).toNat)
      ((qlanes (qkm x f)).foldl (fun b l => if qtst (f.d.toNat % 8) ((s.core s.cur).cell (128 * f.b.toNat + l)) then b + 2 ^ l else b) 0))) := by
  rw [execQtst, ones]
  exact syl_ok a (need_of_true (congrArg not free))

/-- The frame that QROUND and QROUNDS share: ACC_BUSY of the window whose cells they round, else what `fin` puts in flight. -/
def roundFrame (h : Hdr) (f : F3) (s : State) (fin : Core → Ctx → Ctx → List Loc → Ctx) : Out :=
  syl h s fun k x => vframe x [] [f.a] h.t (fun _ => .need (!x.windowBusy f.b.toNat) .accBusy (.ok ())) fun y ls _ => fin k x y ls

section
variable {fin : Core → Ctx → Ctx → List Loc → Ctx} (a : Acts s h x) (o : Operands x [] [f.a] h.t y ls)
include a o

theorem roundFrame_busy (busy : x.windowBusy f.b.toNat = true) :
    roundFrame h f s fin = .next (s.issueFault (slotNo h.slot) 5 0) :=
  syl_fault a (vframe_fault o fun _ => need_of_false (congrArg not busy))

theorem roundFrame_acts (free : x.windowBusy f.b.toNat = false) :
    roundFrame h f s fin = .next (s.put (fin (s.core s.cur) x y ls)) :=
  syl_ok a (vframe_ok o fun _ => need_of_true (congrArg not free))

end

theorem exec_qround : exec (.qround h f) s = roundFrame h f s fun k x y ls =>
    y.send h (if y.l3 then 8 else 6) (ls.headD .p)
      ((List.range 128).foldl (fun m l => if zOf f || (qkm x f).getLsbD l then
        m ||| (2 ^ fmtWidth f.fmt.toNat - 1) <<< (fmtWidth f.fmt.toNat * (128 * (f.d.toNat % 4) + l)) else m) 0)
      (.rnd (fmtWidth f.fmt.toNat)
        ((qlanes (qkm x f)).map fun l => (128 * (f.d.toNat % 4) + l, cellRound k f (128 * f.b.toNat + l) ((128 * (f.d.toNat % 4) + l) % 32)))
        (k.cellFlags ((qlanes (qkm x f)).map (128 * f.b.toNat + ·)))) := rfl

theorem exec_qrounds : exec (.qrounds h f) s = roundFrame h f s fun k _ y ls =>
    y.send h (if y.l3 then 8 else 6) (ls.headD .p) ((2 ^ fmtWidth f.fmt.toNat - 1) <<< (fmtWidth f.fmt.toNat * f.d.toNat))
      (.rnd (fmtWidth f.fmt.toNat) [(f.d.toNat, cellRound k f (128 * f.b.toNat + f.c.toNat) (f.d.toNat % 32))]
        (k.cellFlags [128 * f.b.toNat + f.c.toNat])) := rfl

/-! ### Spills and fills (R232, R233) -/

/-- A window's 128 images, of a quire or of an F32 code each. -/
theorem spillSize_eq (g : FM) : spillSize g = 128 * (if g.sz = 0 then 128 else 4) := by
  unfold spillSize
  split <;> rfl

/-- The offset is added to the low 32 bits of the address register, which are lane 0. -/
theorem spillEa_eq (x : Ctx) (g : FM) :
    spillEa x g = (BitVec.ofNat 64 ((x.rvec g.b).toNat % 2 ^ 32) + g.off.signExtend 64).toNat := rfl

section
variable {α : Type} {k : Act α}

theorem checkSpill_misaligned (free : x.windowBusy g.a.toNat = false) (m : spillEa y g % (if g.sz = 0 then 128 else 64) ≠ 0) :
    checkSpill x y g k = .fault 2 0 :=
  (need_of_true (congrArg not free)).trans (need_of_false (beq_eq_false_iff_ne.2 m))

variable (free : x.windowBusy g.a.toNat = false) (m : spillEa y g % (if g.sz = 0 then 128 else 64) = 0)
include free m

theorem checkSpill_outOfBounds (b : 0x800000 < spillEa y g + spillSize g) : checkSpill x y g k = .fault 3 0 :=
  (need_of_true (congrArg not free)).trans ((need_of_true (beq_iff_eq.2 m)).trans (need_of_false (decide_eq_false (Nat.not_le.2 b))))

theorem checkSpill_ok (b : spillEa y g + spillSize g ≤ 0x800000) : checkSpill x y g k = k :=
  (need_of_true (congrArg not free)).trans ((need_of_true (beq_iff_eq.2 m)).trans (need_of_true (inSpad_iff.2 b)))

end

/-- The frame that QLD and QST share: ACC_BUSY before the address is read, then the checks of the address (R232). `go` is what the syllable reads, and `fin` what it puts in flight. -/
def spillFrame {α : Type} (h : Hdr) (g : FM) (s : State) (go : Core → Ctx → α) (fin : Core → Ctx → α → Ctx) : Out :=
  syl h s fun k x => vframe x [g.b] [] false (fun y => checkSpill x y g (.ok (go k y))) (fun y _ v => fin k y v) (checkWindow x g (.ok ())) [g.b]

section
variable {α : Type} {go : Core → Ctx → α} {fin : Core → Ctx → α → Ctx} (a : Acts s h x) (o : Operands x [g.b] [] false y ls)
include a o

theorem spillFrame_busy (busy : x.windowBusy g.a.toNat = true) : spillFrame h g s go fin = .next (s.issueFault (slotNo h.slot) 5 0) :=
  syl_fault a (vframe_pre o (need_of_false (congrArg not busy)))

variable (free : x.windowBusy g.a.toNat = false)
include free

theorem spillFrame_misaligned (m : spillEa x g % (if g.sz = 0 then 128 else 64) ≠ 0) :
    spillFrame h g s go fin = .next (s.issueFault (slotNo h.slot) 2 0) :=
  syl_fault a (vframe_fault o (fun _ => checkSpill_misaligned free m) (need_of_true (congrArg not free)))

variable (m : spillEa x g % (if g.sz = 0 then 128 else 64) = 0)
include m

theorem spillFrame_outOfBounds (b : 0x800000 < spillEa x g + spillSize g) :
    spillFrame h g s go fin = .next (s.issueFault (slotNo h.slot) 3 0) :=
  syl_fault a (vframe_fault o (fun _ => checkSpill_outOfBounds free m b) (need_of_true (congrArg not free)))

theorem spillFrame_acts (b : spillEa x g + spillSize g ≤ 0x800000) (v : α) (e : ∀ p, go (s.core s.cur) { x with pops := p } = v := by intro; rfl) :
    spillFrame h g s go fin = .next (s.put (fin (s.core s.cur) y v)) :=
  syl_ok a (vframe_ok o (fun p => (checkSpill_ok free m b).trans (congrArg Act.ok (e p))) (need_of_true (congrArg not free)))

end

theorem exec_qld : exec (.qld h g) s = spillFrame h g s (fun k y => (y.load k.mem (spillEa y g) (spillSize g), spillEa y g)) fun _ y v =>
    (y.putCells h 32 32 ((List.range 128).map fun l => codeOut (128 * g.a.toNat + l) (g.sz != 0)
      (BitVec.ofNat 1024 (ofBytes ((v.1.drop ((if g.sz = 0 then 128 else 4) * l)).take (if g.sz = 0 then 128 else 4)))))).tick v.2 (spillSize g) := rfl

theorem exec_qst : exec (.qst h g) s = spillFrame h g s (fun _ y => spillEa y g) fun k y ea =>
    y.store h 32 ((List.range 128).flatMap fun l =>
      (bytesOf (if g.sz = 0 then (quireCode (k.cell (128 * g.a.toNat + l))).toNat else (k.cell (128 * g.a.toNat + l)).q.toNat % 2 ^ 32)
        (if g.sz = 0 then 128 else 4)).zipIdx.map fun b => (ea + (if g.sz = 0 then 128 else 4) * l + b.2, b.1)) := rfl

/-- Settles O27: the shared frames answer the checks in order, and each instruction fixes what it puts in flight. -/
theorem quireRoundingsAndMemory : Obligations.QuireRoundingsAndMemory := by
  refine ⟨?roundings, ?memory⟩
  case roundings =>
    rintro s h f x y ls k km w a rfl rfl rfl
    exact ⟨qtst_busy a, qtst_acts a,
      fun o busy => ⟨exec_qround.trans (roundFrame_busy a o busy), exec_qrounds.trans (roundFrame_busy a o busy)⟩,
      fun o free => ⟨exec_qround.trans (roundFrame_acts a o free), exec_qrounds.trans (roundFrame_acts a o free)⟩⟩
  case memory =>
    rintro s h f x y ls k ea per a rfl o ea_eq rfl
    obtain rfl := ea_eq.trans (spillEa_eq x f).symm
    rw [← spillSize_eq f]
    exact ⟨fun busy => ⟨exec_qld.trans (spillFrame_busy a o busy), exec_qst.trans (spillFrame_busy a o busy)⟩,
      fun free m => ⟨exec_qld.trans (spillFrame_misaligned a o free m), exec_qst.trans (spillFrame_misaligned a o free m)⟩,
      fun free m b => ⟨exec_qld.trans (spillFrame_outOfBounds a o free m b), exec_qst.trans (spillFrame_outOfBounds a o free m b)⟩,
      fun free m b => ⟨exec_qld.trans (spillFrame_acts a o free m b (x.load (s.core s.cur).mem (spillEa x f) (spillSize f), spillEa x f)),
        exec_qst.trans (spillFrame_acts a o free m b (spillEa x f))⟩⟩

end Sys2Proof.Machine.QuireEngine

/-! ## The reshape unit (R237 to R254) -/

namespace Sys2Proof.Machine.ReshapeUnit

-- One proof at a time: each one that waits for another holds a thread's stack, and the text as a whole is near the memory limit.
set_option Elab.async false

open VectorEngine (need_of_true need_of_false vRounds_acts)

variable {h : Hdr} {f : F3} {s : State} {x y : Ctx} {ls : List Loc}

/-! ### What reading and reserving ports leaves alone (R258, R259) -/

theorem writePort_eq {n : BitVec 7} {t : Bool} {l : Loc} (e : x.writePort n t = .ok (y, l)) : y = { x with streams := y.streams } := by
  unfold Ctx.writePort at e
  split at e
  case h_1 => cases e; rfl
  case h_2 =>
    split at e
    · cases e
    · split at e
      · cases e
      · split at e <;> cases e
        rfl

theorem writePorts_eq {ns : List (BitVec 7)} {t : Bool} (e : writePorts x t ns = .ok (y, ls)) : y = { x with streams := y.streams } := by
  induction ns generalizing x ls with
  | nil => cases e; rfl
  | cons n ns ih =>
    simp only [writePorts] at e
    cases r : x.writePort n t with
    | fault c d => simp [r] at e
    | wait => simp only [r] at e; split at e <;> cases e
    | ok p =>
      obtain ⟨z, l⟩ := p
      simp only [r] at e
      cases q : writePorts z t ns with
      | fault c d => simp [q, Act.bind] at e
      | wait => simp [q, Act.bind] at e
      | ok p =>
        obtain ⟨u, ms⟩ := p
        simp only [q, Act.bind, Act.ok.injEq, Prod.mk.injEq] at e
        obtain ⟨rfl, rfl⟩ := e
        rw [ih q, writePort_eq r]

section
variable {reads writes : List (BitVec 7)} {t : Bool} (o : Operands x reads writes t y ls)
include o

/-- A syllable's ports are all that its operands change before it puts its results in flight. -/
theorem eq_of_operands : y = { x with streams := y.streams, pops := y.pops } := by
  obtain ⟨a, b, -, hb, rfl⟩ := o
  rw [writePorts_eq hb]

theorem rk_of_operands {n : Nat} : y.rk n = x.rk n := by
  rw [eq_of_operands o]; rfl

theorem tcfg_of_operands {n : Nat} : y.tcfg n = x.tcfg n := by
  rw [eq_of_operands o]; rfl

theorem tElem_of_operands {b w i : Nat} : tElem y b w i = tElem x b w i := by
  rw [eq_of_operands o]; rfl

theorem tchg_of_operands : y.tchg = x.tchg := by
  rw [eq_of_operands o]

end

/-! ### Conversion, scaling and packing (R240 to R244, R248, R249) -/

theorem xdth_acts (a : Acts s h x) :
    execXdth h f s = .next (s.put (x.send h (if x.l3 then 4 else 3) .dph 31 (.now (f.sub.toNat % 32) 0))) :=
  syl_ok a rfl

section
variable {w n : Nat} (a : Acts s h x) (hw : w = fmtWidth f.fmt.toNat) (hn : n = 4096 / w)
include a hw hn

/-- The model rounds each element together with its flags; apart, they are the roundings that land and the flags raised. -/
theorem xcvt_acts (o : Operands x [f.b] [f.a] h.t y ls) {ws p base : Nat} {es : List (Nat × Nat)}
    (hs : ws = fmtWidth f.d.toNat) (hp : p = f.sub.toNat / 16) (hb : base = if w ≤ ws then p * (4096 / ws) else 0)
    (he : es = ((if w ≤ ws then vElems ws (x.rvec f.b) else ((vElems ws (x.rvec f.b)).drop (p * n)).take n).zipIdx.map
      fun e => (base + e.2, e.1)).filter fun e => (x.rk (f.sub.toNat % 16)).getLsbD (w * e.1 / 32)) :
    execXcvt h f s = .next (s.put (y.send h (if y.l3 then 4 else 3) (ls.headD .p) (elemsMask w (es.map Prod.fst))
      (.rnd w (es.map fun e => (e.1, (convert f.d.toNat f.fmt.toNat f.rnd.toNat f.s f.fi f.fo (e.1 % 32) e.2).1))
        (es.foldl (fun g e => g ||| (convert f.d.toNat f.fmt.toNat f.rnd.toNat f.s f.fi f.fo (e.1 % 32) e.2).2) 0)))) := by
  subst hw hn hs hp hb he
  exact syl_ok a ((vframe_ok o fun _ => rfl).trans (by simp only [List.map_map, List.foldl_map]; rfl))

omit hn in
/-- The latency of the packing is 4 with L3 and without it. -/
theorem xpack_acts (o : Operands x [f.b] [f.a, f.d] h.t y ls) {bs : List (Nat × List Nat × Flags)}
    (hb : bs = (chunks 32 (128 / w) (vElems w (x.rvec f.b))).map fun b => packBlock (f.sub.toNat % 8) (b.map (decodeF f.fi f.fmt.toNat))) :
    execXpack h f s = .next (s.put ((y.send h 4 (ls.headD .p)
        (elemsMask 128 (range (f.sub.toNat / 8 * (128 / w)) (f.sub.toNat / 8 * (128 / w) + 128 / w)))
        (.now (ofElems 128 (bs.map fun b => ofElems 4 b.2.1) <<< (128 * (f.sub.toNat / 8 * (128 / w)))) (bs.foldl (fun g b => g ||| b.2.2) 0))).send h
      4 (ls.getD 1 .p) (elemsMask 16 (range (f.sub.toNat / 8 * (128 / w)) (f.sub.toNat / 8 * (128 / w) + 128 / w)))
      (.now (ofElems 16 (bs.map Prod.fst) <<< (16 * (f.sub.toNat / 8 * (128 / w)))) 0))) := by
  subst hw hb
  simp only [execXpack, xlat, latency, ite_self]
  exact syl_ok a (vframe_ok o fun _ => rfl)

/-- The proof unfolds `ones n` first, as those below do: a comparison of the frame's terms would else evaluate the mask. -/
theorem xunp_acts (o : Operands x [f.b, f.c] [f.a] h.t y ls) :
    execXunp h f s = .next (s.put (y.send h (if y.l3 then 4 else 3) (ls.headD .p) (2 ^ 4096 - 1) (.rnd w ((List.range n).map fun i =>
      (i, ⟨f.fmt.toNat, blockValue ((vElems 16 (x.rvec f.c)).getD ((f.sub.toNat * n + i) / 32) 0) ((vElems 4 (x.rvec f.b)).getD (f.sub.toNat * n + i) 0),
        f.rnd.toNat, f.s, f.fo, i % 32⟩)) 0))) := by
  subst hw hn
  rw [execXunp, ones]
  exact syl_ok a (vframe_ok (v := (vElems 4 (x.rvec f.b), vElems 16 (x.rvec f.c))) o fun _ => rfl)

/-- The latency of the selection is 4 with L3 and without it. -/
theorem xsps_acts (o : Operands x [f.b] [f.a, f.d] h.t y ls) {ks : List (List Nat × Nat × Nat)}
    (hk : ks = (chunks 4 (n / 4) (vElems w (x.rvec f.b))).map fun g => (g, keepTwo (g.map (decodeV f.fmt.toNat)))) :
    execXsps h f s = .next (s.put ((y.send h 4 (ls.headD .p) ((2 ^ 2048 - 1) <<< (2048 * (f.sub.toNat / 16 % 2)))
        (.now (ofElems w (ks.flatMap fun e => [e.1.getD e.2.1 0, e.1.getD e.2.2 0]) <<< (2048 * (f.sub.toNat / 16 % 2))) 0)).send h
      4 (ls.getD 1 .p) ((2 ^ n - 1) <<< (n * (f.sub.toNat / 16 % 2)))
      (.now (ofElems 2 (ks.flatMap fun e => [e.2.1, e.2.2]) <<< (n * (f.sub.toNat / 16 % 2))) 0))) := by
  subst hw hn hk
  simp only [execXsps, xlat, latency, ite_self, ones]
  exact syl_ok a (vframe_ok o fun _ => rfl)

/-! ### Permutations (R245 to R247) -/

/-- A permutation puts the elements that its map names in flight. The map sees the context with its ports reserved and popped, of which it reads the lane masks alone. -/
theorem permute_acts {reads : List (BitVec 7)} {go : Ctx → Nat → Nat → List Nat → List Nat → Nat → Option Nat} {src : Nat → Option Nat}
    (o : Operands x reads [f.a] h.t y ls)
    (e : ∀ streams pops, go { x with streams := streams, pops := pops } n w (vElems w (x.rvec f.b)) (vElems w (x.rvec f.c)) = src := by intros; rfl) :
    permute h f s reads go = .next (s.put (y.send h (if y.l3 then 4 else 3) (ls.headD .p) (2 ^ 4096 - 1)
      (.now (ofElems w ((List.range n).map fun e => (src e).getD 0)) 0))) := by
  have named : go y n w (vElems w (x.rvec f.b)) (vElems w (x.rvec f.c)) = src := by
    rw [eq_of_operands o]; exact e ..
  subst hw hn named
  rw [permute, ones]
  exact syl_ok a (vframe_ok (v := (x.rvec f.b, x.rvec f.c)) o fun _ => rfl)

/-- XSWZ moves each component and its flags together; apart, they are the elements that land and the flags raised. -/
theorem xswz_acts (o : Operands x [f.b, f.c] [f.a] h.t y ls) {d : Nat} {nib : Nat → Nat} {as : List Nat} {rs : List (Nat × Flags)}
    (hd : d = 2 ^ (f.d.toNat % 4)) (hm : nib = fun i => (x.rvec f.c).toNat % 2 ^ 32 / 16 ^ (i % d) % 16) (ha : as = vElems w (x.rvec f.b))
    (hr : rs = (List.range n).map fun i => if 8 ≤ nib i then negCode f.fi f.fmt.toNat (as.getD (i / d * d + nib i % 8 % d) 0)
      else (as.getD (i / d * d + nib i % 8 % d) 0, 0)) :
    execXswz h f s = .next (s.put (y.send h (if y.l3 then 4 else 3) (ls.headD .p) (2 ^ 4096 - 1)
      (.now (ofElems w (rs.map Prod.fst)) (rs.foldl (fun g r => g ||| r.2) 0)))) := by
  subst hw hn hd hm ha hr
  rw [execXswz, ones]
  exact syl_ok a (vframe_ok (v := (x.rvec f.b, x.rvec f.c)) o fun _ => rfl)

end

section
variable {v : View} (a : Acts s h x) (hv : v = x.view (8 + f.d.toNat % 4) 0) (o : Operands x [f.b] [f.a] h.t y ls)
include a hv o

theorem xshufShape_fault (r : v.rank = 0 ∨ 6 < v.rank) : execXshufShape h f s = .next (s.issueFault (slotNo h.slot) 4 0) := by
  subst hv
  simp only [execXshufShape, a.1]
  exact syl_fault a (vframe_fault o fun _ => need_of_false (decide_eq_false (by omega)))

theorem xshufShape_acts {w n : Nat} (hw : w = fmtWidth f.fmt.toNat) (hn : n = 4096 / w) (one : 1 ≤ v.rank) (six : v.rank ≤ 6) :
    execXshufShape h f s = .next (s.put (y.send h (if y.l3 then 4 else 3) (ls.headD .p) (2 ^ 4096 - 1)
      (.now (ofElems w ((List.range n).map fun e => ((shapeSrc v n e).bind fun j => (vElems w (x.rvec f.b))[j]?).getD 0)) 0))) := by
  subst hv hw hn
  simp only [execXshufShape, a.1, ones]
  exact syl_ok a (vframe_ok o fun _ => need_of_true (decide_eq_true ⟨one, six⟩))

end

theorem exec_xshuf : exec (.xshuf h f) s = permute h f s [f.b, f.c] fun _ _ _ as bs e => as[bs.getD e 0]? := rfl
theorem exec_xrev : exec (.xrev h f) s = permute h f s [f.b] fun _ _ _ as _ e => as[e ^^^ (gOf f - 1)]? := rfl
theorem exec_xrot : exec (.xrot h f) s = permute h f s [f.b] fun _ n _ as _ e => as[(e + kOf f) % n]? := rfl
theorem exec_xmrg : exec (.xmrg h f) s = permute h f s [f.b, f.c] fun _ n _ as bs e => cat n as bs (e + kOf f) := rfl
theorem exec_xzip : exec (.xzip h f) s = permute h f s [f.b, f.c] fun _ n _ as bs e =>
    cat n as bs (n * ((e + hOf f * n) / gOf f % 2) + gOf f * ((e + hOf f * n) / (2 * gOf f)) + (e + hOf f * n) % gOf f) := rfl
theorem exec_xunz : exec (.xunz h f) s = permute h f s [f.b, f.c] fun _ n _ as bs e =>
    cat n as bs (2 * gOf f * (e / gOf f) + hOf f * gOf f + e % gOf f) := rfl
theorem exec_xbc : exec (.xbc h f) s = permute h f s [f.b] fun _ _ _ as _ e => as[kOf f * gOf f + e % gOf f]? := rfl
theorem exec_xcpr : exec (.xcpr h f) s = permute h f s [f.b] fun y n w as _ e =>
    (((List.range n).filter (laneOn (y.rk (f.sub.toNat % 16)) w))[e]?).bind fun j => as[j]? := rfl
theorem exec_xexp : exec (.xexp h f) s = permute h f s [f.b] fun y _ w as _ e =>
    if laneOn (y.rk (f.sub.toNat % 16)) w e then as[((List.range e).filter (laneOn (y.rk (f.sub.toNat % 16)) w)).length]? else none := rfl

/-- Settles O28: each conversion puts what its frame gives in flight, and a permutation is its map of source elements. -/
theorem reshape : Obligations.Reshape := by
  refine ⟨?conversions, ?permutations⟩
  case conversions =>
    intro s h f x y ls w n a hw hn
    refine ⟨xdth_acts a, fun o _ _ _ _ => xcvt_acts a hw hn o, fun o => ⟨?scaling, xunp_acts a hw hn o⟩,
      fun o => ⟨fun _ => xpack_acts a hw o, fun _ => xsps_acts a hw hn o⟩⟩
    case scaling =>
      subst hw
      exact vRounds_acts a o
  case permutations =>
    rintro s h f x y ls w n g k hi as bs a hw hn rfl rfl rfl rfl rfl
    refine ⟨fun i reads src row o => ?maps, fun v hv o => ⟨xshufShape_fault a hv o, xshufShape_acts a hv o hw hn⟩,
      fun o _ _ _ hd hm hr => xswz_acts a hw hn o hd hm rfl hr⟩
    case maps =>
      simp only [List.mem_cons, Prod.mk.injEq, List.not_mem_nil, or_false] at row
      rcases row with ⟨rfl, rfl, rfl⟩ | ⟨rfl, rfl, rfl⟩ | ⟨rfl, rfl, rfl⟩ | ⟨rfl, rfl, rfl⟩ | ⟨rfl, rfl, rfl⟩ | ⟨rfl, rfl, rfl⟩ |
        ⟨rfl, rfl, rfl⟩ | ⟨rfl, rfl, rfl⟩ | ⟨rfl, rfl, rfl⟩
      · exact exec_xshuf.trans (permute_acts a hw hn o)
      · exact exec_xrev.trans (permute_acts a hw hn o)
      · exact exec_xrot.trans (permute_acts a hw hn o)
      · exact exec_xmrg.trans (permute_acts a hw hn o)
      · exact exec_xzip.trans (permute_acts a hw hn o)
      · exact exec_xunz.trans (permute_acts a hw hn o)
      · exact exec_xbc.trans (permute_acts a hw hn o)
      · exact exec_xcpr.trans (permute_acts a hw hn o)
      · exact exec_xexp.trans (permute_acts a hw hn o)

/-! ### The transposer (R252, R253) -/

section
variable {z : Ctx} (a : Acts s h x) (hz : z = x.exchangeIf f.w (if f.a.toNat < 4 then 12 + f.a.toNat else 4 + f.a.toNat))
include a hz

theorem trcfg_of_other_register (m : 4 ≤ f.a.toNat) : execTrcfg h f s = .next (s.put z) := by
  subst hz
  exact syl_ok a (if_neg (Nat.not_lt.2 m))

variable {v : View} {r c : Nat} (m : f.a.toNat < 4) (hv : v = z.view (12 + f.a.toNat) 0) (hr : r = v.ext.getD 0 0) (hc : c = v.ext.getD 1 0)
include m hv hr hc

theorem trcfg_fault (bad : v.fmt = 5 ∨ r = 0 ∨ 32 < r ∨ c = 0 ∨ 32 < c) :
    execTrcfg h f s = .next (s.issueFault (slotNo h.slot) 4 0) := by
  subst hr hc hv hz
  refine syl_fault a ((if_pos m).trans (need_of_false ?_))
  simp only [Bool.and_eq_false_iff, bne_eq_false_iff_eq, decide_eq_false_iff_not]
  exact bad.imp_right fun _ _ => by omega

theorem trcfg_acts (p : v.fmt ≠ 5) (r1 : 1 ≤ r) (r32 : r ≤ 32) (c1 : 1 ≤ c) (c32 : c ≤ 32) :
    execTrcfg h f s = .next (s.put (if f.d.toNat % 2 = 0 then { z with tcfg0 := ⟨v.fmt, r, c⟩ } else { z with tcfg1 := ⟨v.fmt, r, c⟩ })) := by
  subst hr hc hv hz
  exact syl_ok a ((if_pos m).trans (need_of_true (Bool.and_eq_true_iff.2 ⟨bne_iff_ne.2 p, decide_eq_true ⟨r1, r32, c1, c32⟩⟩)))

end

theorem trw_acts (a : Acts s h x) (o : Operands x [f.b] [] false y ls) {w : Nat} (hw : w = fmtWidth (x.tcfg f.a.toNat).fmt) :
    execTrw h f s = .next (s.put { y with tchg := y.tchg ++ [⟨y.bn + 8, y.bn, f.a.toNat, false, w,
      ((vElems w (x.rvec f.b)).zipIdx.filter fun e => (x.rk (f.sub.toNat % 16)).getLsbD (w * e.2 / 32)).map fun e =>
        (32 * ((128 / w) * (f.d.toNat % 32 / (128 / w))) + e.2, e.1)⟩] }) := by
  rw [← tcfg_of_operands o] at hw
  rw [← rk_of_operands o]
  subst hw
  exact syl_ok a (vframe_ok o fun _ => rfl)

theorem trclr_acts (a : Acts s h x) :
    execTrclr h f s = .next (s.put { x with tchg := x.tchg ++ [⟨x.bn + 8, x.bn, f.a.toNat, true, 8, []⟩] }) :=
  syl_ok a rfl

section
variable (a : Acts s h x) (o : Operands x [] [f.b] h.t y ls) {c : TCfg} (hc : c = x.tcfg f.a.toNat)
include a o hc

theorem trc_acts {w : Nat} (hw : w = fmtWidth c.fmt) :
    execTrc h f s = .next (s.put (y.send h 3 (ls.headD .p) (2 ^ 4096 - 1) (.now (ofElems w ((List.range (4096 / w)).map fun i =>
      if i % 32 < c.rows ∧ (128 / w) * (f.d.toNat % 32 / (128 / w)) + i / 32 < c.cols
      then tElem x f.a.toNat w (32 * (i % 32) + ((128 / w) * (f.d.toNat % 32 / (128 / w)) + i / 32)) else 0)) 0))) := by
  simp only [← tElem_of_operands o]
  rw [← tcfg_of_operands o] at hc
  subst hw hc
  rw [execTrc, ones]
  exact syl_ok a (vframe_ok o fun _ => rfl)

theorem trst_acts : execTrst h f s = .next (s.put (y.send h 2 (ls.headD .p) (2 ^ 32 - 1)
    (.now (c.fmt + 32 * c.rows + 2048 * c.cols + 2 ^ 17 * (if x.tchg.any (fun t => t.buf == f.a.toNat) then 1 else 0)) 0))) := by
  rw [← tchg_of_operands o]
  rw [← tcfg_of_operands o] at hc
  subst hc
  exact syl_ok a (vframe_ok o fun _ => rfl)

end

theorem transposerChangeLands_of_find {c : Nat} {t : TChange} (hx : s.ctx c = some x)
    (e : x.tchg.find? (fun t => decide (t.due ≤ x.bn)) = some t) :
    execTransposerChangeLands c s = .next (s.setCtx c { t.apply x with tchg := dropOne t x.tchg }) := by
  rw [execTransposerChangeLands, State.onCtx_of_ctx hx, landTransposer, e]

/-- Settles O29: TRCFG's check decides between the fault and the configuration, the other instructions put what their frames give in flight, and the change that is due first lands. -/
theorem transposer : Obligations.Transposer := by
  refine ⟨?instructions, ?landing⟩
  case instructions =>
    intro s h f x x' y ls c w a hx hc hw
    refine ⟨trcfg_of_other_register a hx, fun v r n m hv hr hn => ⟨trcfg_fault a hx m hv hr hn, ?even, ?odd⟩, fun o => ?trw, trclr_acts a,
      fun o => ⟨trc_acts a o hc hw, trst_acts a o hc⟩⟩
    case even =>
      intro p r1 r32 n1 n32 even
      exact (trcfg_acts a hx m hv hr hn p r1 r32 n1 n32).trans (by rw [if_pos even])
    case odd =>
      intro p r1 r32 n1 n32 odd
      exact (trcfg_acts a hx m hv hr hn p r1 r32 n1 n32).trans (by rw [if_neg (by omega)])
    case trw =>
      subst hc
      exact trw_acts a o hw
  case landing => exact fun _ _ _ _ hx e => transposerChangeLands_of_find hx e

end Sys2Proof.Machine.ReshapeUnit

/-! ## The stream engine (R255 to R276) -/

namespace Sys2Proof.Machine.StreamEngine

-- One proof at a time: each one that waits for another holds a thread's stack, and the text as a whole is near the memory limit.
set_option Elab.async false

open VectorEngine (inSpad_iff need_of_true need_of_false)

/-! ### Cores and teams after an update -/

section
variable {s t : State} {c d p i : Nat} {k : Core} {x : Ctx} {m : Team} {f : Team → Team}

theorem core_setCore_same (h : k.ctx = some x) : (s.setCore c k).core c = k :=
  SMap.get_put_new (State.core_ne_reset h) s.cores c

theorem core_setCore_ne (h : k.ctx = some x) (ne : d ≠ c) : (s.setCore c k).core d = s.core d :=
  SMap.get_put_new_ne (State.core_ne_reset h) s.cores ne

theorem core_onCtx_same {g : Ctx → Ctx} (h : s.ctx c = some x) : (s.onCtx c g).core c = { s.core c with ctx := some (g x) } := by
  rw [State.onCtx_of_ctx h, State.core_setCtx]

theorem core_onCtx_ne {g : Ctx → Ctx} (ne : d ≠ c) : (s.onCtx c g).core d = s.core d := by
  unfold State.onCtx
  split
  · exact State.core_setCtx_ne s ne _
  · rfl

theorem core_dropLines_same {gone : Nat → Nat → Nat → Bool} (h : s.ctx c = some x) :
    (s.dropLines c gone).core c = { s.core c with window := (s.core c).window.filter fun l => !gone l.line l.part l.group } :=
  core_setCore_same h

theorem core_acquire_same {sc : Nat} (h : s.ctx c = some x) :
    ((s.acquire c sc).core c).mem = (s.core c).mem ∧ (s.acquire c sc).ctx c = some (x.raiseFloor sc) := by
  have dropped := core_dropLines_same (gone := fun _ _ _ => true) h
  have resident : (s.dropLines c fun _ _ _ => true).ctx c = some x := (congrArg Core.ctx dropped).trans h
  rw [State.acquire, State.ctx, core_onCtx_same resident]
  exact ⟨(congrArg Core.mem dropped :), rfl⟩

theorem core_acquire_ne {sc : Nat} (h : s.ctx c = some x) (ne : d ≠ c) : (s.acquire c sc).core d = s.core d :=
  (core_onCtx_ne ne).trans (core_setCore_ne (k := { s.core c with window := _ }) h ne)

/-- A change that leaves a team's number alone is what the team reads after it. -/
theorem team_onTeam (h : p < s.parts.length) (e : s.team p i = some m) (id : ∀ m, (f m).id = m.id) : (s.onTeam p i f).team p i = some (f m) := by
  have number : m.id = i := beq_iff_eq.1 (List.find?_some (p := fun m : Team => m.id == i) e)
  have kept : ((fun m : Team => m.id == i) ∘ fun m => if m.id = i then f m else m) = fun m => m.id == i := by
    funext m
    simp only [Function.comp_apply]
    split
    · rw [id]
    · rfl
  simp only [State.team, State.onTeam, State.part_onPart h, List.find?_map, kept]
  rw [show (s.part p).teams.find? (fun m => m.id == i) = some m from e, Option.map_some, if_pos number]

/-- `t` has the partitions of `s`, and so its teams. -/
def SameParts (s t : State) : Prop := t.parts = s.parts ∧ t.modid = s.modid

/-- The change of a team reads back also after steps that leave the partitions alone. -/
theorem team_onTeam_of_sameParts (same : SameParts s t) (h : p < s.parts.length) (e : s.team p i = some m) (id : ∀ m, (f m).id = m.id) :
    (t.onTeam p i f).team p i = some (f m) := by
  obtain ⟨parts, modid⟩ := same
  have team : t.team p i = s.team p i := by simp only [State.team, State.part, parts, modid]
  exact team_onTeam (parts ▸ h) (team.trans e) id

end

/-! ### SBAL_RUN (R271) -/

section
variable {s : State} {p i r : Nat} {m : Team} {xs ps : List (Nat × Ctx)}

/-- A participant's task releases, and its SBAL on ring `r` has run. -/
def releases (r : Nat) (s : State) (e : Nat × Ctx) : State :=
  (s.released e.1 1).onCtx e.1 fun x => { x with sbal := x.sbal.map fun b => if b.ring = r then { b with ran := true } else b }

theorem sameParts_foldl_releases : SameParts s (ps.foldl (releases r) s) :=
  List.foldlRecOn (motive := SameParts s) ps (releases r) ⟨rfl, rfl⟩ fun t kept e _ => by
    simpa [SameParts, releases, State.released] using kept

/-- Participant `e.2` of the participants `ps`, with its share of the records `recs` (R271). -/
def shareOf (r : Nat) (ps : List (Nat × Ctx)) (recs : List (List Byte)) (e : (Nat × Ctx) × Nat) : Share :=
  { core := e.1.1, ln := ((e.1.2.joins r).map SBal.ln).getD 0
    recs := ((recs.drop (e.2 * recs.length / ps.length)).take ((e.2 + 1) * recs.length / ps.length - e.2 * recs.length / ps.length)).flatten }

/-- The participants' tasks have done their writes, and their stream engines work. -/
theorem participants_ready (ready : ∀ e ∈ ps, e.2.drained s (((e.2.joins r).map SBal.issued).getD 0) = true ∧ s.works p (unitStream e.1) = true) :
    (ps.all fun e => e.2.drained s (((e.2.joins r).map SBal.issued).getD 0) && s.works p (unitStream e.1)) = true :=
  List.all_eq_true.2 fun e he => Bool.and_eq_true_iff.2 (ready e he)

/-- No ring differs from the first participant's, and all of them are conditional. -/
theorem rings_match {n : Nat} (rings : ∀ e ∈ ps, (e.2.ring r).init = true ∧ (e.2.ring r).cond = true ∧ (e.2.ring r).n = n) :
    ((ps.map fun e => e.2.ring r).any fun g => !g.init || !g.cond || g.n != n) = false := by
  simp only [List.any_map, List.any_eq_false]
  intro e he
  obtain ⟨init, cond, number⟩ := rings e he
  simp [init, cond, number]

/-- SBAL_RUN where every live task has joined ring `r`, the participants are ready and their rings match. -/
theorem sbalRun_of_match (hm : s.team p i = some m) (hxs : xs = m.cores.filterMap (fun c => (s.ctx c).map fun x => (c, x)))
    (hps : ps = xs.filter (fun e => (e.2.joins r).isSome))
    (hr : (List.range 32).find? (fun r => xs.any (fun e => (e.2.joins r).isSome) && xs.all fun e => e.2.state == .ended || (e.2.joins r).isSome) = some r)
    (ready : ∀ e ∈ ps, e.2.drained s (((e.2.joins r).map SBal.issued).getD 0) = true ∧ s.works p (unitStream e.1) = true)
    (rings : ∀ e ∈ ps, (e.2.ring r).init = true ∧ (e.2.ring r).cond = true ∧ (e.2.ring r).n = ((ps.map fun e => e.2.ring r).headD Ring.zero).n) :
    sbalRun p i s = some ((ps.foldl (releases r) s).onTeam p i fun m =>
      { m with sbals := m.sbals ++ [⟨r, false, ps.zipIdx.map (shareOf r ps (ps.flatMap fun e => ringRecords (s.core e.1) (e.2.ring r)))⟩] }) := by
  simp only [sbalRun, hm, Option.bind_eq_bind, Option.bind_some, ← hxs, hr, ← hps, participants_ready ready, rings_match rings]
  rfl

end

/-! ### Records written to a ring's slots (R263, R271) -/

theorem length_read (m : SMap Byte) (a n : Nat) : (SMap.read m a n).length = n := by
  induction n generalizing a with
  | zero => rfl
  | succ n ih => exact congrArg (· + 1) (ih (a + 1))

theorem getElem_read {m : SMap Byte} {a n i : Nat} (h : i < (SMap.read m a n).length) : (SMap.read m a n)[i] = SMap.get 0 m (a + i) := by
  induction n generalizing a i with
  | zero => cases h
  | succ n ih =>
    cases i with
    | zero => rfl
    | succ i => exact (ih (Nat.lt_of_succ_lt_succ h)).trans (congrArg _ (by omega))

/-- The bytes written are read back. -/
theorem read_write_same {m : SMap Byte} {a : Nat} {bs : List Byte} (w : Memory.wf m = true) : SMap.read (SMap.write m a bs) a bs.length = bs :=
  List.ext_getElem (length_read ..) fun _ _ h => (getElem_read _).trans (Memory.get_write_same w h)

/-- A write elsewhere leaves a run of bytes alone. -/
theorem read_write_disjoint {m : SMap Byte} {a b n : Nat} {bs : List Byte} (w : Memory.wf m = true) (h : b + n ≤ a ∨ a + bs.length ≤ b) :
    SMap.read (SMap.write m a bs) b n = SMap.read m b n :=
  List.ext_getElem ((length_read ..).trans (length_read ..).symm) fun i lt _ => by
    rw [length_read] at lt
    rw [getElem_read, getElem_read, Memory.get_write_ne w (by omega)]

section
variable {k : Core} {g : Ring} {h n i : Nat} {recs : List Byte} {x : Ctx}

/-- A core whose ring `g` has taken the first `n` of `recs`, four bytes each, into its slots from pointer `h` on. -/
def writeRecords (g : Ring) (h : Nat) (recs : List Byte) (n : Nat) (k : Core) : Core :=
  (List.range n).foldl (fun k i => k.engineWrite (g.at_ (h + i)) ((recs.drop (4 * i)).take 4)) k

theorem writeRecords_succ : writeRecords g h recs (n + 1) k = (writeRecords g h recs n k).engineWrite (g.at_ (h + n)) ((recs.drop (4 * n)).take 4) := by
  rw [writeRecords, List.range_succ, List.foldl_append]
  rfl

theorem writeRecords_wf (w : Memory.wf k.mem = true) : Memory.wf (writeRecords g h recs n k).mem = true :=
  List.foldlRecOn (motive := fun k : Core => Memory.wf k.mem = true) _ _ w fun _ w _ _ => engineWrite_wf w

theorem length_record (lt : i < recs.length / 4) : ((recs.drop (4 * i)).take 4).length = 4 := by
  rw [List.length_take, List.length_drop]
  omega

/-- Each record is read back from its slot, where no two of the slots written overlap. -/
theorem read_writeRecords (w : Memory.wf k.mem = true) (hn : n ≤ recs.length / 4) (hi : i < n)
    (apart : ∀ a b, a < b → b < recs.length / 4 → g.at_ (h + a) + 4 ≤ g.at_ (h + b) ∨ g.at_ (h + b) + 4 ≤ g.at_ (h + a)) :
    SMap.read (writeRecords g h recs n k).mem (g.at_ (h + i)) 4 = (recs.drop (4 * i)).take 4 := by
  induction n with
  | zero => cases hi
  | succ n ih =>
    have size := length_record (recs := recs) hn
    rw [writeRecords_succ, Core.engineWrite]
    rcases Nat.lt_succ_iff_lt_or_eq.1 hi with lt | rfl
    · rw [read_write_disjoint (writeRecords_wf w) (by rw [size]; exact apart i n lt hn)]
      exact ih (Nat.le_of_succ_le hn) lt
    · have same := read_write_same (m := (writeRecords g h recs i k).mem) (a := g.at_ (h + i)) (bs := (recs.drop (4 * i)).take 4) (writeRecords_wf w)
      rwa [size] at same

/-- Of the context, an engine's write of records changes neither rings, nor SBALs, nor landing counts. -/
theorem ctx_writeRecords (hx : k.ctx = some x) :
    ∃ y, (writeRecords g h recs n k).ctx = some y ∧ y.rings = x.rings ∧ y.sbal = x.sbal ∧ y.ln = x.ln := by
  refine List.foldlRecOn (motive := fun k : Core => ∃ y, k.ctx = some y ∧ y.rings = x.rings ∧ y.sbal = x.sbal ∧ y.ln = x.ln) _ _ ⟨x, hx, rfl, rfl, rfl⟩ ?_
  rintro k ⟨y, hy, kept⟩ i -
  exact ⟨(overrun y _ _).markBytes _, by rw [Core.engineWrite, hy]; rfl, kept⟩

end

/-! ### What an acquire has observed (R97) -/

section
variable {t sc : Nat} {ok : Nat → Bool}

theorem le_get_put_same {m : SMap Nat} {v : Nat} (h : t ≤ v) : t ≤ SMap.get 0 (SMap.put 0 m sc v) sc := by
  rcases Nat.eq_zero_or_pos v with rfl | pos
  · omega
  · rwa [SMap.get_put_new (Nat.ne_of_gt pos)]

/-- A later note of a release of time `t` leaves what has been seen at `sc` at `t` or later. -/
theorem le_get_note_step {m : SMap Nat} {j : Nat} (h : t ≤ SMap.get 0 m sc) :
    t ≤ SMap.get 0 (if ok j then SMap.put 0 m j (max (SMap.get 0 m j) t) else m) sc := by
  split
  · by_cases same : sc = j
    · subst same
      exact le_get_put_same (Nat.le_max_right ..)
    · rcases Nat.eq_zero_or_pos t with rfl | pos
      · omega
      · rwa [SMap.get_put_new_ne (by omega) _ same]
  · exact h

/-- Once a release of time `t` is noted, an acquire at a scope that it is noted for has observed it. -/
theorem le_seen_note {y : Ctx} (hs : sc < 5) (hok : ok sc = true) : t ≤ SMap.get 0 (y.note t ok).seen sc := by
  obtain ⟨before, after, scopes⟩ := List.append_of_mem (List.mem_range.2 hs)
  rw [Ctx.note, scopes, List.foldl_append, List.foldl_cons, if_pos hok]
  exact List.foldlRecOn (motive := fun m => t ≤ SMap.get 0 m sc) after _ (le_get_put_same (Nat.le_max_right ..)) fun _ le _ _ => le_get_note_step le

theorem le_foldl_max {α : Type} {l : List α} {g : α → Nat} {n : Nat} {a : α} (ha : a ∈ l) : g a ≤ l.foldl (fun n a => max n (g a)) n := by
  obtain ⟨before, after, rfl⟩ := List.append_of_mem ha
  rw [List.foldl_append, List.foldl_cons]
  exact List.foldlRecOn (motive := fun n => g a ≤ n) after _ (Nat.le_max_right ..) fun _ le _ _ => Nat.le_trans le (Nat.le_max_left ..)

end

/-! ### SBAL_COMPLETE (R271, R272) -/

section
variable {s : State} {p i r time d : Nat} {m : Team} {o : SBalOp} {os : List SBalOp} {h : Share} {l : List Share} {x : Ctx}

/-- The participant's context once its ring `r` has the `n` records of its share, up to the release that it acquires. -/
def tookShare (r n time : Nat) (g : Ring) (x : Ctx) : Ctx :=
  { x.setRing r { g with t := (g.h + n) % 2 ^ 32, busy := false } with sbal := x.sbal.filter (fun b => b.ring != r) }.note time fun sc => sc != 0

theorem landShare_of_ctx (hx : s.ctx h.core = some x) : landShare r time s h =
    (((s.setCore h.core (writeRecords (x.ring r) (x.ring r).h h.recs (h.recs.length / 4) (s.core h.core))).onCtx h.core
      (tookShare r (h.recs.length / 4) time (x.ring r))).acquire h.core 1).bump h.core h.ln := by
  rw [landShare, hx]
  rfl

/-- The landing of a share leaves the other cores alone. -/
theorem core_landShare_ne (ne : d ≠ h.core) : (landShare r time s h).core d = s.core d := by
  cases hx : s.ctx h.core with
  | none => rw [landShare, hx]
  | some x =>
    obtain ⟨y, hy, -⟩ := ctx_writeRecords (g := x.ring r) (h := (x.ring r).h) (recs := h.recs) (n := h.recs.length / 4) hx
    have written := core_setCore_same (s := s) (c := h.core) hy
    have placed := core_onCtx_same (g := tookShare r (h.recs.length / 4) time (x.ring r)) ((congrArg Core.ctx written).trans hy)
    rw [landShare_of_ctx hx, State.bump, core_onCtx_ne ne, core_acquire_ne (congrArg Core.ctx placed) ne, core_onCtx_ne ne, core_setCore_ne hy ne]

theorem core_foldl_landShare (others : ∀ h ∈ l, h.core ≠ d) : (l.foldl (landShare r time) s).core d = s.core d :=
  List.foldlRecOn (motive := fun t : State => t.core d = s.core d) l _ rfl fun _ kept h mem => (core_landShare_ne (others h mem).symm).trans kept

/-- What the participant on core `h.core` has once its share has landed: `k` is its core and `x` its context before. -/
def Landed (r time : Nat) (h : Share) (k : Core) (x : Ctx) (t : State) : Prop :=
  (t.core h.core).mem = (writeRecords (x.ring r) (x.ring r).h h.recs (h.recs.length / 4) k).mem ∧
  ∃ y, t.ctx h.core = some y ∧ y.ring r = { x.ring r with t := ((x.ring r).h + h.recs.length / 4) % 2 ^ 32, busy := false } ∧
    y.sbal = x.sbal.filter (fun b => b.ring != r) ∧ y.ln = SMap.put 0 x.ln h.ln ((SMap.get 0 x.ln h.ln + 1) % 2 ^ 32) ∧ time ≤ y.ctl.tfloor

theorem landShare_lands (hx : s.ctx h.core = some x) (w : SMap.wf Ring.zero x.rings = true) : Landed r time h (s.core h.core) x (landShare r time s h) := by
  obtain ⟨y, hy, rings, sbal, ln⟩ := ctx_writeRecords (g := x.ring r) (h := (x.ring r).h) (recs := h.recs) (n := h.recs.length / 4) hx
  have written := core_setCore_same (s := s) (c := h.core) hy
  have placed := core_onCtx_same (g := tookShare r (h.recs.length / 4) time (x.ring r)) ((congrArg Core.ctx written).trans hy)
  obtain ⟨mem, acquired⟩ := core_acquire_same (sc := 1) (congrArg Core.ctx placed)
  have counted := core_onCtx_same (g := fun x => { x with ln := SMap.put 0 x.ln h.ln ((SMap.get 0 x.ln h.ln + 1) % 2 ^ 32) }) acquired
  rw [landShare_of_ctx hx, State.bump]
  refine ⟨?_, _, congrArg Core.ctx counted, ?_, congrArg _ sbal, by rw [← ln]; rfl, ?_⟩
  · rw [counted, mem, placed, written]
  · exact SMap.get_put_same (rings ▸ w)
  · exact Nat.le_trans (le_seen_note (by decide) rfl) (Nat.le_max_right ..)

/-- Of shares of different participants, each lands as it would alone. -/
theorem foldl_landShare_lands (distinct : (l.map Share.core).Nodup) (hl : h ∈ l) (hx : s.ctx h.core = some x) (w : SMap.wf Ring.zero x.rings = true) :
    Landed r time h (s.core h.core) x (l.foldl (landShare r time) s) := by
  obtain ⟨before, after, rfl⟩ := List.append_of_mem hl
  simp only [List.map_append, List.map_cons, List.nodup_append, List.nodup_cons, List.mem_map, List.mem_cons] at distinct
  obtain ⟨-, ⟨notAfter, -⟩, notBefore⟩ := distinct
  have first : (before.foldl (landShare r time) s).core h.core = s.core h.core :=
    core_foldl_landShare fun e he => notBefore _ ⟨e, he, rfl⟩ _ (.inl rfl)
  have last (t : State) : (after.foldl (landShare r time) t).core h.core = t.core h.core :=
    core_foldl_landShare fun e he same => notAfter ⟨e, he, same⟩
  have lands := landShare_lands (r := r) (time := time) (h := h) ((congrArg Core.ctx first).trans hx) w
  rw [first] at lands
  rw [List.foldl_append, List.foldl_cons, Landed, State.ctx, last]
  exact lands

/-- The latest release at team scope among the participants' (R272). -/
def releaseTime (s : State) (l : List Share) : Nat := l.foldl (fun n h => max n (((s.ctx h.core).map fun x => SMap.get 0 x.relTime 1).getD 0)) 0

theorem relTime_le_releaseTime (hl : h ∈ l) (hx : s.ctx h.core = some x) : SMap.get 0 x.relTime 1 ≤ releaseTime s l := by
  have le := le_foldl_max (g := fun h : Share => ((s.ctx h.core).map fun x => SMap.get 0 x.relTime 1).getD 0) (n := 0) hl
  rwa [hx] at le

theorem sbalComplete_of_working (hm : s.team p i = some m) (ho : m.sbals = o :: os) (works : ∀ h ∈ o.shares, s.works p (unitStream h.core) = true) :
    sbalComplete p i s = some ((o.shares.foldl (landShare o.ring (releaseTime s o.shares)) s).onTeam p i fun m => { m with sbals := m.sbals.drop 1 }) := by
  simp only [sbalComplete, hm, ho, Option.bind_eq_bind, Option.bind_some, List.head?_cons, List.all_eq_true.2 works]
  rfl

theorem sameParts_foldl_landShare : SameParts s (l.foldl (landShare r time) s) :=
  List.foldlRecOn (motive := SameParts s) l (landShare r time) ⟨rfl, rfl⟩ fun t kept h _ => by
    cases hx : t.ctx h.core with
    | none => rwa [landShare, hx]
    | some x => rw [landShare_of_ctx hx]; simpa [SameParts, State.bump, State.acquire, State.dropLines] using kept

end

/-- Settles O34: SBAL_RUN hands out the shares, SBAL_COMPLETE lands each on its own core, and a record written to its slot is read back from it. -/
theorem balanceRuns : Obligations.BalanceRuns := by
  refine ⟨?runs, ?completes, ?records⟩
  case runs =>
    intro s p i r m xs ps recs hp hm hxs hps _ hr ready hrecs
    subst hrecs
    refine ⟨_, engine_some (sbalRun_of_match hm hxs hps hr (fun e he => ?ready) fun e he => ?rings),
      team_onTeam_of_sameParts sameParts_foldl_releases hp hm fun _ => rfl⟩
    case ready =>
      obtain ⟨drained, works, -⟩ := ready e he
      exact ⟨drained, works⟩
    case rings =>
      obtain ⟨-, -, rings⟩ := ready e he
      exact rings
  case completes =>
    intro s p i m o os hp hm ho distinct works
    refine ⟨_, _, engine_some (sbalComplete_of_working hm ho works),
      team_onTeam_of_sameParts sameParts_foldl_landShare hp hm fun _ => rfl, congrArg (List.drop 1) ho, ?_⟩
    intro h hh x hx w _
    obtain ⟨mem, y, hy, ring, sbal, ln, floor⟩ := foldl_landShare_lands (r := o.ring) (time := releaseTime s o.shares) distinct hh hx w
    refine ⟨mem, y, hy, by rw [ring], by rw [ring], by rw [ring], sbal, ln, fun g hg z hz => ?_⟩
    exact Nat.le_trans (relTime_le_releaseTime hg hz) floor
  case records =>
    intro k r h i recs w hi apart
    exact read_writeRecords w (Nat.le_refl _) hi apart

/-! ### Setting up a ring (R264) -/

section
variable {h : Hdr} {f : F3} {s : State} {x y : Ctx} {ls : List Loc} {i : Instr}

theorem bits_eq_div (n hi lo : Nat) : bits n hi lo = n / 2 ^ lo % 2 ^ (hi + 1 - lo) := by
  rw [bits, Nat.shiftRight_eq_div_pow]

theorem await_of_true {α : Type} {ok : Bool} {k : Act α} (e : ok = true) : Act.await ok k = k := if_pos e

theorem await_of_false {α : Type} {ok : Bool} {k : Act α} (e : ok = false) : Act.await ok k = .wait := if_neg (Bool.eq_false_iff.1 e)

/-- The ring that GINIT sets up at base `b` by the configuration word `c` (R264). -/
def ringOfConfig (b c : Nat) : Ring :=
  { init := true, base := b, n := c % 2 ^ 17, slot := c / 2 ^ 20 % 2 ^ 20, prod := c / 2 ^ 40 % 16
    cons := c / 2 ^ 44 % 16, cond := c.testBit 48, h := 0, t := 0, resv := 0, busy := false, advs := [] }

/-- GINIT's checks in order, and the ring that it sets up, by the fields of the configuration word. -/
theorem exec_ginit : exec (.ginit h f) s = syl h s fun _ x =>
    .need (ringCfgOk (x.rs f.c).toNat) .ringConfig (.need ((x.rs f.b).toNat % 32 == 0) .misalign
      (.need (inSpad (x.rs f.b).toNat ((x.rs f.c).toNat % 2 ^ 17 * ((x.rs f.c).toNat / 2 ^ 20 % 2 ^ 20))) .bounds
        (.need (!ringInUse s s.cur x f.a.toNat) .ringBusy
          (.ok ((x.leaveRing f.a.toNat).setRing f.a.toNat (ringOfConfig (x.rs f.b).toNat (x.rs f.c).toNat)))))) := by
  show execGinit h f s = _
  simp only [execGinit, bits_eq_div, Nat.reduceAdd, Nat.reduceSub, Nat.pow_zero, Nat.div_one]
  rfl

section
variable (a : Acts s h x)
include a

theorem ginit_badConfig (bad : ringCfgOk (x.rs f.c).toNat = false) : exec (.ginit h f) s = .next (s.issueFault (slotNo h.slot) 17 0) :=
  exec_ginit.trans (syl_fault a (need_of_false bad))

variable (cfg : ringCfgOk (x.rs f.c).toNat = true)
include cfg

theorem ginit_misaligned (m : (x.rs f.b).toNat % 32 ≠ 0) : exec (.ginit h f) s = .next (s.issueFault (slotNo h.slot) 2 0) :=
  exec_ginit.trans (syl_fault a ((need_of_true cfg).trans (need_of_false (beq_eq_false_iff_ne.2 m))))

variable (m : (x.rs f.b).toNat % 32 = 0)
include m

theorem ginit_outOfBounds (b : 0x800000 < (x.rs f.b).toNat + (x.rs f.c).toNat % 2 ^ 17 * ((x.rs f.c).toNat / 2 ^ 20 % 2 ^ 20)) :
    exec (.ginit h f) s = .next (s.issueFault (slotNo h.slot) 3 0) :=
  exec_ginit.trans (syl_fault a ((need_of_true cfg).trans ((need_of_true (beq_iff_eq.2 m)).trans (need_of_false (decide_eq_false (Nat.not_le.2 b))))))

variable (b : (x.rs f.b).toNat + (x.rs f.c).toNat % 2 ^ 17 * ((x.rs f.c).toNat / 2 ^ 20 % 2 ^ 20) ≤ 0x800000)
include b

theorem ginit_inUse (use : ringInUse s s.cur x f.a.toNat = true) : exec (.ginit h f) s = .next (s.issueFault (slotNo h.slot) 19 0) :=
  exec_ginit.trans (syl_fault a ((need_of_true cfg).trans ((need_of_true (beq_iff_eq.2 m)).trans ((need_of_true (inSpad_iff.2 b)).trans
    (need_of_false (congrArg not use))))))

theorem ginit_acts (free : ringInUse s s.cur x f.a.toNat = false) : exec (.ginit h f) s =
    .next (s.put ((x.leaveRing f.a.toNat).setRing f.a.toNat (ringOfConfig (x.rs f.b).toNat (x.rs f.c).toNat))) :=
  exec_ginit.trans (syl_ok a ((need_of_true cfg).trans ((need_of_true (beq_iff_eq.2 m)).trans ((need_of_true (inSpad_iff.2 b)).trans
    (need_of_true (congrArg not free))))))

end

/-! ### Waiting for slots and moving pointers (R265) -/

section
variable {go : Ring → Nat → Act Ctx}

theorem withRing_notInit (off : (x.ring f.a.toNat).init = false) : withRing x f go = .fault 18 0 := need_of_false off

variable (on : (x.ring f.a.toNat).init = true)
include on

theorem withRing_busy (busy : (x.ring f.a.toNat).busy = true) : withRing x f go = .fault 19 0 :=
  (need_of_true on).trans (need_of_false (congrArg not busy))

theorem withRing_ok (free : (x.ring f.a.toNat).busy = false) : withRing x f go = go (x.ring f.a.toNat) (ringN x f) :=
  (need_of_true on).trans (need_of_true (congrArg not free))

end

/-- The frame that GWF, GWE, GADVH and GADVT share: the checks of R265, then what `go` does with the ring and the count. -/
def ringFrame (h : Hdr) (f : F3) (s : State) (go : Ctx → Ring → Nat → Act Ctx) : Out := syl h s fun _ x => withRing x f (go x)

theorem exec_gwf : exec (.gwf h f) s = ringFrame h f s fun x r n =>
    .need (decide (n ≤ r.n)) .ringMisuse (.await (decide (n ≤ r.fill)) (.ok x)) := rfl
theorem exec_gwe : exec (.gwe h f) s = ringFrame h f s fun x r n =>
    .need (decide (n ≤ r.n)) .ringMisuse (.await (decide (n ≤ r.free)) (.ok x)) := rfl
theorem exec_gadvh : exec (.gadvh h f) s = ringFrame h f s fun x r n =>
    .need (r.cons == 0 && !r.cond && decide (n ≤ r.fill)) .ringMisuse (.ok (x.setRing f.a.toNat { r with h := (r.h + n) % 2 ^ 32 })) := rfl
theorem exec_gadvt : exec (.gadvt h f) s = ringFrame h f s fun x r n =>
    .need (r.prod == 0 && !r.cond && decide (n ≤ r.free)) .ringMisuse (.ok (x.setRing f.a.toNat (r.advance x.bn n))) := rfl

section
variable {go : Ctx → Ring → Nat → Act Ctx} (d : exec i s = ringFrame h f s go) (a : Acts s h x)
include d a

theorem exec_of_ringFrame_refuses :
    ((x.ring f.a.toNat).init = false → exec i s = .next (s.issueFault (slotNo h.slot) 18 0)) ∧
    ((x.ring f.a.toNat).init = true → (x.ring f.a.toNat).busy = true → exec i s = .next (s.issueFault (slotNo h.slot) 19 0)) :=
  ⟨fun off => d.trans (syl_fault a (withRing_notInit off)), fun on busy => d.trans (syl_fault a (withRing_busy on busy))⟩

variable (on : (x.ring f.a.toNat).init = true) (free : (x.ring f.a.toNat).busy = false)
include on free

theorem exec_of_ringFrame_fault (e : go x (x.ring f.a.toNat) (ringN x f) = .fault 18 0) : exec i s = .next (s.issueFault (slotNo h.slot) 18 0) :=
  d.trans (syl_fault a ((withRing_ok on free).trans e))

theorem exec_of_ringFrame_wait (e : go x (x.ring f.a.toNat) (ringN x f) = .wait) : exec i s = .next s.hold :=
  d.trans (syl_wait a ((withRing_ok on free).trans e))

theorem exec_of_ringFrame_ok (e : go x (x.ring f.a.toNat) (ringN x f) = .ok y) : exec i s = .next (s.put y) :=
  d.trans (syl_ok a ((withRing_ok on free).trans e))

end

section
variable (a : Acts s h x) (on : (x.ring f.a.toNat).init = true) (free : (x.ring f.a.toNat).busy = false)
include a on free

/-- GWF and GWE wait for slots of the kind that each counts. -/
theorem exec_of_slotWait {count : Ring → Nat}
    (d : exec i s = ringFrame h f s fun x r n => .need (decide (n ≤ r.n)) .ringMisuse (.await (decide (n ≤ count r)) (.ok x))) :
    ((x.ring f.a.toNat).n < ringN x f → exec i s = .next (s.issueFault (slotNo h.slot) 18 0)) ∧
    (ringN x f ≤ (x.ring f.a.toNat).n → ringN x f ≤ count (x.ring f.a.toNat) → exec i s = .next (s.put x)) ∧
    (ringN x f ≤ (x.ring f.a.toNat).n → count (x.ring f.a.toNat) < ringN x f → exec i s = .next s.hold) :=
  ⟨fun short => exec_of_ringFrame_fault d a on free (need_of_false (decide_eq_false (Nat.not_le.2 short))),
    fun fits ready => exec_of_ringFrame_ok d a on free ((need_of_true (decide_eq_true fits)).trans (await_of_true (decide_eq_true ready))),
    fun fits early => exec_of_ringFrame_wait d a on free ((need_of_true (decide_eq_true fits)).trans (await_of_false (decide_eq_false (Nat.not_le.2 early))))⟩

/-- GADVH and GADVT move a pointer by slots that are there, where the role `role` says that software owns it. -/
theorem exec_of_pointerMove {role count : Ring → Nat} {moved : Ctx → Ring → Nat → Ring}
    (d : exec i s = ringFrame h f s fun x r n =>
      .need (role r == 0 && !r.cond && decide (n ≤ count r)) .ringMisuse (.ok (x.setRing f.a.toNat (moved x r n)))) :
    ((role (x.ring f.a.toNat) ≠ 0 ∨ (x.ring f.a.toNat).cond = true ∨ count (x.ring f.a.toNat) < ringN x f) →
      exec i s = .next (s.issueFault (slotNo h.slot) 18 0)) ∧
    (role (x.ring f.a.toNat) = 0 → (x.ring f.a.toNat).cond = false → ringN x f ≤ count (x.ring f.a.toNat) →
      exec i s = .next (s.put (x.setRing f.a.toNat (moved x (x.ring f.a.toNat) (ringN x f))))) := by
  refine ⟨fun bad => exec_of_ringFrame_fault d a on free (need_of_false ?_), fun software plain there => exec_of_ringFrame_ok d a on free (need_of_true ?_)⟩
  · rcases bad with engine | cond | few
    · simp [engine]
    · simp [cond]
    · simp [few]
  · simp [software, plain, there]

end

theorem exec_gstat : exec (.gstat h f) s = syl h s fun _ x => .ok (x.putS h 2 f.b (BitVec.ofNat 64
    (if (x.ring f.a.toNat).init = false then 0 else if f.sub.getLsbD 0 then (x.ring f.a.toNat).h + (x.ring f.a.toNat).t * 2 ^ 32
      else (x.ring f.a.toNat).fill + (x.ring f.a.toNat).free * 2 ^ 32))) := by
  show execGstat h f s = _
  simp only [execGstat, Bool.not_eq_true']

/-! ### Conditional records (R269, R270) -/

/-- The checks of a conditional ring that SPUSHC and SPOPC share. -/
def checkCondRing {α : Type} (r : Ring) (k : Act α) : Act α := .need (r.init && r.cond) .ringMisuse (.need (!r.busy) .ringBusy k)

section
variable {α : Type} {r : Ring} {k : Act α}

theorem checkCondRing_misuse (bad : r.init = false ∨ r.cond = false) : checkCondRing r k = .fault 18 0 := need_of_false (Bool.and_eq_false_iff.2 bad)

variable (on : r.init = true) (cond : r.cond = true)
include on cond

theorem checkCondRing_busy (busy : r.busy = true) : checkCondRing r k = .fault 19 0 :=
  (need_of_true (Bool.and_eq_true_iff.2 ⟨on, cond⟩)).trans (need_of_false (congrArg not busy))

theorem checkCondRing_ok (free : r.busy = false) : checkCondRing r k = k :=
  (need_of_true (Bool.and_eq_true_iff.2 ⟨on, cond⟩)).trans (need_of_true (congrArg not free))

end

theorem lane_eq_div (v l : Nat) : bits v (32 * l + 31) (32 * l) = v / 2 ^ (32 * l) % 2 ^ 32 := by
  rw [bits_eq_div, show 32 * l + 31 + 1 - 32 * l = 32 by omega]

/-- The records that SPUSHC takes from its vector operand: the lanes that its mask enables. -/
def pushed (km : KMask) (v : VReg) : List Nat := ((List.range 128).filter km.getLsbD).map fun l => v.toNat / 2 ^ (32 * l) % 2 ^ 32

/-- SPUSHC's effect: `lanes` are stored in the slots of ring `r` from T on. -/
def pushInto (y : Ctx) (h : Hdr) (f : F3) (r : Ring) (lanes : List Nat) : Ctx :=
  (y.store h 3 (lanes.zipIdx.flatMap fun e => (bytesOf e.1 4).zipIdx.map fun b => (r.at_ (r.t + e.2) + b.2, b.1))).setRing f.a.toNat
    { r with t := (r.t + lanes.length) % 2 ^ 32 }

theorem exec_spushc : exec (.spushc h f) s = syl h s fun _ x => vframe x [f.b] [] false
    (fun y => checkCondRing (x.ring f.a.toNat) (.need (decide ((pushed (x.rk (f.sub.toNat % 16)) (y.rvec f.b)).length ≤ (x.ring f.a.toNat).free)) .ringMisuse
      (.ok (pushed (x.rk (f.sub.toNat % 16)) (y.rvec f.b)))))
    fun y _ lanes => pushInto y h f (x.ring f.a.toNat) lanes := by
  show execSpushc h f s = _
  simp only [execSpushc, lane_eq_div]
  rfl

section
variable (a : Acts s h x) (o : Operands x [f.b] [] false y ls)
include a o

theorem spushc_notConditional (bad : (x.ring f.a.toNat).init = false ∨ (x.ring f.a.toNat).cond = false) :
    exec (.spushc h f) s = .next (s.issueFault (slotNo h.slot) 18 0) :=
  exec_spushc.trans (syl_fault a (vframe_fault o fun _ => checkCondRing_misuse bad))

variable (on : (x.ring f.a.toNat).init = true) (cond : (x.ring f.a.toNat).cond = true)
include on cond

theorem spushc_busy (busy : (x.ring f.a.toNat).busy = true) : exec (.spushc h f) s = .next (s.issueFault (slotNo h.slot) 19 0) :=
  exec_spushc.trans (syl_fault a (vframe_fault o fun _ => checkCondRing_busy on cond busy))

variable (free : (x.ring f.a.toNat).busy = false)
include free

theorem spushc_full (full : (x.ring f.a.toNat).free < (pushed (x.rk (f.sub.toNat % 16)) (x.rvec f.b)).length) :
    exec (.spushc h f) s = .next (s.issueFault (slotNo h.slot) 18 0) :=
  exec_spushc.trans (syl_fault a (vframe_fault o fun _ => (checkCondRing_ok on cond free).trans (need_of_false (decide_eq_false (Nat.not_le.2 full)))))

theorem spushc_acts (room : (pushed (x.rk (f.sub.toNat % 16)) (x.rvec f.b)).length ≤ (x.ring f.a.toNat).free) :
    exec (.spushc h f) s = .next (s.put (pushInto y h f (x.ring f.a.toNat) (pushed (x.rk (f.sub.toNat % 16)) (x.rvec f.b)))) :=
  exec_spushc.trans (syl_ok a (vframe_ok o fun _ => (checkCondRing_ok on cond free).trans (need_of_true (decide_eq_true room))))

end

/-- SPOPC's entry: the first `n` records of ring `r`, one in each lane. -/
def popped (k : Core) (x : Ctx) (r : Ring) (n : Nat) : Nat :=
  (List.range n).foldl (fun v i => v ||| ofBytes (engineRead x k.mem x.bn (r.at_ (r.h + i)) 4) <<< (32 * i)) 0

/-- SPOPC's effect: up to 128 records of ring `r` become the next entry of the port of stream `st`, and their number is put in flight. -/
def popInto (k : Core) (x : Ctx) (h : Hdr) (f : F3) (r : Ring) (st : Stream) : Ctx :=
  ((x.setRing f.a.toNat { r with h := (r.h + min r.fill 128) % 2 ^ 32 }).setStream f.c.toNat (some { st with
    queue := st.queue ++ [⟨st.count, x.bn, BitVec.ofNat 4096 (popped k x r (min r.fill 128)), true, x.bn⟩]
    count := st.count + 1 })).putS h 2 f.b (BitVec.ofNat 64 (min r.fill 128))

theorem spopc_noStream (a : Acts s h x) (e : x.stream f.c.toNat = none) : execSpopc h f s = .next (s.issueFault (slotNo h.slot) 16 0) :=
  syl_fault a (by simp only [e]; rfl)

section
variable {st : Stream} (a : Acts s h x) (e : x.stream f.c.toNat = some st)
include a e

/-- SPOPC's checks in order, where a stream is attached to its port. -/
theorem spopc_of_stream : execSpopc h f s = syl h s fun k x => .need (st.mode == .cond && st.bound) .streamMisuse
    (checkCondRing (x.ring f.a.toNat) (.await (decide (st.queue.length < 4)) (.ok (popInto k x h f (x.ring f.a.toNat) st)))) := by
  simp only [execSpopc, syl, sylS, a.1, a.2, e, if_true]
  rfl

theorem spopc_wrongPort (bad : st.mode ≠ .cond ∨ st.bound = false) : execSpopc h f s = .next (s.issueFault (slotNo h.slot) 16 0) :=
  (spopc_of_stream a e).trans (syl_fault a (need_of_false (Bool.and_eq_false_iff.2 (bad.imp_left beq_eq_false_iff_ne.2))))

variable (mode : st.mode = .cond) (bound : st.bound = true)
include mode bound

/-- What follows the checks of the port decides. -/
theorem spopc_of_condPort : execSpopc h f s = syl h s fun k x =>
    checkCondRing (x.ring f.a.toNat) (.await (decide (st.queue.length < 4)) (.ok (popInto k x h f (x.ring f.a.toNat) st))) := by
  rw [spopc_of_stream a e, mode, bound]
  rfl

theorem spopc_notConditional (bad : (x.ring f.a.toNat).init = false ∨ (x.ring f.a.toNat).cond = false) :
    execSpopc h f s = .next (s.issueFault (slotNo h.slot) 18 0) :=
  (spopc_of_condPort a e mode bound).trans (syl_fault a (checkCondRing_misuse bad))

variable (on : (x.ring f.a.toNat).init = true) (cond : (x.ring f.a.toNat).cond = true)
include on cond

theorem spopc_busy (busy : (x.ring f.a.toNat).busy = true) : execSpopc h f s = .next (s.issueFault (slotNo h.slot) 19 0) :=
  (spopc_of_condPort a e mode bound).trans (syl_fault a (checkCondRing_busy on cond busy))

variable (free : (x.ring f.a.toNat).busy = false)
include free

theorem spopc_waits (full : 4 ≤ st.queue.length) : execSpopc h f s = .next s.hold :=
  (spopc_of_condPort a e mode bound).trans (syl_wait a ((checkCondRing_ok on cond free).trans (await_of_false (decide_eq_false (Nat.not_lt.2 full)))))

theorem spopc_acts (room : st.queue.length < 4) : execSpopc h f s = .next (s.put (popInto (s.core s.cur) x h f (x.ring f.a.toNat) st)) :=
  (spopc_of_condPort a e mode bound).trans (syl_ok a ((checkCondRing_ok on cond free).trans (await_of_true (decide_eq_true room))))

end

/-! ### Joining an SBAL (R271) -/

theorem sbal_busy (a : Acts s h x) (busy : (x.ring f.a.toNat).busy = true) : execSbal h f s = .next (s.issueFault (slotNo h.slot) 19 0) :=
  syl_fault a (need_of_false (congrArg not busy))

theorem sbal_acts (a : Acts s h x) (free : (x.ring f.a.toNat).busy = false) : execSbal h f s =
    .next (s.put { x.setRing f.a.toNat { x.ring f.a.toNat with busy := true } with sbal := x.sbal ++ [⟨f.a.toNat, f.d.toNat, false, false, x.bn⟩] }) :=
  syl_ok a (need_of_true (congrArg not free))

end

/-- Settles O33: each instruction answers the checks of its frame in order, and what it does where they pass is its lemma's. -/
theorem ringInstructions : Obligations.RingInstructions := by
  refine ⟨?slots, ?records⟩
  case slots =>
    rintro s h f x r n b c a rfl rfl rfl rfl
    refine ⟨ginit_badConfig a, ginit_misaligned a, ginit_outOfBounds a, ginit_inUse a, ginit_acts a, fun i row => ?_, fun on free => ?_, exec_gstat.trans (syl_ok a rfl)⟩
    · simp only [List.mem_cons, List.not_mem_nil, or_false] at row
      rcases row with rfl | rfl | rfl | rfl
      · exact exec_of_ringFrame_refuses exec_gwf a
      · exact exec_of_ringFrame_refuses exec_gwe a
      · exact exec_of_ringFrame_refuses exec_gadvh a
      · exact exec_of_ringFrame_refuses exec_gadvt a
    · obtain ⟨fullOver, fullReady, fullEarly⟩ := exec_of_slotWait a on free exec_gwf
      obtain ⟨freeOver, freeReady, freeEarly⟩ := exec_of_slotWait a on free exec_gwe
      obtain ⟨headBad, headMoves⟩ := exec_of_pointerMove a on free exec_gadvh
      obtain ⟨tailBad, tailMoves⟩ := exec_of_pointerMove a on free exec_gadvt
      exact ⟨fun short => ⟨fullOver short, freeOver short⟩, fullReady, fullEarly, freeReady, freeEarly, headBad, headMoves, tailBad, tailMoves⟩
  case records =>
    rintro s h f x y ls r lanes a rfl rfl
    exact ⟨fun o => ⟨spushc_notConditional a o, spushc_busy a o, spushc_full a o, spushc_acts a o⟩, spopc_noStream a,
      fun st e => ⟨spopc_wrongPort a e, spopc_notConditional a e, spopc_busy a e, spopc_waits a e, spopc_acts a e⟩, sbal_busy a, sbal_acts a⟩

/-! ### SBIND and the reads of an earlier stream (R256, R395) -/

section
variable {h : Hdr} {f : F3} {s : State} {x : Ctx}

/-- The conditional stream that SBIND attaches: one without a view (R256). -/
def condStream (x : Ctx) (f : F3) : Stream :=
  { mode := .cond, view := ⟨0, false, false, 0, 1, false, 0, 0, 0, [], [], 0⟩, scope := scopeOf f, acq := acqOf f, rel := relOf f, issued := x.bn, pos := 0, sent := 0
    queue := [], count := 0, bound := true, slots := 0, last := none, shadow := [], inbox := [] }

/-- SBIND of a conditional stream without acquire attaches it, and drops the walks and the reads that only an earlier stream of its number could use. -/
theorem sbind_cond_acts (a : Acts s h x) (unbound : x.stream f.b.toNat = none) (cond : f.sub.getLsbD 2 = true) (noAcquire : f.ord.getLsbD 0 = false) :
    execSbind h f s = .next (((s.put (x.setStream f.b.toNat (some (condStream x f)))).forget (.stream s.cur f.b.toNat)).unask s.cur f.b.toNat) := by
  have mode : sModeOf f = .cond := if_pos cond
  refine sylS_ok a ?_
  simp only [mode, beq_self_eq_true, Bool.not_true, Bool.and_false, Ctx.exchangeIf, Bool.true_or, unbound, Option.isNone_none, Bool.false_eq_true, if_false, need_of_true, acqOf, noAcquire, condStream]
  rfl

end

/-- A task that a launch has just started on core 0, with no stream attached. -/
def freshTask : Ctx := startCtx State.reset 0 loadedNest 0 0 0

/-- A line read that an earlier stream 0 of core 0 has left in the fabric, for that stream alone. -/
def staleRead : Packet := { streamPacket 0 0 freshTask (.home 0) (.read 0 0 0) with once := true }

/-- The fresh task with that read on its way. -/
def withStaleRead : State := { State.reset.setCtx 0 freshTask with fabric := [staleRead] }

/-- SBIND of a conditional stream to port 0. -/
def sbindCond : F3 := ⟨0, 0, 0, 0, 0, 0, false, false, false, false, 0, 4⟩

theorem sbindCond_acts : Acts withStaleRead ⟨.d, 0, false, false⟩ freshTask := ⟨rfl, rfl⟩

/-- Refutes O32: SBIND also drops the reads that only an earlier stream of the same number could use (R395), so where such a read is on its way, the state that the statement's clause for SBIND gives, with the fabric as it was, is not the next one. -/
theorem not_streamInstructionsAndSteps : ¬ Obligations.StreamInstructionsAndSteps := by
  rintro ⟨binding, -⟩
  obtain ⟨-, -, -, attaches, -⟩ := binding withStaleRead ⟨.d, 0, false, false⟩ sbindCond freshTask _ _ _ _ sbindCond_acts (by decide) rfl rfl rfl rfl
  have dropped := sbind_cond_acts (f := sbindCond) sbindCond_acts rfl rfl rfl
  have same := congrArg State.fabric (Host.Outcome.next.inj (dropped.symm.trans (attaches rfl (.inl rfl))))
  exact absurd same (List.cons_ne_nil staleRead []).symm

end Sys2Proof.Machine.StreamEngine

/-! ## The matrix engine (R292 to R315) -/

namespace Sys2Proof.Machine.MatrixEngine

-- One proof at a time: each one that waits for another holds a thread's stack, and the text as a whole is near the memory limit.
set_option Elab.async false

open VectorEngine (inSpad_iff need_of_true need_of_false)
open StreamEngine (lane_eq_div await_of_true await_of_false core_setCore_same)

/-! ### Frames and checks that M-slot syllables share (R294, R299) -/

section
variable {h : Hdr} {f : F3} {s : State} {x y : Ctx} {ls : List Loc}

/-- A syllable that writes no vector changes the ports to be popped, before its own effect. -/
theorem eq_pops_of_operands {reads : List (BitVec 7)} {t : Bool} (o : Operands x reads [] t y ls) : ∃ p, y = { x with pops := p } := by
  obtain ⟨a, b, -, written, rfl⟩ := o
  cases written
  exact ⟨_, rfl⟩

/-- The vector frame of a syllable that writes no vector, where what its checks answer may depend on the ports to be popped. -/
theorem vframe_ok_of_reads {reads : List (BitVec 7)} {t : Bool} {α : Type} {go : Ctx → Act α} {fin : Ctx → List Loc → α → Ctx} {v : Ctx → α}
    (o : Operands x reads [] t y ls) (e : ∀ p, go { x with pops := p } = .ok (v { x with pops := p })) :
    vframe x reads [] t go fin = .ok (fin y ls (v y)) := by
  obtain ⟨a, b, ha, hb, rfl⟩ := o
  have answers := e a.pops
  rw [← readPorts_eq ha] at answers
  cases hb
  simp only [vframe, ha, writePorts, Ctx.readPorts, Act.bind, e x.pops, answers, ← readPorts_eq ha]

theorem laneAddr_eq (v : BitVec 7) (l : Nat) : x.laneAddr v l = (x.rvec v).toNat / 2 ^ (32 * l) % 2 ^ 32 := lane_eq_div ..

variable {α : Type} {k : Act α} {ts : List Nat} {t ea n : Nat}

theorem checkTile_busy (busy : x.tileBusy ts = true) : checkTile x ts k = .fault 5 0 := need_of_false (congrArg not busy)

theorem checkTile_free (free : x.tileBusy ts = false) : checkTile x ts k = k := need_of_true (congrArg not free)

/-- While no nest is incomplete, none keeps a tile busy. -/
theorem tileBusy_of_idle (idle : x.nests.any Nest.incomplete = false) : x.tileBusy ts = false := by
  rw [List.any_eq_false] at idle
  simp only [Ctx.tileBusy, List.any_eq_false, Bool.and_eq_true, not_and]
  exact fun n mem incomplete => absurd incomplete (idle n mem)

section
variable (free : x.tileBusy [t] = false)
include free

theorem checkMove_misaligned (m : ea % 64 ≠ 0) : checkMove x t ea n k = .fault 2 0 :=
  (checkTile_free free).trans (need_of_false (beq_eq_false_iff_ne.2 m))

variable (m : ea % 64 = 0)
include m

theorem checkMove_outOfBounds (b : 0x800000 < ea + n) : checkMove x t ea n k = .fault 3 0 :=
  (checkTile_free free).trans ((need_of_true (beq_iff_eq.2 m)).trans (need_of_false (decide_eq_false (Nat.not_le.2 b))))

theorem checkMove_ok (b : ea + n ≤ 0x800000) : checkMove x t ea n k = k :=
  (checkTile_free free).trans ((need_of_true (beq_iff_eq.2 m)).trans (need_of_true (inSpad_iff.2 b)))

end

/-! ### MZERO, MLDT and MSTT (R300 to R302) -/

theorem exec_mzero : exec (.mzero h f) s = syl h s fun _ x => checkTile x [f.a.toNat]
    (.ok (x.putCells h 2 2 ((List.range 256).map fun i => codeOut (256 * f.a.toNat + i) (f.sub.getLsbD 5) 0))) := rfl

theorem mzero_busy (a : Acts s h x) (busy : x.tileBusy [f.a.toNat] = true) : exec (.mzero h f) s = .next (s.issueFault (slotNo h.slot) 5 0) :=
  exec_mzero.trans (syl_fault a (checkTile_busy busy))

theorem mzero_acts (a : Acts s h x) (free : x.tileBusy [f.a.toNat] = false) : exec (.mzero h f) s =
    .next (s.put (x.putCells h 2 2 ((List.range 256).map fun i => codeOut (256 * f.a.toNat + i) (f.sub.getLsbD 5) 0))) :=
  exec_mzero.trans (syl_ok a (checkTile_free free))

/-- The frame that MLDT and MSTT share: ACC_BUSY before the address is read, then the checks of the address. `fin` is what the syllable puts in flight. -/
def moveFrame (h : Hdr) (f : F3) (s : State) (fin : Core → Ctx → Nat → Ctx) : Out :=
  syl h s fun k x => vframe x [f.b] [] false
    (fun y => checkMove x f.a.toNat (y.laneAddr f.b f.d.toNat) (32 * fmtWidth f.fmt.toNat) (.ok (y.laneAddr f.b f.d.toNat)))
    (fun y _ ea => fin k y ea) (checkTile x [f.a.toNat] (.ok ())) [f.b]

section
variable {fin : Core → Ctx → Nat → Ctx} (a : Acts s h x) (o : Operands x [f.b] [] false y ls)
include a o

theorem moveFrame_busy (busy : x.tileBusy [f.a.toNat] = true) : moveFrame h f s fin = .next (s.issueFault (slotNo h.slot) 5 0) :=
  syl_fault a (vframe_pre o (checkTile_busy busy))

variable (free : x.tileBusy [f.a.toNat] = false)
include free

theorem moveFrame_misaligned (m : x.laneAddr f.b f.d.toNat % 64 ≠ 0) : moveFrame h f s fin = .next (s.issueFault (slotNo h.slot) 2 0) :=
  syl_fault a (vframe_fault o (fun _ => checkMove_misaligned free m) (checkTile_free free))

variable (m : x.laneAddr f.b f.d.toNat % 64 = 0)
include m

theorem moveFrame_outOfBounds (b : 0x800000 < x.laneAddr f.b f.d.toNat + 32 * fmtWidth f.fmt.toNat) :
    moveFrame h f s fin = .next (s.issueFault (slotNo h.slot) 3 0) :=
  syl_fault a (vframe_fault o (fun _ => checkMove_outOfBounds free m b) (checkTile_free free))

theorem moveFrame_acts (b : x.laneAddr f.b f.d.toNat + 32 * fmtWidth f.fmt.toNat ≤ 0x800000) :
    moveFrame h f s fin = .next (s.put (fin (s.core s.cur) y (x.laneAddr f.b f.d.toNat))) :=
  syl_ok a (vframe_ok o (fun _ => checkMove_ok free m b) (checkTile_free free))

end

/-- What MLDT writes into the cell of element `e.2` from the code `e.1`: its rounding into an F32 cell, its exact quire code into a QUIRE cell. -/
def loadOut (f : F3) (e : Nat × Nat) : CellOut :=
  if f.sub.getLsbD 5 then
    f32Out (256 * f.a.toNat + e.2) none [decodeV f.fmt.toNat e.1] f.rnd.toNat f.s f.fo (e.2 % 32) (snanFlag f.fmt.toNat e.1)
  else quireOut (256 * f.a.toNat + e.2) 0 (decodeV f.fmt.toNat e.1) (snanFlag f.fmt.toNat e.1)

theorem exec_mldt : exec (.mldt h f) s = moveFrame h f s fun k y ea =>
    (y.putCells h 16 16 ((elemsOf (fmtWidth f.fmt.toNat) (ofBytes (y.load k.mem ea (32 * fmtWidth f.fmt.toNat))) 256).zipIdx.map (loadOut f))).tick
      ea (32 * fmtWidth f.fmt.toNat) := rfl

theorem exec_mstt : exec (.mstt h f) s = moveFrame h f s fun k y ea =>
    { y with stores := y.stores ++ [⟨y.bn, y.bn + 16, h.slot, [], (List.range 256).map fun i =>
      (ea + i * fmtWidth f.fmt.toNat / 8, fmtWidth f.fmt.toNat / 8, ⟨f.fmt.toNat, k.cellVal (256 * f.a.toNat + i), f.rnd.toNat, f.s, f.fo, i % 32⟩),
      k.cellFlags ((List.range 256).map (256 * f.a.toNat + ·)), []⟩] } := rfl

/-! ### MSTEP (R295 to R299) -/

/-- The checks of an MSTEP on the tile group of dimension `d` at `t`; `hasX` says that it reads headers or indices. -/
def checkStep (x : Ctx) (t d : Nat) (hasX : Bool) (k : Act α) : Act α :=
  .need (!x.nests.any Nest.incomplete) .arrayBusy (checkTile x (range t (min 16 (t + d)))
    (.need (decide (x.arrayFree ≤ x.bn)) .arrayRate (.need (decide (t + d ≤ 16)) .accRange (.need (d == 1 || !hasX) .matrixFormat k))))

section
variable {d : Nat} {hasX : Bool}

theorem checkStep_arrayBusy (busy : x.nests.any Nest.incomplete = true) : checkStep x t d hasX k = .fault 20 0 := need_of_false (congrArg not busy)

variable (idle : x.nests.any Nest.incomplete = false)
include idle

theorem checkStep_of_idle : checkStep x t d hasX k = .need (decide (x.arrayFree ≤ x.bn)) .arrayRate
    (.need (decide (t + d ≤ 16)) .accRange (.need (d == 1 || !hasX) .matrixFormat k)) :=
  (need_of_true (congrArg not idle)).trans (checkTile_free (tileBusy_of_idle idle))

theorem checkStep_arrayRate (early : x.bn < x.arrayFree) : checkStep x t d hasX k = .fault 21 0 :=
  (checkStep_of_idle idle).trans (need_of_false (decide_eq_false (Nat.not_le.2 early)))

variable (due : x.arrayFree ≤ x.bn)
include due

theorem checkStep_accRange (out : 16 < t + d) : checkStep x t d hasX k = .fault 22 0 :=
  (checkStep_of_idle idle).trans ((need_of_true (decide_eq_true due)).trans (need_of_false (decide_eq_false (Nat.not_le.2 out))))

variable (fits : t + d ≤ 16)
include fits

theorem checkStep_of_fits : checkStep x t d hasX k = .need (d == 1 || !hasX) .matrixFormat k :=
  (checkStep_of_idle idle).trans ((need_of_true (decide_eq_true due)).trans (need_of_true (decide_eq_true fits)))

theorem checkStep_matrixFormat (wide : d ≠ 1) (has : hasX = true) : checkStep x t d hasX k = .fault 23 0 :=
  (checkStep_of_fits idle due fits).trans (need_of_false (Bool.or_eq_false_iff.2 ⟨beq_eq_false_iff_ne.2 wide, congrArg not has⟩))

theorem checkStep_ok (fmt : d = 1 ∨ hasX = false) : checkStep x t d hasX k = k :=
  (checkStep_of_fits idle due fits).trans (need_of_true (by simpa using fmt))

end

/-- An MSTEP reads headers in B4, and indices with SP = 1. -/
def readsX (f : F3) : Bool := f.sub.getLsbD 3 || f.fmt.toNat == 5

theorem readsX_eq : readsX f = (f.sub.getLsbD 3 || f.fmt == 5) :=
  congrArg (f.sub.getLsbD 3 || ·) (Bool.eq_iff_iff.2 (beq_iff_eq.trans ((BitVec.toNat_inj (y := 5)).trans beq_iff_eq.symm)))

/-- The registers that an MSTEP reads (R295). -/
def stepReads (f : F3) : List (BitVec 7) := [f.b, f.c] ++ (if f.sub.getLsbD 3 then [f.c + 1] else []) ++ (if readsX f then [f.d] else [])

/-- The operands of an MSTEP as it issues, with its structure table (R295). -/
def stepOps (x : Ctx) (f : F3) (table : Nat) : KOps :=
  { fmt := f.fmt.toNat, quire := f.sub.getLsbD 5, o := f.sub.getLsbD 4, sp := f.sub.getLsbD 3, fi := f.fi, table
    a := (x.rvec f.b).toNat, b := (x.rvec f.c).toNat + (if f.sub.getLsbD 3 then (x.rvec (f.c + 1)).toNat <<< 4096 else 0)
    ax := if f.sub.getLsbD 3 then (x.rvec f.d).toNat else (x.rvec f.d).toNat % 2 ^ 512
    bx := (x.rvec f.d).toNat >>> 512 % 2 ^ 512 }

theorem exec_mstep : exec (.mstep h f) s = syl h s fun _ x => vframe x (stepReads f) [] false
    (fun y => checkStep x f.a.toNat (tDim (x.rtab (f.sub.toNat % 4))) (readsX f) (.ok y))
    fun y _ _ => { y with
      msteps := y.msteps ++ [⟨y.bn, f.a.toNat, stepOps y f (x.rtab (f.sub.toNat % 4)), y.pc⟩]
      arrayFree := y.bn + occupancy (fmtWidth f.fmt.toNat) (tDim (x.rtab (f.sub.toNat % 4))) (f.sub.getLsbD 5) } := rfl

section
variable (a : Acts s h x) (o : Operands x (stepReads f) [] false y ls)
include a o

theorem mstep_fault {c : Nat} (e : ∀ k : Act Ctx, checkStep x f.a.toNat (tDim (x.rtab (f.sub.toNat % 4))) (readsX f) k = .fault c 0) :
    exec (.mstep h f) s = .next (s.issueFault (slotNo h.slot) c 0) :=
  exec_mstep.trans (syl_fault a (vframe_fault o fun _ => e _))

theorem mstep_acts (e : ∀ k : Act Ctx, checkStep x f.a.toNat (tDim (x.rtab (f.sub.toNat % 4))) (readsX f) k = k) :
    exec (.mstep h f) s = .next (s.put { y with
      msteps := y.msteps ++ [⟨y.bn, f.a.toNat, stepOps x f (x.rtab (f.sub.toNat % 4)), y.pc⟩]
      arrayFree := y.bn + occupancy (fmtWidth f.fmt.toNat) (tDim (x.rtab (f.sub.toNat % 4))) (f.sub.getLsbD 5) }) := by
  have issues := exec_mstep.trans (syl_ok a (vframe_ok_of_reads (v := id) o fun _ => e _))
  obtain ⟨p, rfl⟩ := eq_pops_of_operands o
  exact issues

end

end

/-- Settles O30: the frame of the tile moves and the checks of an MSTEP answer in the order of R299, and each instruction fixes what it puts in flight. -/
theorem tileInstructions : Obligations.TileInstructions := by
  rintro s h f x y ls k t w n a rfl rfl rfl rfl
  refine ⟨mzero_busy a, mzero_acts a, ?moves, ?steps⟩
  case moves =>
    rintro ea ea_eq o
    obtain rfl := ea_eq.trans (laneAddr_eq ..).symm
    refine ⟨fun busy => ⟨exec_mldt.trans (moveFrame_busy a o busy), exec_mstt.trans (moveFrame_busy a o busy)⟩,
      fun free m => ⟨exec_mldt.trans (moveFrame_misaligned a o free m), exec_mstt.trans (moveFrame_misaligned a o free m)⟩,
      fun free m b => ⟨exec_mldt.trans (moveFrame_outOfBounds a o free m b), exec_mstt.trans (moveFrame_outOfBounds a o free m b)⟩,
      fun free m b => ⟨?_, exec_mstt.trans (moveFrame_acts a o free m b)⟩⟩
    have loads := exec_mldt.trans (moveFrame_acts a o free m b)
    obtain ⟨p, rfl⟩ := eq_pops_of_operands o
    exact loads
  case steps =>
    rintro sp hasX d reads rfl has_eq rfl rfl o
    obtain rfl := has_eq.trans readsX_eq.symm
    exact ⟨fun busy => mstep_fault a o fun _ => checkStep_arrayBusy busy,
      fun idle early => mstep_fault a o fun _ => checkStep_arrayRate idle early,
      fun idle due out => mstep_fault a o fun _ => checkStep_accRange idle due out,
      fun idle due fits wide has => mstep_fault a o fun _ => checkStep_matrixFormat idle due fits wide has,
      fun idle due fits fmt => mstep_acts a o fun _ => checkStep_ok idle due fits fmt⟩

/-! ### MGO, MWAIT, MSTAT and MABORT (R305, R313 to R315) -/

section
variable {h : Hdr} {f : F3} {s : State} {x y : Ctx} {ls : List Loc}

/-- MGO's exchange of the four shape registers of a nest (R305). -/
def exchangeShapes (x : Ctx) (f : F3) : Ctx := if f.w then [0, 1, 2, 3].foldl Ctx.exchange x else x

/-- An exchange changes neither the bundle number nor the bundle's address. -/
theorem bundle_exchange (x : Ctx) (id : Nat) : (x.exchange id).bn = x.bn ∧ (x.exchange id).pc = x.pc :=
  List.foldlRecOn (motive := fun y : Ctx => y.bn = x.bn ∧ y.pc = x.pc) _ _ ⟨rfl, rfl⟩ fun _ kept _ _ => kept

theorem bundle_exchangeShapes (x : Ctx) (f : F3) : (exchangeShapes x f).bn = x.bn ∧ (exchangeShapes x f).pc = x.pc := by
  unfold exchangeShapes
  split
  · refine List.foldlRecOn (motive := fun y : Ctx => y.bn = x.bn ∧ y.pc = x.pc) _ _ ⟨rfl, rfl⟩ fun y ⟨bn, pc⟩ id _ => ?_
    obtain ⟨bn', pc'⟩ := bundle_exchange y id
    exact ⟨bn'.trans bn, pc'.trans pc⟩
  · exact ⟨rfl, rfl⟩

/-- The nest that MGO queues: the shape fields and the table of `x`, at bundle `b` and address `pc` (R304, R305). -/
def queuedNest (f : F3) (x : Ctx) (b pc : Nat) : Nest :=
  { n := f.a.toNat, state := .queued, cause := 0, q := f.sub.getLsbD 5, o := f.sub.getLsbD 4, sp := f.sub.getLsbD 3, z := f.sub.getLsbD 2, fi := f.fi
    table := x.rtab (f.sub.toNat % 4), a := sideOf x 0, b := sideOf x 1, base := (x.view 2 0).base % 16, tstr := (x.view 2 0).str
    rank := (x.view 3 0).rank, ext := (x.view 3 0).ext, issued := b, pc, started := 0, done := 0, ha := 0, hb := 0
    freedA := 0, freedB := 0, nextAt := 0, cur := none }

theorem exec_mgo : exec (.mgo h f) s = syl h s fun _ x =>
    .need (decide ((x.nests.filter Nest.incomplete).length < 4)) .mgoFull
      (.need (!x.nests.any fun n => n.n == f.a.toNat && n.incomplete) .mgoTag
        (.ok { exchangeShapes x f with nests := ((exchangeShapes x f).nests.filter fun m => m.n != f.a.toNat || m.cur.isSome) ++
          [queuedNest f (exchangeShapes x f) (exchangeShapes x f).bn (exchangeShapes x f).pc] })) := rfl

section
variable (a : Acts s h x)
include a

theorem mgo_full (full : 4 ≤ (x.nests.filter Nest.incomplete).length) : exec (.mgo h f) s = .next (s.issueFault (slotNo h.slot) 24 0) :=
  exec_mgo.trans (syl_fault a (need_of_false (decide_eq_false (Nat.not_lt.2 full))))

variable (room : (x.nests.filter Nest.incomplete).length < 4)
include room

theorem mgo_tagInUse (used : ∃ n ∈ x.nests, n.n = f.a.toNat ∧ n.incomplete = true) :
    exec (.mgo h f) s = .next (s.issueFault (slotNo h.slot) 25 0) :=
  exec_mgo.trans (syl_fault a ((need_of_true (decide_eq_true room)).trans (need_of_false (by simpa using used))))

theorem mgo_acts (unused : ∀ n ∈ x.nests, n.n = f.a.toNat → n.incomplete = false) : exec (.mgo h f) s =
    .next (s.put { exchangeShapes x f with nests := ((exchangeShapes x f).nests.filter fun m => m.n != f.a.toNat || m.cur.isSome) ++
      [queuedNest f (exchangeShapes x f) x.bn x.pc] }) := by
  obtain ⟨bn, pc⟩ := bundle_exchangeShapes x f
  rw [← bn, ← pc]
  exact exec_mgo.trans (syl_ok a ((need_of_true (decide_eq_true room)).trans (need_of_true (by simpa using unused))))

end

theorem exec_mwait : exec (.mwait h f) s = syl h s fun _ x =>
    .await (!x.nests.any fun n => (f.sub.getLsbD 0 || n.n == f.a.toNat) && n.incomplete) (.ok x) := rfl

theorem mwait_waits (a : Acts s h x) (running : ∃ n ∈ x.nests, (f.sub.getLsbD 0 = true ∨ n.n = f.a.toNat) ∧ n.incomplete = true) :
    exec (.mwait h f) s = .next s.hold :=
  exec_mwait.trans (syl_wait a (await_of_false (by simpa using running)))

theorem mwait_ends (a : Acts s h x) (complete : ∀ n ∈ x.nests, (f.sub.getLsbD 0 = true ∨ n.n = f.a.toNat) → n.incomplete = false) :
    exec (.mwait h f) s = .next (s.put x) :=
  exec_mwait.trans (syl_ok a (await_of_true (by simpa using complete)))

theorem exec_mabort : exec (.mabort h f) s = syl h s fun _ x => .ok { x with nests := x.nests.map fun n =>
    if n.n = f.a.toNat ∧ n.incomplete = true then { n with state := .aborted } else n } := rfl

/-- The status record of tag `n` (Table 11.8). -/
def statusRecord (x : Ctx) (n : Nat) : Nat :=
  match x.lastNest n with
  | some n => n.state.code + 256 * n.cause + n.done * 2 ^ 64
  | none => 0

theorem exec_mstat : exec (.mstat h f) s = syl h s fun _ x => vframe x [f.b] [] false
    (fun y => .need (y.laneAddr f.b f.d.toNat % 16 == 0) .misalign
      (.need (inSpad (y.laneAddr f.b f.d.toNat) 16) .bounds (.ok (y.laneAddr f.b f.d.toNat))))
    (fun y _ ea => y.store h 4 ((bytesOf (statusRecord y f.a.toNat) 16).zipIdx.map fun e => (ea + e.2, e.1))) (deps := [f.b]) := rfl

section
variable (a : Acts s h x) (o : Operands x [f.b] [] false y ls)
include a o

theorem mstat_misaligned (m : x.laneAddr f.b f.d.toNat % 16 ≠ 0) : exec (.mstat h f) s = .next (s.issueFault (slotNo h.slot) 2 0) :=
  exec_mstat.trans (syl_fault a (vframe_fault o fun _ => need_of_false (beq_eq_false_iff_ne.2 m)))

variable (m : x.laneAddr f.b f.d.toNat % 16 = 0)
include m

theorem mstat_outOfBounds (b : 0x800000 < x.laneAddr f.b f.d.toNat + 16) : exec (.mstat h f) s = .next (s.issueFault (slotNo h.slot) 3 0) :=
  exec_mstat.trans (syl_fault a (vframe_fault o fun _ =>
    (need_of_true (beq_iff_eq.2 m)).trans (need_of_false (decide_eq_false (Nat.not_le.2 b)))))

theorem mstat_acts (b : x.laneAddr f.b f.d.toNat + 16 ≤ 0x800000) : exec (.mstat h f) s = .next (s.put
    (y.store h 4 ((bytesOf (statusRecord x f.a.toNat) 16).zipIdx.map fun e => (x.laneAddr f.b f.d.toNat + e.2, e.1)))) := by
  have stores := exec_mstat.trans (syl_ok a (vframe_ok (v := x.laneAddr f.b f.d.toNat) o fun _ =>
    (need_of_true (beq_iff_eq.2 m)).trans (need_of_true (inSpad_iff.2 b))))
  obtain ⟨p, rfl⟩ := eq_pops_of_operands o
  exact stores

end

end

/-! ### The start of a nest and of a K-step (R306 to R309, R312) -/

section
variable {s : State} {c : Nat} {x : Ctx} {n : Nest} {o : KOps}

/-- The nest with its ring pointers taken and its first K-step due. -/
def startedNest (s : State) (x : Ctx) (n : Nest) : Nest :=
  { n with state := .running, ha := (SMap.get Ring.zero x.rings n.a.ring).h, hb := (SMap.get Ring.zero x.rings n.b.ring).h, nextAt := s.cycle }

section
variable (hx : s.ctx c = some x) (works : s.works x.part (unitMatrix c) = true)
include hx works

section
variable (next : x.nextNest = some n) (ready : x.nestReady n = true)
include next ready

theorem mgoNestStart_of_checked (checked : n.check x.rings = none) : mgoNestStart c s = some (s.setCtx c (x.setNest (startedNest s x n).finish)) := by
  simp only [mgoNestStart, hx, next, Option.bind_eq_bind, Option.bind_some, ready, works, Bool.and_self, if_true, checked]
  rfl

theorem mgoNestStart_of_refused {code : Nat} {cause : Cause} (refused : n.check x.rings = some (code, cause)) : mgoNestStart c s =
    some ((s.setCtx c (x.setNest { n with state := .faulted, cause := code })).engineFault x.part (unitMatrix c) cause.code n.n 0 0 x.job) := by
  simp only [mgoNestStart, hx, next, Option.bind_eq_bind, Option.bind_some, ready, works, Bool.and_self, if_true, refused]

end

variable (running : x.nests.find? (fun n => n.state == .running) = some n) (idle : n.cur = none) (more : n.started < n.total)
include running idle more

theorem kstepStart_of_filled (due : n.nextAt ≤ s.cycle)
    (filledA : filled (SMap.get Ring.zero x.rings n.a.ring) n.ha (n.uA n.started).toNat = true)
    (filledB : filled (SMap.get Ring.zero x.rings n.b.ring) n.hb (n.uB n.started).toNat = true) : kstepStart c s = some (s.setCtx c (x.setNest { n with
      cur := some (nestOps (s.core c) x n n.started), started := n.started + 1, nextAt := s.cycle + occupancy n.w n.d n.q })) := by
  simp only [kstepStart, hx, running, Option.bind_eq_bind, Option.bind_some, idle, more, works, filledA, filledB, due, Option.isNone_none, decide_true,
    Bool.and_self, if_true]

/-- A K-step that has to wait for a slot frees what its nest no longer reads. -/
theorem kstepStart_of_unfilled (unfilled : (filled (SMap.get Ring.zero x.rings n.a.ring) n.ha (n.uA n.started).toNat &&
      filled (SMap.get Ring.zero x.rings n.b.ring) n.hb (n.uB n.started).toNat) = false) :
    kstepStart c s = if (x.freeNest n).rings = x.rings then none else some (s.setCtx c (x.freeNest n)) := by
  simp only [kstepStart, hx, running, Option.bind_eq_bind, Option.bind_some, idle, more, works, unfilled, Option.isNone_none, decide_true, Bool.and_self,
    if_true, Bool.false_eq_true, if_false]

end

/-! ### The end of a K-step (R309 to R311) -/

/-- The nest once the K-step in the array has retired. -/
def retiredNest (n : Nest) : Nest := { n with cur := none, done := n.done + 1 }.finish

theorem finish_eq : n.finish = { n with state := if n.state = .running ∧ n.total ≤ n.done then .done else n.state } := by
  unfold Nest.finish
  split <;> rfl

theorem retiredNest_eq : retiredNest n =
    { n with cur := none, done := n.done + 1, state := if n.state = .running ∧ n.total ≤ n.done + 1 then .done else n.state } := finish_eq

/-- A running nest is done after its last K-step. -/
theorem retiredNest_state (running : n.state = .running) : (retiredNest n).state = if n.total ≤ n.done + 1 then .done else .running := by
  rw [retiredNest_eq, running]
  simp only [true_and]

/-- The nest with the slots noted that it has freed on the rings (R309). -/
def freedNest (rings : SMap Ring) (n : Nest) : Nest :=
  { n with freedA := n.freed (SMap.get Ring.zero rings n.a.ring) n.ha n.uA n.done, freedB := n.freed (SMap.get Ring.zero rings n.b.ring) n.hb n.uB n.done }

theorem nests_freeNest : (x.freeNest n).nests = (x.setNest (freedNest x.rings n)).nests := rfl

theorem head_freeNest_b (w : SMap.wf Ring.zero x.rings = true) : (SMap.get Ring.zero (x.freeNest n).rings n.b.ring).h =
    (n.hb + n.freed (SMap.get Ring.zero x.rings n.b.ring) n.hb n.uB n.done) % 2 ^ 32 :=
  congrArg Ring.h (SMap.get_put_same (SMap.put_wf w))

theorem head_freeNest_a (w : SMap.wf Ring.zero x.rings = true) (ne : n.a.ring ≠ n.b.ring) : (SMap.get Ring.zero (x.freeNest n).rings n.a.ring).h =
    (n.ha + n.freed (SMap.get Ring.zero x.rings n.a.ring) n.ha n.uA n.done) % 2 ^ 32 :=
  congrArg Ring.h ((SMap.get_put_ne ne (SMap.put_wf w)).trans (SMap.get_put_same w))

/-- Tagging the windows of written cells changes nothing else of a context. -/
theorem markCells_eq (outs : List CellOut) : ∃ d, outs.foldl (fun x o => x.markCell o.write.cell) x = { x with dirty := d } := by
  refine List.foldlRecOn (motive := fun y : Ctx => ∃ d, y = { x with dirty := d }) outs _ ⟨_, rfl⟩ ?_
  rintro _ ⟨d, rfl⟩ o -
  exact ⟨_, rfl⟩

/-- What the K-step in the array of nest `n`, with operands `o`, writes on core `k` (R306, R310). -/
def kstepOuts (k : Core) (n : Nest) (o : KOps) : List CellOut :=
  kStep k o (n.z && !(List.range n.done).any fun j => n.tile j == n.tile n.done) (n.tile n.done).toNat

/-- Core `k` with those cells written and the context `y`. -/
def settledCore (k : Core) (n : Nest) (o : KOps) (y : Ctx) : Core := { (kstepOuts k n o).foldl (fun k w => settleCell k w.write) k with ctx := some y }

/-- Without the overflow trap, a K-step's retirement settles its cells, and of the rings and the nests changes what its nest frees. -/
theorem kstepRetire_of_noTrap (hx : s.ctx c = some x) (works : s.works x.part (unitMatrix c) = true) (active : x.nests.find? (fun n => n.cur.isSome) = some n)
    (ops : n.cur = some o) (noTrap : x.ctl.qctl % 2 = 0) : ∃ y, kstepRetire c s = some (s.setCore c (settledCore (s.core c) n o y)) ∧
      y.nests = (x.freeNest (retiredNest n)).nests ∧ y.rings = (x.freeNest (retiredNest n)).rings := by
  obtain ⟨d, marked⟩ := markCells_eq (x := x) (kstepOuts (s.core c) n o)
  rw [kstepOuts] at marked
  simp only [kstepRetire, hx, active, ops, Option.bind_eq_bind, Option.bind_some, works, if_true, marked, noTrap, Nat.zero_ne_one, if_false,
    Option.isSome_none, Bool.false_and, Bool.false_eq_true]
  exact ⟨_, rfl, rfl, rfl⟩

end

/-- Settles O31: the instructions answer their checks in order, a nest and a K-step start where their conditions hold, and a K-step's retirement frees by its nest's own count. -/
theorem nests : Obligations.Nests := by
  refine ⟨?instructions, ?steps⟩
  case instructions =>
    rintro s h f x y ls a
    refine ⟨mgo_full a, mgo_tagInUse a, ?queues, mwait_waits a, mwait_ends a, exec_mabort.trans (syl_ok a rfl), ?status⟩
    case queues =>
      rintro x' rfl room unused
      exact mgo_acts a room unused
    case status =>
      rintro ea ea_eq o
      obtain rfl := ea_eq.trans (laneAddr_eq ..).symm
      refine ⟨mstat_misaligned a o, mstat_outOfBounds a o, ?_⟩
      rintro m b r rfl
      exact mstat_acts a o m b
  case steps =>
    rintro s c x n hx works
    refine ⟨fun next ready checked => engine_some (mgoNestStart_of_checked hx works next ready checked),
      fun code cause next ready refused => engine_some (mgoNestStart_of_refused hx works next ready refused),
      fun running idle more due filledA filledB => engine_some (kstepStart_of_filled hx works running idle more due filledA filledB),
      ?waits, ?retires⟩
    case waits =>
      intro running idle more unfilled
      have frees := kstepStart_of_unfilled hx works running idle more unfilled
      split
      next same => exact engine_none (frees.trans (if_pos same))
      next changed => exact engine_some (frees.trans (if_neg changed))
    case retires =>
      intro o active ops noTrap w
      obtain ⟨y, retires, nests, rings⟩ := kstepRetire_of_noTrap hx works active ops noTrap
      have core := core_setCore_same (s := s) (c := c) (k := settledCore (s.core c) n o y) rfl
      have headB := head_freeNest_b (n := retiredNest n) w
      have headA := head_freeNest_a (n := retiredNest n) w
      have state := retiredNest_state (n := n)
      rw [← rings] at headA headB
      rw [retiredNest_eq] at nests headA headB state
      exact ⟨_, y, _, engine_some retires, congrArg Core.ctx core, nests.trans nests_freeNest, rfl, rfl, rfl, rfl, state, headB, headA,
        (congrArg Core.cells core :)⟩

end Sys2Proof.Machine.MatrixEngine
